-- ==== Sys2Proof/Word.lean ====
section
/-! DEFINITION. The word types of the Limcy LT-8 model and the index types of its replicated parts. -/

namespace Sys2Proof

/-- A byte. -/
abbrev Byte := BitVec 8
/-- A byte string, lowest address first. -/
abbrev Bytes := List Byte
/-- A register or argument word of 64 bits (R106, R425). -/
abbrev Word := BitVec 64
/-- An OTP word with its check bits: data [63:0], check [71:64] (R156). -/
abbrev OtpWord := BitVec 72
/-- A seat number, 0 to 67 (R103). -/
abbrev Seat := Fin 68
/-- A partition number, 0 to 63 (R359). -/
abbrev Part := Fin 64
/-- A mailbox number, 0 to 127 (R126). -/
abbrev Mbx := Fin 128
/-- A cell number of Table 13-2 below 92 (92 to 95 are reserved, R398). -/
abbrev Cell := Fin 92
/-- A torus link port in kd_port order (R83). -/
abbrev Port := Fin 6
/-- A stream, AES or HBM lane (R75, R78). -/
abbrev Lane := Fin 16
/-- A firewall unit number, 0x00 to 0x7F (R86). -/
abbrev Unit7 := Fin 128
/-- A load plan number (R329). -/
abbrev PlanIx := Fin 256
/-- A result entry number of one class (R110). -/
abbrev EntryIx := Fin 8

end Sys2Proof
end

