-- ==== Sys2Proof/Syntax.lean ====
section
/-! DEFINITION. The commands of Limcy: one constructor of `Instr` per row of spec/opcode_table.json.

The table gives its rows no operands. An operand here is what the world outside supplies with the event: the
request on the fabric target port, the data of a response, the readings of a sense, the outcome of a cell.
A row that starts a seat's job has none: the job and its arguments lie in the seat's queue (R110, R114). -/

namespace Sys2Proof

/-- The nine engines, in CORE_STATUS.ENG_RESET order (Table 1-12). -/
inductive Engine where
  | pke | dig | ing | otp | seq | keys | part | recd | mbx
  deriving DecidableEq, Repr

/-- The four queue classes (Table 3-8), in the order of SEAT_ACCEPT.CLASS. -/
inductive QClass where
  | pke | dig | ing | ctrl
  deriving DecidableEq, Repr

/-- A request on the fabric target port (Table 2-5) to a register the command names: `low` is the byte offset
within the register's 8 bytes, so size and `low` give the alignment. -/
structure Req where
  src : BitVec 8
  id : BitVec 6
  wide : Bool
  low : BitVec 3
  data : Word
  deriving DecidableEq, Repr

/-- A request on the fabric target port by its address (Table 2-5). -/
structure Access where
  write : Bool
  addr : BitVec 21
  src : BitVec 8
  id : BitVec 6
  wide : Bool
  data : Word
  deriving DecidableEq, Repr

/-- The path of an MCTP message: I3C as seat 66 or PCIe VDM as seat 64 (R103, R133, R382). -/
inductive MctpPath where
  | i3c | pcie
  deriving DecidableEq, Repr, Inhabited

/-- What the start sense meets: sense groups that fail their reference test, words whose margins read otherwise than
at the last read (address, low, high), and whether a word and margin ended a fourth unit with ST_TRANSIENT (R166). -/
structure SenseEnv where
  groupsFailed : List (Fin 8)
  drift : List (BitVec 12 × OtpWord × OtpWord)
  transient : Bool
  deriving DecidableEq, Repr

/-- What the flash declares in its SFDP tables (R96, R243). -/
structure Sfdp where
  sizeMiB : Nat
  sectorKiB : Nat
  octal : Bool
  deriving DecidableEq, Repr

/-- The read of a word after a programming pulse at both margins, and the dedicated supply sample taken before the
next pulse, in mV (R175, R176). -/
structure Pulse where
  lo : OtpWord
  hi : OtpWord
  vpp : BitVec 16
  deriving DecidableEq, Repr

/-- What a start sequence meets (R249): the SFDP tables, cells that fail their start known-answer test, the reads
after each programming pulse the start makes, an initiator error of one of its own accesses, kd_ack of the
erasure of a resume, and whether each microcode copy's ROM suite fails on every cell of a kind (R299). -/
structure StartEnv where
  sfdp : Sfdp
  cellsFailed : List Cell
  pulses : List Pulse
  initError : Bool
  kdAcks : BitVec 6
  suiteRejects : BitVec 2
  deriving DecidableEq, Repr

/-- A sensor sample (R92): millivolts, and half degrees in two's complement. -/
structure Samples where
  vpp : BitVec 16
  vaon : BitVec 16
  vctrl : BitVec 16
  vstrm : BitVec 16
  t0 : BitVec 16
  t1 : BitVec 16
  t2 : BitVec 16
  t3 : BitVec 16
  deriving DecidableEq, Repr

/-- The causes of a core fault that are detected directly (R43, Table 2-19). -/
inductive CoreCause where
  | ctrlDomain | aonDomain | keyStore | coreArbiter
  deriving DecidableEq, Repr

/-- The six causes of an engine fault, in the order of R31. -/
inductive EngCause where
  | parity | microcode | timeout | busProtocol | arbiter | initiator
  deriving DecidableEq, Repr

/-- The commands. -/
inductive Instr where
  -- resets and start
  | porAonRise
  | porAonAssert
  | chipReset
  | chipResetRelease
  | fuseSense (env : SenseEnv)
  | startSequence (env : StartEnv)
  -- fabric target accesses
  | seatCmdHdr (page : Seat) (rq : Req)
  | seatRelease (page : Seat) (rq : Req)
  | seatAbort (page : Seat) (rq : Req)
  | seatReset (page : Seat) (rq : Req)
  | seatFaultClear (page : Seat) (rq : Req)
  | seatIrqStatusClear (page : Seat) (rq : Req)
  | seatIrqEnWrite (page : Seat) (rq : Req)
  | coreIrqStatusClear (rq : Req)
  | coreIrqEnWrite (rq : Req)
  | coreWake (rq : Req) (cellsFailed : List Cell)
  | registerWrite (a : Access)
  | accessErrorResponse (a : Access)
  | beatNowRead (rq : Req)
  | beatEventsRead (rq : Req)
  | pkeCountsRead (rq : Req)
  | digCountsRead (rq : Req)
  | ingDropRead (rq : Req)
  | partBlockedRead (n : Part) (rq : Req)
  | seatMbxEmptiedRead (page : Seat) (upper : Bool) (rq : Req)
  | mbxPost (m : Mbx) (rq : Req)
  | mbxInfoRead (m : Mbx) (rq : Req)
  | mbxEmpty (m : Mbx) (rq : Req)
  | bootConfirm (rq : Req)
  | digWord (rq : Req)
  | digLastWord (k : Fin 8) (rq : Req)
  | digDrain
  | partGroveIn7 (rq : Req)
  -- frames and pins
  | accessFrame (path : MctpPath) (frame : Bytes)
  | lcauth (dr : BitVec 128)
  | i3cEntdaa
  | i3cBusFree (acked : Bool)
  -- jobs and their ends
  | jobComplete (seat : Seat) (cls : QClass) (entry : EntryIx)
  | powerSet
  | coreComputeReset
  | cmpQuiesceAck
  | cmpQuiesceTimeout
  | rstComputeHoldEnd
  | cmpReady
  | cmpReadyTimeout
  | beatRebase
  | beatRebaseTimeout
  -- beat
  | beatEdge (count : Word) (lock : Bool) (off : Nat)
  | beatEdgeMissing
  | heartbeat
  | heartwoodCheckpoint
  | sweepCredit
  -- sensors and supplies
  | sensorSample (v : Samples)
  | pwrStrmGoodRise (cellsFailed : List Cell)
  | pwrStrmTimeout
  | pwrStrmGoodLoss
  | pwrCtrlGoodLoss
  -- cells, engines, domains, core
  | cellUnitDone (cell : Cell) (ok : Bool) (more : Bool)
  | knownAnswerTestDone (cell : Cell) (failed : BitVec 8)
  | engineFault (e : Engine) (cause : EngCause)
  | engineResetDone (e : Engine) (cellsFailed : List Cell)
  | strmDomainFault
  | coreFault (cause : CoreCause)
  | heartwoodWrite (failedReadBacks : Nat)
  | heartwoodChainCheck
  | microcodeDigestCheck (pkeStoreBad : Bool) (digStoreBad : Bool)
  -- initiator
  | initiatorResponse (tag : BitVec 6) (data : Bytes)
  | initiatorError (tag : BitVec 6)
  | initiatorTimeout (tag : BitVec 6)
  | initiatorLateResponse (tag : BitVec 6)
  -- stream and HBM lanes
  | streamChunk (lane : Lane) (tag : BitVec 16) (first : Bool) (beats : Nat) (data : Bytes)
  | hbmWriteAck (lane : Lane) (err : Bool)
  | sweepReadData (chunk : Bytes)
  | sweepReadError
  | ingestChunkTimeout (tag : BitVec 16)
  -- link keys
  | kdAck (port : Port)
  | kdNack (port : Port)
  | kdAckTimeout (port : Port)
  | linkKeyInstall (port : Port)
  | linkKeySwitch (port : Port)
  | linkHelloTimer (port : Port)
  | linkHello (port : Port)
  | linkReply (port : Port)
  | linkFinish (port : Port)
  | linkReject (port : Port)
  | linkExchangeTimeout (port : Port)
  -- firebreak bus
  | fbShadowCrcResponse (u : Unit7) (crc : BitVec 32)
  | fbArmed (u : Unit7)
  | fbLate (u : Unit7)
  | fbArmDeadline
  | fbDisarmed (u : Unit7)
  | swapBeat
  | fbSwapped (u : Unit7) (beat : Word)
  | fbSwappedLate (u : Unit7) (beat : Word)
  | fbScrubDone (u : Unit7) (number : BitVec 32)
  | fbScrubFailed (u : Unit7) (number : BitVec 32)
  | fbBlockedCount (u : Unit7) (count : Word)
  | blockedPoll
  | teardownSwapRetry
  -- grove, timers
  | groveCollectionBeat
  | groveWaitEnd
  | trialTimerExpiry
  | ctrPendingRetry
  | roleLapse (seat : Seat)
  | nonceExpiry (seat : Seat) (consent : Bool)
  | pldmSessionTimeout
  | otpPulseDone (p : Pulse)
  -- OTP and life-cycle jobs
  | otpRead
  | otpProgram
  | otpLock
  | otpRepair
  | otpCtrAdvance
  | lcAuthBegin
  | lcAuthProve
  | lcAuthEnd
  | lcTransition
  | lcDebugOpen
  | lcDebugClose
  | lcDebugPolicy
  -- BOOT jobs
  | bootStageBegin
  | bootStageData
  | bootStageFinish
  | bootStageCancel
  | bootActivate
  | bootHandoverPut
  | bootHandoverGet
  | bootConfigCommit
  | bootSecretAccess
  -- KEYS jobs
  | keysGenerate
  | keysImport
  | keysExport
  | keysDerive
  | keysSealDerive
  | keysInstallerDerive
  | keysFree
  | keysInfo
  | keysCertRead
  | keysRootProvision
  | keysLinkRestart
  -- PKE jobs
  | pkeSign
  | pkeVerify
  | pkeHybridSign
  | pkeHybridVerify
  | hybridSecondPart
  | pkeEcdh
  | pkeKemEncaps
  | pkeKemDecaps
  | pkePublic
  | pkeRsaSign
  | pkeRsaVerify
  | pkeCurveLoad
  | pkeCurveClear
  -- DIG jobs
  | digOpen
  | digAbsorb
  | digFinal
  | digCompare
  | digSave
  | digRestore
  | digAbort
  -- ING jobs
  | ingPlan
  | ingLoad
  | ingPlanFree
  | ingShardInfo
  | ingSweepSet
  | ingKeyDrop
  -- PART jobs
  | partCreate
  | partDestroy
  | partShadowBegin
  | partShadowWrite
  | partSwap
  | partShadowCancel
  | partEvidence
  | partGroveCollect
  | partClearRetry
  -- REC jobs
  | recRead
  | recClear
  | recHwRead
  | recRetest
  | recDumpRead
  -- SPDM requests
  | getVersion (path : MctpPath) (version : BitVec 8)
  | getCapabilities (path : MctpPath) (version : BitVec 8)
  | negotiateAlgorithms (path : MctpPath) (version : BitVec 8)
  | getDigests (path : MctpPath)
  | getCertificate (path : MctpPath) (slot : BitVec 8) (offset : Nat) (length : Nat)
  | challenge (path : MctpPath) (slot : BitVec 8) (nonce : Bytes)
  | getMeasurements (path : MctpPath) (index : BitVec 8) (signed : Bool) (nonce : Bytes)
  | keyExchange (path : MctpPath) (slot : BitVec 8) (reqSession : BitVec 16) (peer : Bytes)
  | spdmFinish (path : MctpPath) (session : BitVec 32) (verify : BitVec 384)
  | endSession (path : MctpPath) (session : BitVec 32)
  | chunkSend (path : MctpPath) (handle : BitVec 8) (seqNo : BitVec 16) (last : Bool) (data : Bytes)
  | chunkGet (path : MctpPath) (handle : BitVec 8) (seqNo : BitVec 16)
  | spdmUnsupportedRequest (path : MctpPath) (code : BitVec 8)
  -- PLDM commands
  | queryDeviceIdentifiers (path : MctpPath)
  | getFirmwareParameters (path : MctpPath)
  | requestUpdate (path : MctpPath) (maxTransfer : Nat)
  | passComponentTable (path : MctpPath) (ident : BitVec 16)
  | updateComponent (path : MctpPath) (ident : BitVec 16) (length : BitVec 32)
  | requestFirmwareData (path : MctpPath) (data : Bytes)
  | activateFirmware (path : MctpPath)
  | getStatus (path : MctpPath)
  | cancelUpdateComponent (path : MctpPath)
  | cancelUpdate (path : MctpPath)
  | pldmUnsupportedCmd (path : MctpPath) (code : BitVec 8)
  -- remaining
  | predictedEdge
  | keysLinkRx (rq : Req)
  deriving DecidableEq, Repr

end Sys2Proof
end

