-- ==== Sys2Proof/Config.lean ====
section
/-! DEFINITION. What an integration or a silicon step fixes, the functions of outside standards, and the free values.

Everything here but the plain constants of time is opaque: no proof can see a value of it, so a claim holds
whatever the integration, the ROM edition, the random generator and the outside standards give
(assumption entries 5, 6 and 11). -/

namespace Sys2Proof.Config

/-! ## Time (assumption entry 1) -/

/-- One CTRL cycle of 1.05 GHz (R22), in units of 2^-8/21 ns. -/
def ctrlCycle : Nat := 5120
/-- One AON cycle of 25 MHz (R22). -/
def aonCycle : Nat := 215040
/-- One unit of BEAT_PERIOD, 2^-8 ns (Table 4-10). -/
def periodUnit : Nat := 21
/-- 1.000 µs. -/
def microsecond : Nat := 5376000
/-- 1 ns. -/
def nanosecond : Nat := 5376
/-- One millisecond. -/
def millisecond : Nat := 5376000000

/-! ## Per integration and per silicon (R6, R7) -/

/-- CORE_ID.CONFIG, assigned to the integration (R6). -/
opaque configCode : BitVec 8
/-- CORE_REV.STEP (R7). -/
opaque siliconStep : BitVec 8
/-- CORE_REV.ROM (R7). -/
opaque romEdition : BitVec 8
/-- The ROM manufacturing key digest of Table 6-5, fixed per ROM edition. -/
opaque romMakerDigest : BitVec 384
/-- The program identifiers a ROM edition requires (R299); the maker publishes them, not the manual. -/
opaque romProgramIds : List (BitVec 16)
/-- Sortuoth's IANA enterprise number (R133): the manual does not print it. -/
opaque ianaEnterprise : BitVec 32

/-- Fabric address of the transmit doorbell of link port k (R235, Table 2-21): the integration's. -/
opaque linkDoorbell : Fin 6 → BitVec 64
/-- What Limcy writes there for a frame of the given length (R235). -/
opaque linkDoorbellData : Fin 6 → Nat → Bytes

/-! ## Free values -/

/-- A free word: the n-th value the manual leaves open. -/
opaque freeWord : Nat → BitVec 64
/-- The n-th draw from the DRBG of R220, of the given number of bytes. -/
opaque drbg : Nat → (n : Nat) → BitVec (8 * n)
/-- The KDF label of KEYS_DERIVE: Table 7-7 names its context buffer and no label (assumption entry 22). -/
opaque deriveLabel : Bytes
/-- Event code of the record of a CORE_WAKE write by a seat that may not wake Limcy (R53): the manual names none. -/
opaque foreignWakeCode : BitVec 16
/-- What a record holds that a power loss cut (R418): the n-th such record. -/
opaque tornRecord : Nat → BitVec 512

/-- CBOR of the elements of key 6 of a member statement that concern a partition, of which it has none (R390): profiling
open, highest level, level changes. -/
opaque memberDebug : Fin 3 → Bytes

/-- The 528 bytes a wrapped context image encrypts (Table 10-6: layout undefined to software): ALG, key, customization,
absorbed bytes, CU word. -/
opaque contextBytes : BitVec 8 → Bytes → Bytes → Bytes → BitVec 64 → Bytes

/-! ## Hash functions and keyed digests (FIPS 180-4, FIPS 202, FIPS 198-1, SP 800-185) -/

opaque sha256 : Bytes → BitVec 256
opaque sha384 : Bytes → BitVec 384
opaque sha512 : Bytes → BitVec 512
opaque sha3_256 : Bytes → BitVec 256
opaque sha3_384 : Bytes → BitVec 384
opaque sha3_512 : Bytes → BitVec 512
opaque shake128 : Bytes → (n : Nat) → BitVec (8 * n)
opaque shake256 : Bytes → (n : Nat) → BitVec (8 * n)
/-- HMAC over the hash of the given ALG code (0x01 to 0x06), key, message, output of n bytes. -/
opaque hmac : BitVec 8 → Bytes → Bytes → (n : Nat) → BitVec (8 * n)
/-- KMAC256: key, customization string S, message X, output bytes. -/
opaque kmac256 : Bytes → Bytes → Bytes → (n : Nat) → BitVec (8 * n)

/-! ## AES-256-GCM -/

/-- Plaintext (as long as the ciphertext) when the tag verifies: key, IV, additional data, ciphertext, tag. -/
opaque gcmOpen : Bytes → Bytes → Bytes → Bytes → Bytes → Option Bytes
/-- Ciphertext and 16-byte tag: key, IV, additional data, plaintext. -/
opaque gcmSeal : Bytes → Bytes → Bytes → Bytes → Bytes × Bytes

/-! ## Elliptic curves (FIPS 186-5, SP 800-56A, RFC 8032) -/

/-- EdDSA public key: ALG, private key. -/
opaque eddsaPublic : BitVec 8 → Bytes → Bytes
opaque eddsaSign : BitVec 8 → Bytes → Bytes → Bytes
opaque eddsaVerify : BitVec 8 → Bytes → Bytes → Bytes → Bool
/-- The primality test of Table 9-14 check 2, with the n-th draw of bases. -/
opaque isPrime : Nat → Nat → Bool

/-! ## ML-DSA-87, ML-KEM-1024 (FIPS 204, FIPS 203), RSA (RFC 8017) -/

opaque mldsaPublic : Bytes → Bytes
/-- Signature and number of attempts: seed, message representative input, rnd. -/
opaque mldsaSign : Bytes → Bytes → Bytes → Bytes × Nat
opaque mldsaVerify : Bytes → Bytes → Bytes → Bool
opaque mlkemPublic : Bytes → Bytes
/-- Ciphertext and shared secret: encapsulation key, randomness. -/
opaque mlkemEncaps : Bytes → Bytes → Bytes × Bytes
opaque mlkemDecaps : Bytes → Bytes → Bytes
/-- Every coefficient of the encapsulation key is below 3,329 (Table 9-7 check 6). -/
opaque mlkemKeyOk : Bytes → Bool
/-- RSA signature: ALG, hash code, n, d given by its CRT parts, digest, salt. -/
opaque rsaSign : BitVec 8 → BitVec 2 → Bytes → Bytes → Bytes → Bytes
/-- The padding check of an RSA signature: ALG, hash code, the value s^e mod n, digest. -/
opaque rsaPadOk : BitVec 8 → BitVec 2 → Nat → Bytes → Bool

/-! ## Encodings of outside standards -/

/-- The DER chain of certificate slot 0 (R384): DevID P-384 key, AK0 P-384 key, digest of the kind 0x12 certificate. -/
opaque derChain : Bytes → Bytes → Bytes → Bytes
/-- SPDM session secrets from the DH shared value and the transcript (R383). -/
opaque spdmSecrets : Bytes → Bytes → BitVec 384
/-- SPDM FINISH verify data of a session. -/
opaque spdmFinishMac : BitVec 384 → BitVec 384

end Sys2Proof.Config
end

