-- ==== Sys2Proof/Machine/Bytes.lean ====
section
/-! DEFINITION. Byte strings, bit fields, CRC-32C and CBOR: the encodings the records and messages of Limcy share. -/

namespace Sys2Proof.Machine

/-- The n low bytes of a number, least significant first. -/
def leBytes : Nat → Nat → Bytes
  | 0, _ => []
  | n + 1, x => BitVec.ofNat 8 x :: leBytes n (x / 256)

/-- The n low bytes of a number, most significant first. -/
def beBytes (n x : Nat) : Bytes := (leBytes n x).reverse

/-- The number a byte string spells, least significant byte first. -/
def leNat : Bytes → Nat
  | [] => 0
  | b :: bs => b.toNat + 256 * leNat bs

/-- The number a byte string spells, most significant byte first. -/
def beNat (bs : Bytes) : Nat := leNat bs.reverse

/-- A register word as eight bytes, least significant first. -/
def wordBytes (w : Word) : Bytes := leBytes 8 w.toNat

/-- n bytes from offset i. -/
def slice (bs : Bytes) (i n : Nat) : Bytes := (bs.drop i).take n

/-- The little-endian number in n bytes from offset i. -/
def getLe (bs : Bytes) (i n : Nat) : Nat := leNat (slice bs i n)

/-- The string cut or zero-filled to n bytes. -/
def padTo (n : Nat) (bs : Bytes) : Bytes := bs.take n ++ List.replicate (n - bs.length) 0

/-- Bits [lo + len - 1 : lo] of a number. -/
def bits (x lo len : Nat) : Nat := x / 2 ^ lo % 2 ^ len

/-- Bits [lo + len - 1 : lo] of a word. -/
def fld (w : Word) (lo len : Nat) : Nat := bits w.toNat lo len

/-- Every bit of the word at or above n is zero. -/
def zeroFrom (w : Word) (n : Nat) : Bool := w.toNat < 2 ^ n

/-- A word from its low and high halves. -/
def halves (lo hi : BitVec 32) : Word := hi ++ lo

/-- A word whose value is given. -/
def word (n : Nat) : Word := BitVec.ofNat 64 n

/-- A bit as a number. -/
def bit (b : Bool) : Nat := if b then 1 else 0

/-- A digest as its bytes: byte 0 of a digest is the low byte of the vector (assumption entry 5). -/
def bvBytes {n : Nat} (v : BitVec n) : Bytes := leBytes (n / 8) v.toNat

/-- A digest from its bytes. -/
def bytesBv (n : Nat) (bs : Bytes) : BitVec n := BitVec.ofNat n (leNat bs)

/-- Next value of a saturating counter of w bits. -/
def satInc {w : Nat} (v : BitVec w) : BitVec w := if v = BitVec.allOnes w then v else v + 1

/-- Sum saturating at the top of w bits. -/
def satAdd {w : Nat} (v : BitVec w) (n : Nat) : BitVec w := BitVec.ofNat w (min (v.toNat + n) (2 ^ w - 1))

/-- Next sequence number of 32 bits: 0 is skipped (R111, R409). -/
def nextSeq (v : BitVec 32) : BitVec 32 := if v = BitVec.allOnes 32 then 1 else v + 1

/-! ## CRC-32C (reflected, polynomial 0x82F6_3B78) -/

/-- One bit of CRC-32C. -/
def crcBit (c : BitVec 32) : BitVec 32 :=
  if c.getLsbD 0 then (c >>> 1) ^^^ 0x82F63B78#32 else c >>> 1

/-- One byte of CRC-32C. -/
def crcByte (c : BitVec 32) (b : Byte) : BitVec 32 :=
  let c := c ^^^ b.zeroExtend 32
  crcBit (crcBit (crcBit (crcBit (crcBit (crcBit (crcBit (crcBit c)))))))

/-- CRC-32C of a byte string. -/
def crc32c (bs : Bytes) : BitVec 32 := bs.foldl crcByte (BitVec.allOnes 32) ^^^ BitVec.allOnes 32

/-! ## CBOR (RFC 8949, core deterministic encoding) -/

/-- A CBOR item head: major type and argument in the shortest form. -/
def cborHead (major n : Nat) : Bytes :=
  let m := 32 * major
  if n < 24 then [BitVec.ofNat 8 (m + n)]
  else if n < 2 ^ 8 then BitVec.ofNat 8 (m + 24) :: beBytes 1 n
  else if n < 2 ^ 16 then BitVec.ofNat 8 (m + 25) :: beBytes 2 n
  else if n < 2 ^ 32 then BitVec.ofNat 8 (m + 26) :: beBytes 4 n
  else BitVec.ofNat 8 (m + 27) :: beBytes 8 n

/-- The CBOR items the tokens and statements use, each by its encoded bytes. -/
def cborUint (n : Nat) : Bytes := cborHead 0 n
/-- A negative integer -1 - n. -/
def cborNeg (n : Nat) : Bytes := cborHead 1 n
/-- A byte string. -/
def cborBytes (bs : Bytes) : Bytes := cborHead 2 bs.length ++ bs
/-- A text string of ASCII characters. -/
def cborText (t : String) : Bytes :=
  let bs := t.toList.map (fun c => BitVec.ofNat 8 c.toNat)
  cborHead 3 bs.length ++ bs
/-- An array of encoded items. -/
def cborArray (items : List Bytes) : Bytes := cborHead 4 items.length ++ items.flatten
/-- A map of encoded keys and values, in the order given. -/
def cborMap (entries : List (Bytes × Bytes)) : Bytes :=
  cborHead 5 entries.length ++ (entries.map (fun e => e.1 ++ e.2)).flatten
/-- A tagged item. -/
def cborTag (n : Nat) (item : Bytes) : Bytes := cborHead 6 n ++ item
/-- true or false. -/
def cborBool (b : Bool) : Bytes := if b then [0xF5#8] else [0xF4#8]
/-- null. -/
def cborNull : Bytes := [0xF6#8]

/-- ASCII text as bytes. -/
def ascii (t : String) : Bytes := t.toList.map (fun c => BitVec.ofNat 8 c.toNat)

end Sys2Proof.Machine
end

