-- ==== Sys2Proof/Machine/State.lean ====
section
/-! DEFINITION. The state of Limcy as plain data: every register, queue, buffer, counter, mode and pin the spec gives
the block, the queue of waiting commands, and `State.reset`. INVENTORY.md lists each field with its rule. -/

namespace Sys2Proof.Machine

/-- What stops the model. Limcy never stops on a command of the table, so one reason is enough. -/
inductive Fault where
  /-- Raised by the meanings of answers on the firebreak bus and the key delivery bus in Watch, when an integrator's
  obligation is broken (R102: a port Table 2-20 marks idle gets no request). Safe: the model stops where the
  spec promises nothing (R57's introduction). -/
  | portIdle
  deriving DecidableEq, Repr

/-- Why a command has no meaning here. -/
inductive Refusal where
  /-- Raised by an arm of `exec` whose command has no meaning yet. Safe. -/
  | notModelled (mnemonic : String)
  deriving DecidableEq, Repr

/-! ## Common types -/

/-- The statuses of Table 14-8. -/
inductive Status where
  | ok | pending | busy | badOpcode | badArgument | state | denied | locked
  | pkeRange | pkeNotOnCurve | pkeCurveRejected | pkeVerifyFail | digShort
  | otpSupply | otpVerify | otpLockMismatch | otpMarginal
  | ingTag | ingGrove | ingSweepMismatch | aborted | transient | retired | fault
  deriving DecidableEq, Repr, Inhabited

/-- The implemented operations of the groups of Table 3-8. -/
inductive Op where
  | powerSet | computeReset | beatRebase
  | otpRead | otpProgram | otpLock | otpRepair | otpCtrAdvance
  | lcAuthBegin | lcAuthProve | lcAuthEnd | lcTransition | lcDebugOpen | lcDebugClose | lcDebugPolicy
  | bootStageBegin | bootStageData | bootStageFinish | bootStageCancel | bootActivate
  | bootHandoverPut | bootHandoverGet | bootConfigCommit | bootSecretAccess
  | keysGenerate | keysImport | keysExport | keysDerive | keysSealDerive | keysInstallerDerive
  | keysFree | keysInfo | keysCertRead | keysRootProvision | keysLinkRestart
  | partCreate | partDestroy | partShadowBegin | partShadowWrite | partSwap | partShadowCancel
  | partEvidence | partGroveCollect | partClearRetry
  | recRead | recClear | recHwRead | recRetest | recDumpRead
  | pkeSign | pkeVerify | pkeHybridSign | pkeHybridVerify | pkeEcdh | pkeKemEncaps | pkeKemDecaps
  | pkePublic | pkeRsaSign | pkeRsaVerify | pkeCurveLoad | pkeCurveClear
  | digOpen | digAbsorb | digFinal | digCompare | digSave | digRestore | digAbort
  | ingPlan | ingLoad | ingPlanFree | ingShardInfo | ingSweepSet | ingKeyDrop
  deriving DecidableEq, Repr, Inhabited

/-- A stamp: beat word and info word (R137). -/
structure Stamp where
  beat : Word := 0
  info : BitVec 32 := 0
  deriving DecidableEq, Repr, Inhabited

/-- The power states of Table 1-9. -/
inductive Power where
  | full | control | watch | off
  deriving DecidableEq, Repr, Inhabited

/-- The seven argument or result words. -/
abbrev Words := Vector Word 7

/-! ## Pins and the fabric target response (R58, R62, R67, R81) -/

structure Pins where
  porAonN : Bool := false
  chipRstN : Bool := false
  pwrCtrlReq : BitVec 2 := 0b11
  pwrCtrlGood : Bool := true
  pwrStrmReq : Bool := false
  pwrStrmGood : Bool := false
  isoStrm : Bool := true
  relFabric : Bool := false
  relMem : Bool := false
  relLink : Bool := false
  relDma : Bool := false
  relCompute : Bool := false
  rstComputeN : Bool := false
  cmpQuiesceReq : Bool := false
  cmpQuiesceAck : Bool := false
  cmpReady : Bool := false
  rstMgmtN : Bool := false
  imemWlock : Bool := false
  mgmtRelease : Bool := false
  causeLatched : BitVec 8 := 0
  causeLatchedValid : Bool := false
  flashReset : Bool := true
  deriving DecidableEq, Repr, Inhabited

/-- The response channel of the fabric target port (Table 2-5). -/
structure FtRsp where
  valid : Bool := false
  err : Bool := false
  rdata : Word := 0
  src : BitVec 8 := 0
  id : BitVec 6 := 0
  deriving DecidableEq, Repr, Inhabited

/-- The fuse wire bundle (Table 2-10). -/
structure FuseWires where
  valid : Bool := false
  lc : BitVec 6 := 0b100000
  scanAllow : Bool := false
  linkEnable : BitVec 6 := 0
  hbmRepair : Word := 0
  clkTrim : BitVec 16 := 0
  integ : BitVec 128 := 0
  deriving DecidableEq, Repr, Inhabited

/-! ## Beat (chapter 04) -/

inductive BeatMode where
  | none | lost | holdover | locked
  deriving DecidableEq, Repr, Inhabited

/-- The previous arrived edge (R140). -/
structure Edge where
  count : Word := 0
  time : Nat := 0
  valid : Bool := false
  onTime : Bool := false
  deriving DecidableEq, Repr, Inhabited

structure Beat where
  mode : BeatMode := .none
  lbeat : Word := 0
  epoch : BitVec 8 := 0
  acq : Nat := 0
  backward : Bool := false
  inputLock : Bool := false
  /-- P in units of 2^-8 ns (R136). -/
  period : Nat := 0x3E800
  nominal : BitVec 32 := 0x3E800
  lastJump : Word := 0
  tEdge : Nat := 0
  prev : Option Edge := .none
  missedSince : Bool := false
  /-- the slot LBEAT stands at has met neither an edge nor its missing-edge instant -/
  unjudged : Bool := false
  /-- an edge nearest to the next slot has already arrived -/
  arrived : Bool := false
  relock : Nat := 0
  unlocked : Nat := 0
  onTime : List Nat := []
  acqTimes : List Nat := []
  missed : BitVec 16 := 0
  offtime : BitVec 16 := 0
  badcount : BitVec 16 := 0
  fwdJumps : BitVec 8 := 0
  backJumps : BitVec 8 := 0
  totMissed : BitVec 16 := 0
  totOfftime : BitVec 16 := 0
  totBadcount : BitVec 16 := 0
  totFwd : BitVec 8 := 0
  totBack : BitVec 8 := 0
  hbCount : BitVec 32 := 0
  hbExp : Nat := 10
  ckExp : Nat := 36
  lastHb : Nat := 0
  lastCk : Nat := 0
  lastPoll : Nat := 0
  lastDigest : Nat := 0
  lastCredit : Nat := 0
  deriving DecidableEq, Repr, Inhabited

/-! ## Core (chapter 01, R426, R427) -/

/-- The transition in progress from Control to Full and the POWER_SET job that asked for it, if one did (R49). -/
structure ToFull where
  job : Option Nat := none
  /-- the time pwr_strm_req rose -/
  since : Nat := 0
  deriving DecidableEq, Repr, Inhabited

/-- An event record before its sequence number and CRC are laid out (Table 13-5). -/
structure EventRec where
  seq : BitVec 32 := 0
  code : BitVec 16 := 0
  seat : BitVec 8 := 0xFF
  part : BitVec 8 := 0xFF
  stamp : Stamp := {}
  status : BitVec 16 := 0
  opcode : BitVec 16 := 0
  object : Word := 0
  detail : Bytes := []
  deriving DecidableEq, Repr, Inhabited

/-- An event that arose in Watch: what is recorded after wake and the CORE interrupt bits set then (R408, R433). -/
structure WatchEvent where
  entry : Option EventRec := none
  irq : BitVec 19 := 0
  deriving DecidableEq, Repr, Inhabited

structure Core where
  power : Power := .control
  toFull : Option ToFull := none
  startDone : Bool := false
  strmQuar : Bool := false
  fatal : Bool := false
  fatalCause : BitVec 8 := 0
  engReset : BitVec 9 := 0
  pkeOffline : Bool := false
  digOffline : Bool := false
  /-- Beats of the faults of each engine's window (R35). -/
  faultBeats : Vector (List Nat) 9 := Vector.replicate 9 []
  vpp : BitVec 16 := 0
  vaon : BitVec 16 := 0
  vctrl : BitVec 16 := 0
  vstrm : BitVec 16 := 0
  temps : Vector (BitVec 16) 4 := Vector.replicate 4 0
  /-- Consecutive samples beyond the limit: vs_aon, vs_ctrl, vs_strm, ts0 to ts3 (R93). -/
  overLimit : Vector Nat 7 := Vector.replicate 7 0
  /-- Beat of the last warning record per input (R93). -/
  lastWarn : Vector (Option Nat) 7 := Vector.replicate 7 none
  /-- Interrupt outputs held at entry to Watch: host, mgmt, partitions (R433). -/
  irqHeld : Bool × Bool × BitVec 64 := (false, false, 0)
  watchEvents : List WatchEvent := []
  ctrlReset : Bool := true
  deriving DecidableEq, Repr, Inhabited

/-! ## Cells (R24 to R29, R398) -/

/-- What a cell's unit of work belongs to. -/
inductive UnitOwner where
  /-- a step of a PKE job on that block -/
  | pke (job : Nat) (block : Fin 6)
  /-- a block of a DIG job or of a seat's drain -/
  | digJob (job : Nat)
  | digDrain (seat : Seat)
  /-- decryption of a chunk of a load -/
  | chunk (job : Nat) (index : Nat)
  /-- the second look of R341 at a chunk whose tag failed -/
  | chunkAgain (job : Nat) (index : Nat) (first : Cell)
  | leaf (job : Nat) (index : Nat)
  | sweepLeaf
  /-- a read of an OTP_READ job: one word at one margin (Table 1-4) -/
  | otpRead (job : Nat)
  deriving DecidableEq, Repr, Inhabited

/-- A unit of work in progress (R26): attempts failed so far and the cells tried. -/
structure CellUnit where
  owner : UnitOwner
  attempts : Nat := 0
  tried : List Cell := []
  deriving DecidableEq, Repr, Inhabited

structure CellState where
  retired : Bool := false
  consecutive : Nat := 0
  testDue : Bool := false
  /-- The map change of this cell is held in AON only (R400). -/
  volatileMap : Bool := false
  /-- The REC_RETEST job running the full suite, if any (R401). -/
  retest : Option Nat := none
  work : Option CellUnit := none
  /-- Order in which the cell last became idle (R24). -/
  idleSince : Nat := 0
  deriving DecidableEq, Repr, Inhabited

/-! ## Seats and jobs (chapter 03) -/

inductive EntryState where
  | free | queued | started (job : Nat) | done
  deriving DecidableEq, Repr, Inhabited

/-- A queue and result entry (R110, R120). -/
structure Entry where
  st : EntryState := .free
  op : Op := .powerSet
  tag : BitVec 16 := 0
  seq : BitVec 32 := 0
  order : Nat := 0
  args : Words := Vector.replicate 7 0
  status : Status := .ok
  words : Words := Vector.replicate 7 0
  /-- Words written to the seat's DIG FIFO before the submission (R315). -/
  fifoMark : Nat := 0
  deriving DecidableEq, Repr, Inhabited

/-- A word of a seat's DIG FIFO (R312). -/
structure FifoWord where
  handle : BitVec 16
  bytes : Bytes
  deriving DecidableEq, Repr, Inhabited

structure SeatPage where
  args : Words := Vector.replicate 7 0
  accept : Word := 0
  fault : BitVec 6 := 0
  irqStatus : BitVec 7 := 0
  irqEn : BitVec 7 := 0
  postPtr : Word := 0
  postStatus : Word := 0
  emptied0 : Word := 0
  emptied1 : Word := 0
  seq : BitVec 32 := 0
  entries : Vector Entry 32 := Vector.replicate 32 {}
  nowInfo : BitVec 32 := 0
  peerNotify : Word := 0
  lastRing : Option Nat := none
  coreIrq : BitVec 19 := 0
  coreIrqEn : BitVec 19 := 0
  /-- Weights of the classes PKE, DIG, ING, CTRL (R115). -/
  weights : Vector Nat 4 := Vector.replicate 4 1
  digSel : BitVec 16 := 0
  fifo : List FifoWord := []
  fifoIn : Nat := 0
  deriving DecidableEq, Repr, Inhabited

/-- Where one of a job's two PKE parts stands (R285, R286). -/
inductive PkePart where
  | unused | waiting | running (block : Fin 6) | finished (block : Fin 6)
  deriving DecidableEq, Repr, Inhabited

/-- What a started job waits for. -/
inductive Stage where
  /-- the data of its buffer read -/
  | fetch
  /-- completion of its buffer write, then this outcome -/
  | store (st : Status) (ws : Words)
  /-- an event of its engine -/
  | engine
  /-- decided, to be posted by JOB_COMPLETE -/
  | ready (st : Status) (ws : Words)
  deriving DecidableEq, Repr, Inhabited

/-- A started job. A detached job's seat was reset: it holds no entry and posts nothing (R124). -/
structure Job where
  id : Nat := 0
  seat : Seat := 0
  cls : QClass := .ctrl
  ix : EntryIx := 0
  detached : Bool := false
  op : Op := .powerSet
  tag : BitVec 16 := 0
  args : Words := Vector.replicate 7 0
  fifoMark : Nat := 0
  stage : Stage := .engine
  /-- bytes read from the job's buffer, or still to be absorbed -/
  got : Bytes := []
  /-- bytes the job will write or keep -/
  out : Bytes := []
  /-- a step number, time or index of the job's own -/
  num : Nat := 0
  bn : PkePart := .unused
  lt : PkePart := .unused
  /-- a DIG job holds a pipeline, and the blocks of its present quantum (R321) -/
  holds : Bool := false
  quantum : Nat := 0
  deriving DecidableEq, Repr, Inhabited

/-- The arbitration pointer of an engine and the jobs started at that seat (R114). -/
structure Arb where
  ptr : Seat := 0
  used : Nat := 0
  /-- the seat whose job PKE has chosen and that waits for a block (R285) -/
  chosen : Option Seat := none
  deriving DecidableEq, Repr, Inhabited

structure Mailbox where
  ptr : Word := 0
  length : BitVec 32 := 0
  tag : BitVec 16 := 0
  sender : BitVec 7 := 0
  receiver : BitVec 7 := 0
  full : Bool := false
  waiting : Bool := false
  dropped : Bool := false
  deriving DecidableEq, Repr, Inhabited

/-! ## The fabric initiator (R71 to R74) -/

/-- What a transaction serves. -/
inductive TxnOwner where
  | job (id : Nat)
  | stream (job : Nat)
  | linkFrame (port : Port)
  | linkDoorbell (port : Port)
  | ringNotice
  | groveNotice (position : Nat)
  | contribution
  | inboxZero
  | inboxRead
  | digSpill (msg : Fin 272) (gen : BitVec 7)
  | digFill (msg : Fin 272) (gen : BitVec 7)
  deriving DecidableEq, Repr, Inhabited

structure Txn where
  tag : BitVec 6 := 0
  write : Bool := false
  obo : BitVec 8 := 0xFF
  addr : Word := 0
  len : Nat := 0
  data : Bytes := []
  owner : TxnOwner := .ringNotice
  deriving DecidableEq, Repr, Inhabited

structure Initiator where
  live : List Txn := []
  waiting : List Txn := []
  nextTag : BitVec 6 := 0
  /-- tags timed out whose late response is to be discarded (R74) -/
  late : List (BitVec 6) := []
  deriving DecidableEq, Repr, Inhabited

/-! ## OTP (chapter 05) -/

/-- The region states of Table 5-5. -/
inductive RegionState where
  | unset | opened | wlock | pendingLock | wlockRlock | digestLocked
  | sealedIncomplete | altered | erased | erasePartial | monotone
  deriving DecidableEq, Repr, Inhabited

/-- Whose burn holds the OTP command path (R177). -/
inductive BurnOwner where
  | job (id : Nat)
  /-- counter advance of a CONFIRM or of its retry (R259) -/
  | confirm
  /-- a burn of the start sequence (R194, R256) -/
  | start
  deriving DecidableEq, Repr, Inhabited

/-- One word to burn: its address and the bits asked for. -/
structure WordBurn where
  addr : Nat
  want : OtpWord
  deriving DecidableEq, Repr, Inhabited

/-- A burn on the OTP command path (R175): the words still to burn, the first one in progress. -/
structure Burn where
  owner : BurnOwner
  opcode : BitVec 16 := 0
  seat : BitVec 8 := 0xFF
  todo : List WordBurn := []
  /-- ones the present word read before its burn, at either margin -/
  before : OtpWord := 0
  group : Nat := 0
  pulses : Nat := 0
  mostPulses : Nat := 0
  /-- pulse one bit at a time in ascending order (R190) -/
  single : Bool := false
  supplyBad : Bool := false
  stopped : Bool := false
  deriving DecidableEq, Repr, Inhabited

structure Mrep where
  addr : Nat
  cls : BitVec 2
  repairable : Bool
  repaired : Bool := false
  ndiff : Nat
  outcome : BitVec 2
  deriving DecidableEq, Repr, Inhabited

structure Otp where
  /-- low and high margin reads of the words that are not blank -/
  array : List (Nat × (OtpWord × OtpWord)) := []
  /-- the same at the last start sense (R165) -/
  sense : List (Nat × (OtpWord × OtpWord)) := []
  regions : Vector RegionState 32 := Vector.replicate 32 .unset
  sensed : Bool := false
  senseOk : BitVec 8 := 0
  lastStatus : BitVec 16 := 0
  marginalAny : Bool := false
  incompleteAny : Bool := false
  alteredAny : Bool := false
  erasePartialAny : Bool := false
  unresolvableAny : Bool := false
  mrep : List Mrep := []
  overflow : Bool := false
  run : Option Burn := none
  queue : List Burn := []
  ctrsShown : Bool := false
  deriving DecidableEq, Repr, Inhabited

/-! ## Life cycle (chapter 06) -/

inductive Role where
  | none | maker | installer | operator | claimant
  deriving DecidableEq, Repr, Inhabited

/-- A role held on a seat (R199). -/
structure RoleHeld where
  role : Role := .none
  lapse : Word := 0
  epoch : BitVec 16 := 0
  serial : Word := 0
  anchor : BitVec 384 := 0
  deriving DecidableEq, Repr, Inhabited

/-- A nonce and the beat of the LC_AUTH_BEGIN that issued it (R199). -/
structure Nonce where
  value : BitVec 256
  beat : Word
  deriving DecidableEq, Repr, Inhabited

/-- Roles and nonces of one of seats 64 to 66. -/
structure Auth where
  held : RoleHeld := {}
  roleNonce : Option Nonce := none
  consentNonce : Option Nonce := none
  deriving DecidableEq, Repr, Inhabited

structure LifeCycle where
  state : BitVec 3 := 5
  full : BitVec 5 := 0
  marginal : Bool := false
  incomplete : Bool := false
  resumed : Bool := false
  next : BitVec 3 := 0
  nextValid : Bool := false
  level : BitVec 2 := 0
  opener : BitVec 8 := 0
  polProf : Bool := false
  polOper : Bool := false
  polScan : Bool := false
  prof : BitVec 64 := 0
  auth : Vector Auth 3 := Vector.replicate 3 {}
  step : BitVec 4 := 0
  target : BitVec 3 := 0
  addr : BitVec 12 := 0
  bits : BitVec 5 := 0
  hold : Bool := false
  /-- the target a failed field burn committed the device to (R191) -/
  committed : Option (BitVec 3) := none
  /-- ports whose clear-all is still unacknowledged in erasure step 3 -/
  kdWait : BitVec 6 := 0
  deriving DecidableEq, Repr, Inhabited

/-! ## Keys (chapter 07) -/

structure KeySlot where
  used : Bool := false
  content : Bytes := []
  owner : BitVec 8 := 0
  origin : BitVec 8 := 0
  cls : BitVec 2 := 0
  usage : BitVec 8 := 0
  gen : BitVec 8 := 0
  /-- freed while a started job uses it: zeroized when that job ends (R233) -/
  doomed : Bool := false
  deriving DecidableEq, Repr, Inhabited

inductive LinkMode where
  | noKey | exchange | keyed | failed | stopped | disabled
  deriving DecidableEq, Repr, Inhabited

/-- A key delivery message (Table 2-12). -/
structure KdMsg where
  op : BitVec 8
  dir : BitVec 8 := 0
  epoch : BitVec 16 := 0
  key : Bytes := []
  switchBeat : Word := 0
  deriving DecidableEq, Repr, Inhabited

/-- An exchange in progress on a link port (R237). -/
structure Exchange where
  initiator : Bool
  start : Word
  hello : Bytes := []
  reply : Bytes := []
  /-- the initiator's ML-KEM seed, or the replier's ss_ec and ss_ml -/
  secret : Bytes := []
  deriving DecidableEq, Repr, Inhabited

/-- A next key of a link port: its switch beat and the E of its derivation (R238). -/
structure NextKey where
  beat : Word
  e : Nat
  deriving DecidableEq, Repr, Inhabited

structure Link where
  mode : LinkMode := .noKey
  epoch : BitVec 16 := 0
  uses : BitVec 8 := 0
  fails : BitVec 8 := 0
  peer : Word := 0
  exch : Option Exchange := none
  /-- beat of the last HELLO sent -/
  lastHello : Option Word := none
  /-- a frame is being read, and the frame once read -/
  reading : Bool := false
  frame : Option Bytes := none
  /-- messages waiting on the key delivery bus, the first one sent, and its attempts (R85) -/
  kd : List KdMsg := []
  attempts : Nat := 0
  /-- the installed next key -/
  next : Option NextKey := none
  /-- the next multiple of 2^24 to rotate at, as a multiplier (R238) -/
  rot : Nat := 0
  deriving DecidableEq, Repr, Inhabited

/-- A model key entry (R338, R339): key-block digest, key, generation. Lists hold the most recently used first. -/
structure ModelKey where
  digest : BitVec 256
  key : Bytes
  gen : BitVec 32
  deriving DecidableEq, Repr, Inhabited

structure Keys where
  slots : Vector KeySlot 256 := Vector.replicate 256 {}
  root0 : Bytes := []
  root1 : Bytes := []
  rootLoaded : Bool := false
  held : Bool := false
  l0Done : Bool := false
  l1Done : Bool := false
  endorsed : Bool := false
  drbgOk : Bool := false
  family : BitVec 16 := 0
  romBound : BitVec 8 := 0
  svn1 : BitVec 16 := 0
  svn0 : BitVec 16 := 0
  /-- certificates present, by kind (Table 7-4) -/
  certs : List (BitVec 8 × Bytes) := []
  links : Vector Link 6 := Vector.replicate 6 {}
  models : Vector (List ModelKey) 64 := Vector.replicate 64 []
  deriving DecidableEq, Repr, Inhabited

/-! ## Boot (chapter 08) -/

/-- The configuration record in force, each field at its value or default (Table 8-3). -/
structure CfgRecord where
  version : BitVec 16 := 0
  installId : Bytes := []
  exchangeBase : Word := 0
  nominal : BitVec 32 := 0x3E800
  powerFull : Bool := true
  hbExp : Nat := 10
  ckExp : Nat := 36
  credExp : Nat := 30
  trialS : BitVec 16 := 30
  denyOper : Bool := false
  denyProf : Bool := false
  modeNamed : BitVec 32 := 0
  modeDigest : BitVec 32 := 0
  vppLow : BitVec 16 := 1782
  vppHigh : BitVec 16 := 1818
  /-- weight of seat group g and class c at 4g + c -/
  weights : Vector Nat 20 := Vector.replicate 20 1
  /-- warning and limit of vs_aon, vs_ctrl, vs_strm (mV), then of ts0 to ts3 (half degrees) -/
  thresholds : Vector Nat 14 := #v[20, 40, 20, 45, 20, 45, 200, 230, 200, 230, 200, 230, 200, 230]
  sweepRate : BitVec 8 := 8
  deriving DecidableEq, Repr, Inhabited

/-- A staging session (R265). -/
structure StageSession where
  seat : Seat
  pldm : Bool := false
  component : BitVec 3 := 0
  length : Nat := 0
  bytes : Nat := 0
  slotB : Bool := false
  copy1 : Bool := false
  state : BitVec 3 := 0
  deriving DecidableEq, Repr, Inhabited

/-- A PLDM update session (R268). -/
structure PldmSession where
  seat : Seat
  maxTransfer : Nat := 0
  /-- component identifier being transferred -/
  comp : Option (BitVec 16) := none
  /-- components staged and finished -/
  finished : List (BitVec 16) := []
  /-- beat of the unanswered RequestFirmwareData -/
  asked : Option Word := none
  deriving DecidableEq, Repr, Inhabited

structure Boot where
  flash : List (Nat × Byte) := []
  sfdp : Option Sfdp := none
  octal : Bool := false
  step : BitVec 4 := 0
  fail : BitVec 4 := 0
  /-- slot running: false A, true B -/
  running : Option Bool := none
  sapling : Bool := false
  confirming : Bool := false
  ctrPending : Bool := false
  expiredWake : Bool := false
  trialEnd : Option Nat := none
  trialS : BitVec 16 := 30
  cfg : CfgRecord := {}
  cfgSource : BitVec 2 := 0
  cfgCopy : Bool := false
  cfgDigest : Option (BitVec 384) := none
  mcLoaded : Bool := false
  mcCopy : Bool := false
  svn0 : BitVec 16 := 0
  mcVersion : Word := 0
  mcMeas : BitVec 384 := 0
  imgMeas : BitVec 384 := 0
  ctrRetryBeat : Word := 0
  stage : Option StageSession := none
  pldm : Option PldmSession := none
  /-- an image has been released since chip reset (Table 3-16) -/
  everReleased : Bool := false
  deriving DecidableEq, Repr, Inhabited

/-! ## PKE (chapter 09) -/

inductive CurveState where
  | empty | checking | loaded | clearing
  deriving DecidableEq, Repr, Inhabited

/-- Parameters of a curve slot (Table 9-13). -/
structure CurveParams where
  len : Nat := 0
  h : Nat := 0
  p : Nat := 0
  a : Nat := 0
  b : Nat := 0
  gx : Nat := 0
  gy : Nat := 0
  n : Nat := 0
  deriving DecidableEq, Repr, Inhabited

structure CurveSlot where
  st : CurveState := .empty
  params : CurveParams := {}
  digest : BitVec 384 := 0
  /-- the PKE_CURVE_CLEAR job waiting for the slot's started jobs -/
  clearJob : Option Nat := none
  deriving DecidableEq, Repr, Inhabited

structure Pke where
  blocks : Vector (Option Nat) 6 := Vector.replicate 6 none
  idleSince : Vector Nat 6 := Vector.replicate 6 0
  /-- operand window, byte addressed from 0x10_0000 (Table 9-21) -/
  window : List (Nat × Byte) := []
  curves : Vector CurveSlot 8 := Vector.replicate 8 {}
  /-- the package in the program stores and the digest taken at load (R300) -/
  store : Bytes := []
  storeDigest : BitVec 384 := 0
  romOnly : Bool := true
  validReject : BitVec 16 := 0
  aborted : BitVec 16 := 0
  cellRetry : BitVec 16 := 0
  verifyFail : BitVec 16 := 0
  deriving DecidableEq, Repr, Inhabited

/-! ## DIG (chapter 10) -/

inductive MsgState where
  | free | opened | running | held | failed
  deriving DecidableEq, Repr, Inhabited

/-- A message (R305). The absorbed bytes are kept whole; A is their number. -/
structure Msg where
  st : MsgState := .free
  gen : BitVec 7 := 0
  seat : Seat := 0
  alg : BitVec 8 := 0
  dest : BitVec 2 := 0
  bufferMode : Bool := false
  key : BitVec 16 := 0
  keyBytes : Bytes := []
  cu : Word := 0
  length : Nat := 0
  outLen : Nat := 0
  data : Bytes := []
  trunc : Bool := false
  overrun : Bool := false
  failStatus : Status := .state
  save : Word := 0
  custom : Bytes := []
  output : Bytes := []
  resident : Bool := false
  lastUse : Nat := 0
  deriving DecidableEq, Repr, Inhabited

/-- A drain of a seat's word FIFO into one message (R313): the message, whether its context is still awaited, and the
blocks so far. -/
structure Drain where
  seat : Seat
  msg : Fin 272
  waiting : Bool := true
  blocks : Nat := 0
  deriving DecidableEq, Repr, Inhabited

/-- What an image wrapped under the present slot 9 holds (R323): the bytes written and the message inside. -/
structure Wrapped where
  image : Bytes
  msg : Msg
  deriving DecidableEq, Repr, Inhabited

structure Dig where
  msgs : Vector Msg 272 := Vector.replicate 272 {}
  drains : List Drain := []
  clock : Nat := 0
  wrapped : List Wrapped := []
  spills : BitVec 16 := 0
  fills : BitVec 16 := 0
  cellRetry : BitVec 16 := 0
  short : BitVec 16 := 0
  deriving DecidableEq, Repr, Inhabited

/-! ## ING (chapter 11) -/

inductive PlanState where
  | free | ready | loading | resident | failed
  deriving DecidableEq, Repr, Inhabited

inductive SweepResult where
  | none | matched | mismatch | readError
  deriving DecidableEq, Repr, Inhabited

structure Plan where
  st : PlanState := .free
  part : Part := 0
  /-- HBM address and chunk count of each extent -/
  extents : List (Nat × Nat) := []
  digest : BitVec 256 := 0
  root : BitVec 256 := 0
  model : Bytes := []
  shard : BitVec 32 := 0
  owner : BitVec 384 := 0
  stamp : Stamp := {}
  sweep : SweepResult := .none
  sweepStamp : Stamp := {}
  passes : BitVec 32 := 0
  /-- cause of the last load, and of the last load that failed (Tables 11-8, 11-15) -/
  lastCause : BitVec 8 := 0
  fail : BitVec 8 := 0
  deriving DecidableEq, Repr, Inhabited

/-- Where a chunk of a load stands (R341, R344). -/
inductive ChunkStage where
  | decrypting | writing | landed
  deriving DecidableEq, Repr, Inhabited

structure Chunk where
  index : Nat
  cipher : Bytes
  stage : ChunkStage := .decrypting
  plain : Bytes := []
  leaf : Option (BitVec 256) := none
  deriving DecidableEq, Repr, Inhabited

/-- A chunk whose 64 writes are outstanding on an HBM lane (R79): acknowledgements still to come, oldest first. -/
structure HbmWait where
  lane : Lane
  job : Nat
  index : Nat
  addr : Nat
  left : Nat := 64
  deriving DecidableEq, Repr, Inhabited

/-- Phase of a load (R349). -/
inductive LoadPhase where
  | envelope | signature | unwrap | request | streaming
  deriving DecidableEq, Repr, Inhabited

structure Load where
  job : Nat
  plan : PlanIx
  part : Part
  lane : Lane
  doorbell : Word := 0
  phase : LoadPhase := .envelope
  env : Bytes := []
  key : Bytes := []
  tag : BitVec 16 := 0
  /-- chunks accepted so far: the next expected index -/
  accepted : Nat := 0
  rereqs : Nat := 0
  rereqTotal : BitVec 16 := 0
  dropSeen : Bool := false
  lastBeat : Word := 0
  chunks : List Chunk := []
  /-- leaves entered and the pending digests per level (R344) -/
  leaves : Nat := 0
  frontier : List (List (BitVec 256)) := []
  deriving DecidableEq, Repr, Inhabited

/-- A sweep pass in progress (R353): reads issued, chunks returned and not yet hashed, leaves entered. -/
structure Pass where
  plan : PlanIx
  issued : Nat := 0
  data : List Bytes := []
  received : Nat := 0
  leaves : Nat := 0
  frontier : List (List (BitVec 256)) := []
  deriving DecidableEq, Repr, Inhabited

structure Ing where
  plans : Vector Plan 256 := Vector.replicate 256 {}
  loads : List Load := []
  tagCounter : BitVec 16 := 0
  dropped : BitVec 32 := 0
  tagFail : BitVec 16 := 0
  rereq : BitVec 16 := 0
  quar : BitVec 64 := 0
  rate : BitVec 8 := 8
  /-- plan of the present or last pass, and whether the next pass starts there: before the first pass and after an
  abandoned one (R353, R354) -/
  sweepPlan : PlanIx := 0
  again : Bool := true
  credit : Nat := 0
  pass : Option Pass := none
  /-- sweep reads of abandoned passes still to return -/
  stale : Nat := 0
  hbm : List HbmWait := []
  /-- ING_CELLS has been set: STRM has been powered since chip reset (R357) -/
  cellsSet : Bool := false
  deriving DecidableEq, Repr, Inhabited

/-! ## PART (chapter 12) -/

inductive PartState where
  | free | active | departed | clearing | clearFailed
  deriving DecidableEq, Repr, Inhabited

structure PartRec where
  st : PartState := .free
  conf : Bool := false
  created : BitVec 32 := 0
  cstamp : Stamp := {}
  g : BitVec 32 := 0
  digest : BitVec 384 := 0
  crCount : BitVec 32 := 0
  crStamps : List Stamp := []
  dbgHighest : BitVec 2 := 0
  dbgChanges : Nat := 0
  /-- digest and generation of the last 16 tokens, newest first (R336) -/
  tokens : List (BitVec 384 × BitVec 32) := []
  /-- the job tearing it down or retrying its clearings -/
  job : Option Nat := none
  swapAt : Word := 0
  deriving DecidableEq, Repr, Inhabited

/-- A clearing run (R371): the range, and what each memory controller still owes. -/
structure ClearRun where
  part : Part
  startMiB : Nat
  lenMiB : Nat
  number : BitVec 32 := 0
  waitingOn : List Unit7 := []
  sent : Bool := false
  fails : Nat := 0
  drewFailed : Bool := false
  cleared : Bool := false
  settled : Bool := false
  deriving DecidableEq, Repr, Inhabited

inductive SwapPhase where
  | crc | armed
  deriving DecidableEq, Repr, Inhabited

/-- A swap in progress for a PART_SWAP job or for the teardown of a partition (R368, R371). -/
structure Swap where
  job : Option Nat := none
  teardown : Option Part := none
  beat : Word := 0
  phase : SwapPhase := .crc
  rewritten : Bool := false
  /-- some answer to the present SHADOW_CRC request differs -/
  differs : Bool := false
  /-- units that answered in the present phase -/
  answered : List Unit7 := []
  /-- units that answered 0x8 or 0x9 -/
  swapped : List Unit7 := []
  /-- the effects of R369 have taken place -/
  adopted : Bool := false
  late : Nat := 0
  deriving DecidableEq, Repr, Inhabited

/-- A grove notice armed on this device (R389). -/
structure GroveArmed where
  beat : Word
  addr : Word
  position : BitVec 16
  number : BitVec 32
  aggregator : Word
  nonce : Bytes
  /-- the contribution is being written -/
  sent : Bool := false
  deriving DecidableEq, Repr, Inhabited

inductive GrovePhase where
  | idle | notifying | waiting | building
  deriving DecidableEq, Repr, Inhabited

/-- A running collection (R392). -/
structure Collection where
  job : Nat
  list : Bytes
  count : Nat
  inbox : Word
  beat : Word
  nonce : Bytes
  deriving DecidableEq, Repr, Inhabited

/-- An SPDM session (R383, R385). -/
structure SpdmSession where
  id : BitVec 32
  path : MctpPath
  secret : BitVec 384
  live : Bool := false
  deriving DecidableEq, Repr, Inhabited

/-- State of an SPDM connection on a path. -/
structure SpdmConn where
  version : Bool := false
  caps : Bool := false
  algs : Bool := false
  /-- bytes of a large request so far, with its handle and next sequence number -/
  inHandle : BitVec 8 := 0
  inNext : BitVec 16 := 0
  inBytes : Bytes := []
  /-- a large response being fetched -/
  outHandle : BitVec 8 := 0
  outNext : BitVec 16 := 0
  outBytes : Bytes := []
  deriving DecidableEq, Repr, Inhabited

structure Partitions where
  recs : Vector PartRec 64 := Vector.replicate 64 {}
  creations : BitVec 32 := 0
  active : List (Nat × BitVec 128) := []
  shadow : List (Nat × BitVec 128) := []
  session : Option Seat := none
  swap : Option Swap := none
  /-- partition whose teardown swap waits, and from which beat it may be tried (R371) -/
  retryAt : Option (Part × Word) := none
  lastSwap : Word := 0
  clearNumber : BitVec 32 := 0
  runs : List ClearRun := []
  blocked : Vector (BitVec 32) 64 := Vector.replicate 64 0
  /-- READ_BLOCKED requests not yet answered: unit and partition, oldest first -/
  polls : List (Unit7 × Part) := []
  groveIn : Vector Word 8 := Vector.replicate 8 0
  armed : Option GroveArmed := none
  collection : Option Collection := none
  grovePhase : GrovePhase := .idle
  groveNumber : BitVec 32 := 0
  grovePresent : BitVec 17 := 0
  lastStatement : Option Bytes := none
  spdm : Vector SpdmConn 2 := Vector.replicate 2 {}
  sessions : List SpdmSession := []
  sessionCount : BitVec 32 := 0
  deriving DecidableEq, Repr, Inhabited

/-! ## REC (chapter 13) -/

/-- What limits a record to one per interval (R69, R93, R104, R109, R128, R311, R432). -/
inductive LimitKey where
  | errorResponse (stamp : BitVec 8)
  | foreignPage (stamp : BitVec 8)
  | refused (seat : Seat) (opcode : BitVec 16)
  | post (seat : Seat) (m : Mbx)
  | digWrite (seat : Seat)
  deriving DecidableEq, Repr, Inhabited

/-- A heartwood record waiting in the queue (R416). -/
structure HwRec where
  kind : BitVec 16
  stamp : Stamp
  detail : Bytes
  /-- the cell whose map change the record carries (R400) -/
  cell : Option Cell := none
  deriving DecidableEq, Repr, Inhabited

/-- The compute reset handshake (Table 2-4). -/
structure CReset where
  phase : BitVec 3 := 0
  job : Option Nat := none
  seat : Seat := 0
  reason : Bool := false
  stamp : Stamp := {}
  /-- time of the handshake's last step -/
  since : Nat := 0
  /-- partitions created at its start: a partition created later keeps an empty history (Table 13-16) -/
  born : BitVec 32 := 0
  /-- the handshake has ended and the rest waits for the reset of REC (Table 13-16) -/
  ended : Bool := false
  qto : Bool := false
  rto : Bool := false
  count : BitVec 32 := 0
  lastBeat : Word := 0
  deriving DecidableEq, Repr, Inhabited

structure Recorder where
  recs : List EventRec := []
  headSeq : BitVec 32 := 0
  firstSeq : BitVec 32 := 1
  lost : BitVec 16 := 0
  limits : List (LimitKey × Nat) := []
  /-- heartwood records that are not blank, by index -/
  heartwood : List (Nat × BitVec 512) := []
  genNext : Nat := 0
  resNext : Nat := 0
  dropped : BitVec 8 := 0
  replayDone : Bool := false
  chainDone : Bool := false
  chainOk : Bool := false
  genFull : Bool := false
  resFull : Bool := false
  tornRepaired : Bool := false
  writeErr : Bool := false
  queue : List HwRec := []
  /-- index and content of the record written last (R415) -/
  last : Option (Nat × BitVec 512) := none
  start : BitVec 32 := 0
  creset : CReset := {}
  deriving DecidableEq, Repr, Inhabited

/-! ## What leaves on the transactional ports (assumption entry 7) -/

/-- Responses of the SPDM responder (R382 to R384), by content. -/
inductive SpdmRsp where
  | version (v : BitVec 8)
  | capabilities (flags : List String) (ctExponent dataTransfer maxMsg : Nat)
  | algorithms (names : List String)
  | digests (slot0 : BitVec 384)
  | certificate (portion : Bytes) (remainder : Nat)
  | challengeAuth (chainHash : BitVec 384) (signature : Bytes)
  | measurements (blocks : List (BitVec 8 × Bytes)) (signature : Bytes)
  | keyExchangeRsp (session : BitVec 32) (signature : Bytes)
  | finishRsp
  | endSessionAck
  | chunkSendAck (seqNo : BitVec 16)
  | chunkResponse (seqNo : BitVec 16) (last : Bool) (data : Bytes)
  | error (name : String)
  deriving DecidableEq, Repr, Inhabited

/-- Responses and requests of the PLDM firmware device (R268), by content. -/
inductive PldmMsg where
  | identifiers (iana : BitVec 32) (coreId : BitVec 32) (serial : Word)
  | parameters (svn1 family svn0 version : BitVec 16)
  | ok
  | componentAccepted (ident : BitVec 16) (supported : Bool)
  | requestData (offset : Nat) (length : Nat)
  | transferComplete (success : Bool)
  | verifyComplete (status : Status)
  | applyComplete (success : Bool)
  | status (inUpdate : Bool) (bytes : Nat)
  | completion (name : String)
  deriving DecidableEq, Repr, Inhabited

inductive PortEvent where
  | fabricWrite (tag : BitVec 6) (obo : BitVec 8) (addr : Word) (data : Bytes)
  | fabricRead (tag : BitVec 6) (obo : BitVec 8) (addr : Word) (len : Nat)
  | imemWrite (base : Word) (image : Bytes)
  | firebreak (unit : Option Unit7) (op : BitVec 4) (data : BitVec 128)
  | keyMessage (port : Port) (m : KdMsg)
  | hbmWrite (lane : Lane) (addr : Nat) (part : Part) (data : Bytes)
  | sweepRead (addr : Nat)
  | accessResponse (path : MctpPath) (frame : Bytes)
  | spdm (path : MctpPath) (r : SpdmRsp)
  | pldm (path : MctpPath) (m : PldmMsg)
  | ibi (data : BitVec 8)
  | flashProgram (addr len : Nat)
  | flashErase (addr len : Nat)
  | causeLatchClr
  deriving DecidableEq, Repr, Inhabited

/-! ## The state -/

structure State where
  now : Nat := 0
  draws : Nat := 0
  orders : Nat := 0
  pins : Pins := {}
  rsp : FtRsp := {}
  held : List Access := []
  fw : FuseWires := {}
  lcauth : BitVec 128 := 0
  i3cAddressed : Bool := false
  ibiWaiting : Bool := false
  beat : Beat := {}
  core : Core := {}
  cells : Vector CellState 92 := Vector.replicate 92 {}
  /-- units of work that wait for a cell, oldest first (R24, R26) -/
  units : List CellUnit := []
  seats : Vector SeatPage 68 := Vector.replicate 68 {}
  jobs : List Job := []
  nextJob : Nat := 0
  arbs : Vector Arb 9 := Vector.replicate 9 {}
  mbx : Vector Mailbox 128 := Vector.replicate 128 {}
  fi : Initiator := {}
  otp : Otp := {}
  lc : LifeCycle := {}
  keys : Keys := {}
  boot : Boot := {}
  pke : Pke := {}
  dig : Dig := {}
  ing : Ing := {}
  part : Partitions := {}
  recd : Recorder := {}
  out : List PortEvent := []
  pending : List Instr := []
  deriving DecidableEq, Repr, Inhabited

/-- Power is present and held in reset: every port at the reset value of its table, every register at its reset
value, the non-volatile memories blank as shipped (assumption entry 9 says how a start follows). -/
def State.reset : State := {}

end Sys2Proof.Machine
end

