-- ==== Sys2Proof/Machine/Curves.lean ====
section
/-! DEFINITION. Short Weierstrass curves (Tables 9-2, 9-13): points, scalar multiples, ECDSA (FIPS 186-5), ECDH
(SP 800-56A) and the validation of points of Table 9-7. -/

namespace Sys2Proof.Machine

/-- P-256 (FIPS 186-5, assumption entry 5). -/
def p256 : CurveParams :=
  { len := 32, h := 1,
    p := 0xFFFFFFFF00000001000000000000000000000000FFFFFFFFFFFFFFFFFFFFFFFF,
    a := 0xFFFFFFFF00000001000000000000000000000000FFFFFFFFFFFFFFFFFFFFFFFC,
    b := 0x5AC635D8AA3A93E7B3EBBD55769886BC651D06B0CC53B0F63BCE3C3E27D2604B,
    gx := 0x6B17D1F2E12C4247F8BCE6E563A440F277037D812DEB33A0F4A13945D898C296,
    gy := 0x4FE342E2FE1A7F9B8EE7EB4A7C0F9E162BCE33576B315ECECBB6406837BF51F5,
    n := 0xFFFFFFFF00000000FFFFFFFFFFFFFFFFBCE6FAADA7179E84F3B9CAC2FC632551 }

/-- P-384 (FIPS 186-5, assumption entry 5). -/
def p384 : CurveParams :=
  { len := 48, h := 1,
    p := 0xFFFFFFFFFFFFFFFFFFFFFFFFFFFFFFFFFFFFFFFFFFFFFFFFFFFFFFFFFFFFFFFEFFFFFFFF0000000000000000FFFFFFFF,
    a := 0xFFFFFFFFFFFFFFFFFFFFFFFFFFFFFFFFFFFFFFFFFFFFFFFFFFFFFFFFFFFFFFFEFFFFFFFF0000000000000000FFFFFFFC,
    b := 0xB3312FA7E23EE7E4988E056BE3F82D19181D9C6EFE8141120314088F5013875AC656398D8A2ED19D2A85C8EDD3EC2AEF,
    gx := 0xAA87CA22BE8B05378EB1C71EF320AD746E1D3B628BA79B9859F741E082542A385502F25DBF55296C3A545E3872760AB7,
    gy := 0x3617DE4A96262C6F5D9E98BF9292DC29F8F41DBD289A147CE9DA3113B5F0B8C00A60B1CE1D7E819D7A431D7C90EA0E5F,
    n := 0xFFFFFFFFFFFFFFFFFFFFFFFFFFFFFFFFFFFFFFFFFFFFFFFFC7634D81F4372DDF581A0DB248B0A77AECEC196ACCC52973 }

/-- P-521 (FIPS 186-5, assumption entry 5). -/
def p521 : CurveParams :=
  { len := 66, h := 1,
    p := 0x1FFFFFFFFFFFFFFFFFFFFFFFFFFFFFFFFFFFFFFFFFFFFFFFFFFFFFFFFFFFFFFFFFFFFFFFFFFFFFFFFFFFFFFFFFFFFFFFFFFFFFFFFFFFFFFFFFFFFFFFFFFFFFFFFFF,
    a := 0x1FFFFFFFFFFFFFFFFFFFFFFFFFFFFFFFFFFFFFFFFFFFFFFFFFFFFFFFFFFFFFFFFFFFFFFFFFFFFFFFFFFFFFFFFFFFFFFFFFFFFFFFFFFFFFFFFFFFFFFFFFFFFFFFFFC,
    b := 0x51953EB9618E1C9A1F929A21A0B68540EEA2DA725B99B315F3B8B489918EF109E156193951EC7E937B1652C0BD3BB1BF073573DF883D2C34F1EF451FD46B503F00,
    gx := 0xC6858E06B70404E9CD9E3ECB662395B4429C648139053FB521F828AF606B4D3DBAA14B5E77EFE75928FE1DC127A2FFA8DE3348B3C1856A429BF97E7E31C2E5BD66,
    gy := 0x11839296A789A3BC0045C8A5FB42C7D1BD998F54449579B446817AFBD17273E662C97EE72995EF42640C550B9013FAD0761353C7086A272C24088BE94769FD16650,
    n := 0x1FFFFFFFFFFFFFFFFFFFFFFFFFFFFFFFFFFFFFFFFFFFFFFFFFFFFFFFFFFFFFFFFFA51868783BF2F966B7FCC0148F709A5D03BB5C9B8899C47AEBB6FB71E91386409 }

/-- Parameters of a named curve (Table 9-2); a code that names none has no curve. -/
def namedParams (alg : Nat) : CurveParams :=
  match alg with
  | 0x01 => p256 | 0x02 => p384 | 0x03 => p521 | _ => { h := 1 }

/-- Number of bits of a number. -/
def bitLength (x : Nat) : Nat := if x = 0 then 0 else x.log2 + 1

/-- Bytes of an integer modulo the group order. -/
def orderLen (c : CurveParams) : Nat := (bitLength c.n + 7) / 8

/-- The bits of a number, most significant first. -/
def msbBits (x : Nat) : List Bool := (List.range (bitLength x)).reverse.map x.testBit

/-- b^e modulo m. -/
def powMod (b e m : Nat) : Nat := (msbBits e).foldl (fun a k => if k then a * a % m * b % m else a * a % m) (1 % m)

/-- The inverse modulo a prime. -/
def invMod (x p : Nat) : Nat := powMod x (p - 2) p

/-- x - y modulo p. -/
def subMod (x y p : Nat) : Nat := (x + (p - y % p)) % p

/-- A point: none is the point at infinity. -/
abbrev Point := Option (Nat × Nat)

/-- The chord or tangent through two points with slope l. -/
def slopeAdd (c : CurveParams) (l x1 y1 x2 : Nat) : Point :=
  let x3 := subMod (subMod (l * l) x1 c.p) x2 c.p
  some (x3, subMod (l * subMod x1 x3 c.p) y1 c.p)

/-- Sum of two points. -/
def ecAdd (c : CurveParams) : Point → Point → Point
  | none, q => q
  | p, none => p
  | some (x1, y1), some (x2, y2) =>
    if x1 = x2 then
      if (y1 + y2) % c.p = 0 then none
      else slopeAdd c ((3 * x1 * x1 + c.a) * invMod (2 * y1) c.p % c.p) x1 y1 x2
    else slopeAdd c (subMod y2 y1 c.p * invMod (subMod x2 x1 c.p) c.p % c.p) x1 y1 x2

/-- k times a point. -/
def ecMul (c : CurveParams) (k : Nat) (q : Point) : Point :=
  (msbBits k).foldl (fun a b => if b then ecAdd c (ecAdd c a a) q else ecAdd c a a) none

/-- The generator. -/
def ecGen (c : CurveParams) : Point := some (c.gx, c.gy)

/-- X and Y of an uncompressed point. -/
def pointX (c : CurveParams) (pt : Bytes) : Nat := beNat (slice pt 1 c.len)
def pointY (c : CurveParams) (pt : Bytes) : Nat := beNat (slice pt (1 + c.len) c.len)

/-- The point an uncompressed encoding spells. -/
def pointOf (c : CurveParams) (pt : Bytes) : Point := some (pointX c pt, pointY c pt)

/-- An uncompressed point: 0x04, X, Y. -/
def encodePoint (c : CurveParams) : Point → Bytes
  | none => 0x04#8 :: List.replicate (2 * c.len) 0
  | some (x, y) => 0x04#8 :: (beBytes c.len x ++ beBytes c.len y)

/-- Public key of a scalar. -/
def ecPublic (c : CurveParams) (d : Nat) : Bytes := encodePoint c (ecMul c d (ecGen c))

/-- X coordinate of d times a peer's point. -/
def ecdhX (c : CurveParams) (d : Nat) (peer : Bytes) : Bytes :=
  match ecMul c d (pointOf c peer) with
  | none => List.replicate c.len 0
  | some (x, _) => beBytes c.len x

/-- The leftmost min(bit length of n, 8 x length) bits of a digest (Table 9-5). -/
def digestInt (c : CurveParams) (digest : Bytes) : Nat := beNat digest / 2 ^ (8 * digest.length - bitLength c.n)

/-- ECDSA signature (r, s) of a digest with nonce k; r or s may be 0, and the caller redraws (R277). -/
def ecdsaPair (c : CurveParams) (d : Nat) (digest : Bytes) (k : Nat) : Nat × Nat :=
  match ecMul c k (ecGen c) with
  | none => (0, 0)
  | some (x, _) =>
    let r := x % c.n
    (r, invMod k c.n * (digestInt c digest + r * d) % c.n)

/-- ECDSA verification of r and s under a point. -/
def ecdsaHolds (c : CurveParams) (q : Point) (digest : Bytes) (r t : Nat) : Bool :=
  if r = 0 ∨ c.n ≤ r ∨ t = 0 ∨ c.n ≤ t then false
  else
    let w := invMod t c.n
    match ecAdd c (ecMul c (digestInt c digest * w % c.n) (ecGen c)) (ecMul c (r * w % c.n) q) with
    | none => false
    | some (x, _) => x % c.n == r

/-- y^2 = x^3 + ax + b modulo p. -/
def onCurve (c : CurveParams) (x y : Nat) : Bool := y * y % c.p == (x * x * x + c.a * x + c.b) % c.p

/-- Coordinates in range (Table 9-7 check 2). -/
def pointInRange (c : CurveParams) (pt : Bytes) : Bool :=
  decide (pointX c pt < c.p) && decide (pointY c pt < c.p)

/-- X = Y = 0, the point at infinity (check 3). -/
def pointZero (c : CurveParams) (pt : Bytes) : Bool := pointX c pt == 0 && pointY c pt == 0

/-- Encoded as 0x04, X, Y of the curve's length. -/
def pointShape (c : CurveParams) (pt : Bytes) : Bool := pt.length == 1 + 2 * c.len && pt.head? == some 0x04#8

/-- The checks 2 to 5 of Table 9-7 on a point: the status of the first one that fails. -/
def pointFault (c : CurveParams) (pt : Bytes) : Option Status :=
  if !pointInRange c pt || pointZero c pt then some .pkeRange
  else if !onCurve c (pointX c pt) (pointY c pt) then some .pkeNotOnCurve
  else if 1 < c.h && (ecMul c c.n (pointOf c pt)).isSome then some .pkeNotOnCurve
  else none

/-- An uncompressed point that lies on the curve and is not infinity. -/
def pointOk (c : CurveParams) (pt : Bytes) : Bool := pointShape c pt && pointFault c pt == none

/-! ## Edwards curves (RFC 8032, assumption entry 5) -/

/-- The field prime of Ed25519 (ALG 0x04) or Ed448. -/
def edPrime (a : Nat) : Nat :=
  if a = 0x04 then 0x7FFFFFFFFFFFFFFFFFFFFFFFFFFFFFFFFFFFFFFFFFFFFFFFFFFFFFFFFFFFFFED
  else 0xFFFFFFFFFFFFFFFFFFFFFFFFFFFFFFFFFFFFFFFFFFFFFFFFFFFFFFFEFFFFFFFFFFFFFFFFFFFFFFFFFFFFFFFFFFFFFFFFFFFFFFFFFFFFFFFF

/-- The group order L. -/
def edOrder (a : Nat) : Nat :=
  if a = 0x04 then 0x1000000000000000000000000000000014DEF9DEA2F79CD65812631A5CF5D3ED
  else 0x3FFFFFFFFFFFFFFFFFFFFFFFFFFFFFFFFFFFFFFFFFFFFFFFFFFFFFFF7CCA23E9C44EDB49AED63690216CC2728DC58F552378C292AB5844F3

/-- The curve constant d. -/
def edD (a : Nat) : Nat :=
  let p := edPrime a
  if a = 0x04 then subMod 0 (121665 * invMod 121666 p) p else p - 39081

/-- y of an encoded point: all but the sign bit. -/
def edY (pt : Bytes) : Nat := leNat pt % 2 ^ (8 * pt.length - 1)

/-- Encoded y below p (Table 9-7 check 2). -/
def edBelowP (a : Nat) (pt : Bytes) : Bool := decide (edY pt < edPrime a)

/-- y of a point of order 8 of Ed25519; the other is its negative. -/
def edEighth : Nat := 2707385501144840649318225287225658788936804267575313519463743609750303402022

/-- A point of small order (check 3). -/
def edSmallOrder (a : Nat) (pt : Bytes) : Bool :=
  let p := edPrime a
  let y := edY pt
  y == 0 || y == 1 || y == p - 1 || (a == 0x04 && (y == edEighth || y == p - edEighth))

/-- x^2 of a point with this y: (y^2 - 1) / (d y^2 + 1) on Ed25519, (y^2 - 1) / (d y^2 - 1) on Ed448. -/
def edX2 (a y : Nat) : Nat :=
  let p := edPrime a
  let dy := edD a * y * y % p
  subMod (y * y) 1 p * invMod (if a = 0x04 then dy + 1 else subMod dy 1 p) p % p

/-- The encoding decodes to a curve point (check 4): x^2 is a square, and x = 0 has no sign. -/
def edDecodes (a : Nat) (pt : Bytes) : Bool :=
  let p := edPrime a
  let x2 := edX2 a (edY pt)
  if x2 = 0 then leNat pt == edY pt else powMod x2 ((p - 1) / 2) p == 1

/-- An ECDSA verification with its validation: public key, digest, r and s. -/
def ecdsaVerify (c : CurveParams) (pub digest sig : Bytes) : Bool :=
  pointOk c pub && sig.length == 2 * orderLen c
    && ecdsaHolds c (pointOf c pub) digest (beNat (sig.take (orderLen c))) (beNat (sig.drop (orderLen c)))

end Sys2Proof.Machine
end

