-- ==== Sys2Proof/Machine/Operands.lean ====
section
/-! DEFINITION. Operand forms of the commands and of the jobs: opcodes and their classes, engines and abort rules
(Table 3-8), argument fields, handles, and index arithmetic of pages and entries. -/

namespace Sys2Proof.Machine

/-! ## Replicated parts -/

variable {α : Type} {n : Nat}

/-- Replace one element. -/
def vset (v : Vector α n) (i : Fin n) (x : α) : Vector α n := v.set i.val x i.isLt

/-- Change one element. -/
def vmod (v : Vector α n) (i : Fin n) (f : α → α) : Vector α n := vset v i (f v[i])

/-- The indices of a vector of length n. -/
def indices (n : Nat) : List (Fin n) := List.finRange n

/-! ## Opcodes -/

/-- Opcode of each implemented operation (Tables 1-10, 4-7, 5-6, 6-14, 7-7, 8-12, 9-4, 10-3, 11-6, 12-6, 13-9). -/
def opcodeOf : Op → BitVec 16
  | .powerSet => 0x0120 | .computeReset => 0x0121 | .beatRebase => 0x0201
  | .otpRead => 0x0301 | .otpProgram => 0x0302 | .otpLock => 0x0303 | .otpRepair => 0x0304 | .otpCtrAdvance => 0x0305
  | .lcAuthBegin => 0x0401 | .lcAuthProve => 0x0402 | .lcAuthEnd => 0x0403 | .lcTransition => 0x0404
  | .lcDebugOpen => 0x0405 | .lcDebugClose => 0x0406 | .lcDebugPolicy => 0x0407
  | .bootStageBegin => 0x0501 | .bootStageData => 0x0502 | .bootStageFinish => 0x0503 | .bootStageCancel => 0x0504
  | .bootActivate => 0x0505 | .bootHandoverPut => 0x0506 | .bootHandoverGet => 0x0507
  | .bootConfigCommit => 0x0508 | .bootSecretAccess => 0x0509
  | .keysGenerate => 0x0601 | .keysImport => 0x0602 | .keysExport => 0x0603 | .keysDerive => 0x0604
  | .keysSealDerive => 0x0605 | .keysInstallerDerive => 0x0606 | .keysFree => 0x0607 | .keysInfo => 0x0608
  | .keysCertRead => 0x0609 | .keysRootProvision => 0x060A | .keysLinkRestart => 0x060B
  | .partCreate => 0x0701 | .partDestroy => 0x0702 | .partShadowBegin => 0x0703 | .partShadowWrite => 0x0704
  | .partSwap => 0x0705 | .partShadowCancel => 0x0706 | .partEvidence => 0x0707 | .partGroveCollect => 0x0708
  | .partClearRetry => 0x0709
  | .recRead => 0x0801 | .recClear => 0x0802 | .recHwRead => 0x0803 | .recRetest => 0x0804 | .recDumpRead => 0x0805
  | .pkeSign => 0x0901 | .pkeVerify => 0x0902 | .pkeHybridSign => 0x0903 | .pkeHybridVerify => 0x0904
  | .pkeEcdh => 0x0905 | .pkeKemEncaps => 0x0906 | .pkeKemDecaps => 0x0907 | .pkePublic => 0x0908
  | .pkeRsaSign => 0x0909 | .pkeRsaVerify => 0x090A | .pkeCurveLoad => 0x0910 | .pkeCurveClear => 0x0911
  | .digOpen => 0x0A01 | .digAbsorb => 0x0A02 | .digFinal => 0x0A03 | .digCompare => 0x0A04
  | .digSave => 0x0A05 | .digRestore => 0x0A06 | .digAbort => 0x0A07
  | .ingPlan => 0x0B01 | .ingLoad => 0x0B02 | .ingPlanFree => 0x0B03 | .ingShardInfo => 0x0B04
  | .ingSweepSet => 0x0B05 | .ingKeyDrop => 0x0B06

/-- Every implemented operation. -/
def allOps : List Op :=
  [.powerSet, .computeReset, .beatRebase, .otpRead, .otpProgram, .otpLock, .otpRepair, .otpCtrAdvance,
   .lcAuthBegin, .lcAuthProve, .lcAuthEnd, .lcTransition, .lcDebugOpen, .lcDebugClose, .lcDebugPolicy] ++
  [.bootStageBegin, .bootStageData, .bootStageFinish, .bootStageCancel, .bootActivate, .bootHandoverPut,
   .bootHandoverGet, .bootConfigCommit, .bootSecretAccess, .keysGenerate, .keysImport, .keysExport, .keysDerive,
   .keysSealDerive, .keysInstallerDerive, .keysFree, .keysInfo, .keysCertRead, .keysRootProvision,
   .keysLinkRestart] ++
  [.partCreate, .partDestroy, .partShadowBegin, .partShadowWrite, .partSwap, .partShadowCancel, .partEvidence,
   .partGroveCollect, .partClearRetry, .recRead, .recClear, .recHwRead, .recRetest, .recDumpRead] ++
  [.pkeSign, .pkeVerify, .pkeHybridSign, .pkeHybridVerify, .pkeEcdh, .pkeKemEncaps, .pkeKemDecaps, .pkePublic,
   .pkeRsaSign, .pkeRsaVerify, .pkeCurveLoad, .pkeCurveClear, .digOpen, .digAbsorb, .digFinal, .digCompare,
   .digSave, .digRestore, .digAbort, .ingPlan, .ingLoad, .ingPlanFree, .ingShardInfo, .ingSweepSet, .ingKeyDrop]

/-- The operation an opcode names, if one is implemented (R10). -/
def opOfCode (c : BitVec 16) : Option Op := allOps.find? (fun o => opcodeOf o == c)

/-- Queue class of an operation: by the upper byte of its opcode (Table 3-8). -/
def classOf (o : Op) : QClass :=
  match (opcodeOf o).toNat / 256 with
  | 0x09 => .pke
  | 0x0A => .dig
  | 0x0B => .ing
  | _ => .ctrl

/-- The engine that runs an operation. POWER_SET and BEAT_REBASE run on SEQ, CORE_COMPUTE_RESET on REC (assumption
entry 3); LC and BOOT commands on SEQ (R190, R261). -/
def engineOf (o : Op) : Engine :=
  match (opcodeOf o).toNat / 256 with
  | 0x01 => if o = .computeReset then .recd else .seq
  | 0x03 => .otp
  | 0x06 => .keys
  | 0x07 => .part
  | 0x08 => .recd
  | 0x09 => .pke
  | 0x0A => .dig
  | 0x0B => .ing
  | _ => .seq

/-- Operations a SEAT_ABORT cannot stop once started (R123 and the command chapters). LC_TRANSITION and
PART_DESTROY are non-abortable from their step 2 and never found in step 1 between two steps of this model. -/
def abortable : Op → Bool
  | .otpProgram | .otpLock | .otpRepair | .otpCtrAdvance => false
  | .lcTransition | .lcDebugPolicy => false
  | .bootStageBegin | .bootStageFinish | .bootActivate | .bootConfigCommit | .bootHandoverPut => false
  | .keysRootProvision => false
  | .partDestroy | .partGroveCollect | .partClearRetry | .recClear | .recRetest | .computeReset => false
  | .digFinal | .digCompare | .digSave | .digRestore | .digAbort => false
  | .ingPlan | .ingPlanFree | .ingShardInfo | .ingSweepSet | .ingKeyDrop => false
  | _ => true

/-- Class number of Table 3-6. -/
def classNum : QClass → Nat
  | .pke => 0 | .dig => 1 | .ing => 2 | .ctrl => 3

/-- The class of a number. -/
def classOfNum (k : Nat) : QClass :=
  match k % 4 with
  | 0 => .pke | 1 => .dig | 2 => .ing | _ => .ctrl

/-- Engine number in CORE_STATUS.ENG_RESET order (Table 1-12). -/
def engineNum : Engine → Nat
  | .pke => 0 | .dig => 1 | .ing => 2 | .otp => 3 | .seq => 4 | .keys => 5 | .part => 6 | .recd => 7 | .mbx => 8

/-- The same number as an index. -/
def engineIx (e : Engine) : Fin 9 := Fin.ofNat 9 (engineNum e)

/-- Number of an entry among the 32 of a page (R121). -/
def entryIx (c : QClass) (e : EntryIx) : Fin 32 := Fin.ofNat 32 (8 * classNum c + e.val)

/-! ## Argument words -/

/-- Argument word k of a job. -/
def Job.w (j : Job) (k : Nat) : Word := j.args.toList.getD k 0

/-- Bits [lo + len - 1 : lo] of argument word k. -/
def Job.f (j : Job) (k lo len : Nat) : Nat := fld (j.w k) lo len

/-- The words of a list, zero-filled to seven. -/
def wordsOf (ws : List Word) : Words := Vector.ofFn (fun (i : Fin 7) => ws.getD i.val 0)

/-- Seven zero words. -/
def noWords : Words := Vector.replicate 7 0

/-- A seat by number. -/
def seatNo (k : Nat) : Seat := Fin.ofNat 68 k
/-- HOST, MGMT, BMC and PEER (Table 3-1). -/
def host : Seat := 64
def mgmt : Seat := 65
def bmc : Seat := 66
def peer : Seat := 67

/-- One of seats 64 to 66. -/
def isHmb (n : Seat) : Bool := 64 ≤ n.val && n.val ≤ 66

/-- The seat a source stamp maps to (Table 2-6). -/
def seatOfStamp (src : BitVec 8) : Option Seat :=
  if h : src.toNat < 68 then some ⟨src.toNat, h⟩ else none

/-- The stamp of a seat. -/
def stampOf (n : Seat) : BitVec 8 := BitVec.ofNat 8 n.val

/-- The seat group whose weight applies (R115): 0 partitions, 1 HOST, 2 MGMT, 3 BMC, 4 PEER. -/
def seatGroup (n : Seat) : Nat := if n.val < 64 then 0 else n.val - 63

/-- The key slots a started job uses, by the handles in its arguments (Tables 7-7, 9-4, 10-3). -/
def Job.slots (j : Job) : List Nat :=
  match j.op with
  | .pkeSign | .pkeEcdh | .pkeKemDecaps | .pkePublic | .pkeRsaSign | .keysExport | .keysDerive => [j.f 0 0 8]
  | .pkeHybridSign => [j.f 0 0 8, j.f 5 0 8]
  | .digOpen => if 0x11 ≤ j.f 0 16 8 then [j.f 0 0 8] else []
  | .digCompare => if j.f 1 0 1 = 1 then [j.f 2 0 8] else []
  | _ => []

/-- The ALG code of a PKE job (W0 [23:16]). -/
def Job.alg (j : Job) : Nat := j.f 0 16 8

/-- The curve slot a PKE job uses, if its ALG names one. -/
def Job.curve (j : Job) : Option (Fin 8) :=
  match classOf j.op with
  | .pke => if 8 ≤ j.alg ∧ j.alg ≤ 15 then some (Fin.ofNat 8 (j.alg - 8)) else none
  | _ => none

end Sys2Proof.Machine
end

