-- ==== Sys2Proof/Machine/Flags.lean ====
section
/-! DEFINITION. Status codes (Table 14-8), interrupt and fault bits (Tables 3-5, 3-6, 14-2), and when a seat is
pending (R429). -/

namespace Sys2Proof.Machine

/-- Value of a status (Table 14-8). -/
def statusCode : Status → BitVec 16
  | .ok => 0x0000 | .pending => 0x0001 | .busy => 0x0002
  | .badOpcode => 0x0010 | .badArgument => 0x0011 | .state => 0x0012 | .denied => 0x0013 | .locked => 0x0014
  | .pkeRange => 0x0020 | .pkeNotOnCurve => 0x0021 | .pkeCurveRejected => 0x0022 | .pkeVerifyFail => 0x0023
  | .digShort => 0x0030
  | .otpSupply => 0x0040 | .otpVerify => 0x0041 | .otpLockMismatch => 0x0042 | .otpMarginal => 0x0043
  | .ingTag => 0x0050 | .ingGrove => 0x0051 | .ingSweepMismatch => 0x0052
  | .aborted => 0x00F0 | .transient => 0x00F1 | .retired => 0x00F2 | .fault => 0x00F3

/-! ## Bits of CORE_IRQ_STATUS (Table 14-2) -/

def irqDebug : Nat := 18
def irqSwapLate : Nat := 17
def irqClearFailed : Nat := 16
def irqQuar : Nat := 15
def irqLink : Nat := 14
def irqBoot : Nat := 13
def irqHw : Nat := 12
def irqRecFull : Nat := 11
def irqBeat : Nat := 10
def irqStrmQuar : Nat := 9
def irqEng : Nat := 8
def irqRetired : Nat := 7

/-! ## Bits of SEAT_FAULT (Table 3-5) and SEAT_IRQ_STATUS (Table 3-6) -/

def faultNotice : BitVec 6 := 0x20
def faultInit : BitVec 6 := 0x10
def faultStrm : BitVec 6 := 0x08
def faultHandle : BitVec 6 := 0x04
def faultRetired : BitVec 6 := 0x02
def faultJob : BitVec 6 := 0x01

def irqFault : BitVec 7 := 0x40
def irqEmptied : BitVec 7 := 0x20
def irqNotice : BitVec 7 := 0x10

/-- DONE[c]. -/
def irqDone (c : QClass) : BitVec 7 := BitVec.ofNat 7 (2 ^ classNum c)

/-- A seat-page source is pending. -/
def pagePending (p : SeatPage) : Bool := p.irqStatus &&& p.irqEn != 0

/-- A CORE source of the page's bank is pending. The banks of seats other than 64 to 66 stay zero. -/
def corePending (p : SeatPage) : Bool := p.coreIrq &&& p.coreIrqEn != 0

/-- The seat has a pending interrupt (R429). -/
def isPending (p : SeatPage) : Bool := pagePending p || corePending p

/-- The fault bits a completed job's status sets (Table 3-5). -/
def faultOf : Status → BitVec 6
  | .fault => faultJob
  | .retired | .transient => faultRetired
  | _ => 0

/-- SEAT_FAULT with bits set, and SEAT_IRQ_STATUS.FAULT when any of them was 0 (Table 14-4). -/
def setFault (b : BitVec 6) (p : SeatPage) : SeatPage :=
  { p with fault := p.fault ||| b, irqStatus := if b &&& ~~~p.fault != 0 then p.irqStatus ||| irqFault else p.irqStatus }

/-- SEAT_IRQ_STATUS with bits set, enabled or not (R107). -/
def setIrq (b : BitVec 7) (p : SeatPage) : SeatPage := { p with irqStatus := p.irqStatus ||| b }

/-- One bit of the CORE bank set. -/
def setCoreIrq (b : BitVec 19) (p : SeatPage) : SeatPage := { p with coreIrq := p.coreIrq ||| b }

/-- Occupied entries of a class (Table 3-4). -/
def occupied (p : SeatPage) (c : QClass) : Nat :=
  ((indices 8).filter (fun e => p.entries[entryIx c e].st ≠ .free)).length

/-- SEAT_DONE (R121). -/
def doneWord (p : SeatPage) : Word :=
  word (((indices 32).filter (fun i => p.entries[i].st = .done)).foldl (fun a i => a + 2 ^ i.val) 0)

end Sys2Proof.Machine
end

