-- ==== Sys2Proof/Machine/Sparse.lean ====
section
/-! DEFINITION. The memories of Limcy (OTP array, flash, operand window, heartwood): lists of address and value
pairs in one canonical form, addresses strictly rising and no pair equal to what an unlisted address reads as. -/

namespace Sys2Proof.Machine

variable {α : Type} [DecidableEq α]

/-- The value at an address; d is what an unlisted address reads as. -/
def memGet (d : α) : List (Nat × α) → Nat → α
  | [], _ => d
  | (b, w) :: m, a => if a = b then w else memGet d m a

/-- Write one value; writing d removes the pair. -/
def memSet (d : α) : List (Nat × α) → Nat → α → List (Nat × α)
  | [], a, v => if v = d then [] else [(a, v)]
  | (b, w) :: m, a, v =>
    if a < b then (if v = d then (b, w) :: m else (a, v) :: (b, w) :: m)
    else if a = b then (if v = d then m else (a, v) :: m)
    else (b, w) :: memSet d m a v

/-- Addresses strictly rise above a bound and no value is d. -/
def memWfFrom (d : α) : Option Nat → List (Nat × α) → Bool
  | _, [] => true
  | lo, (b, w) :: m => (match lo with | none => true | some l => decide (l < b)) && decide (w ≠ d) && memWfFrom d (some b) m

/-- The canonical form. -/
def memWf (d : α) (m : List (Nat × α)) : Bool := memWfFrom d none m

/-- n values from an address of a memory whose listed addresses are none below it. -/
def memRun (d : α) : List (Nat × α) → Nat → Nat → List α
  | _, _, 0 => []
  | [], a, n + 1 => d :: memRun d [] (a + 1) n
  | (b, w) :: m, a, n + 1 => if a = b then w :: memRun d m (a + 1) n else d :: memRun d ((b, w) :: m) (a + 1) n

/-- n values from an address. -/
def memRead (d : α) (m : List (Nat × α)) (a n : Nat) : List α := memRun d (m.dropWhile (fun e => decide (e.1 < a))) a n

/-- The pairs that values at rising addresses make; d makes none. -/
def memCells (d : α) : Nat → List α → List (Nat × α)
  | _, [] => []
  | a, v :: vs => if v = d then memCells d (a + 1) vs else (a, v) :: memCells d (a + 1) vs

/-- Write values at rising addresses. -/
def memWrite (d : α) (m : List (Nat × α)) (a : Nat) (vs : List α) : List (Nat × α) :=
  m.filter (fun e => decide (e.1 < a)) ++ memCells d a vs ++ m.filter (fun e => decide (a + vs.length ≤ e.1))

/-- Every address of [a, a + n) reads as d afterwards. -/
def memErase (m : List (Nat × α)) (a n : Nat) : List (Nat × α) :=
  m.filter (fun e => decide (e.1 < a) || decide (a + n ≤ e.1))

end Sys2Proof.Machine
end

