-- ==== Sys2Proof/Machine/OtpWords.lean ====
section
/-! DEFINITION. OTP words: classes by address (Table 5-2), the extended Hamming (72,64) code (R158) and the
resolution of a pair of margin reads (R163). -/

namespace Sys2Proof.Machine

/-- A pair of reads: low margin, high margin. -/
abbrev Reads := OtpWord × OtpWord

/-- Word classes (Table 5-1). -/
inductive WordClass where
  | e | t | l | d
  deriving DecidableEq, Repr

/-- Class code of Table 5-1. -/
def WordClass.code : WordClass → Nat
  | .e => 0 | .t => 1 | .l => 2 | .d => 3

/-- Region of a word (R156). -/
def regionOf (addr : Nat) : Nat := addr / 0x80 % 32

/-- Class of a word, by the region map (Table 5-2). -/
def wordClass (addr : Nat) : WordClass :=
  let r := regionOf addr
  if r = 0 then (if addr = 0x004 then .d else .t)
  else if r = 1 then (if addr % 4 = 0 then .l else .e)
  else if addr = 0x108 then .d
  else if 8 ≤ r ∧ r ≤ 13 then .t
  else .e

/-- Whether a code position is a power of two below 128. -/
def isPow2 (k : Nat) : Bool := k ∈ [1, 2, 4, 8, 16, 32, 64]

/-- p(0) to p(63): the integers from 3 to 71 that are no power of two (R158). -/
def dataPositions : List Nat := (List.range 72).filter (fun k => 3 ≤ k && !isPow2 k)

/-- XOR of the data bits whose position has bit j set. -/
def dataParity (v : Nat) (j : Nat) : Bool :=
  ((dataPositions.zipIdx).filter (fun e => e.1.testBit j && v.testBit e.2)).length % 2 == 1

/-- Number of ones below bit n. -/
def popCount (n v : Nat) : Nat := ((List.range n).filter (fun i => v.testBit i)).length

/-- The 72-bit codeword of a value (R158). -/
def codeword (v : Word) : OtpWord :=
  let d := v.toNat
  let c := (List.range 7).foldl (fun a j => a + bit (dataParity d j) * 2 ^ j) 0
  let p := (popCount 64 d + popCount 7 c) % 2
  BitVec.ofNat 72 (d + c * 2 ^ 64 + p * 2 ^ 71)

/-- Data bits of a read. -/
def dataOf (w : OtpWord) : Word := w.truncate 64
/-- Check bits of a read. -/
def checkOf (w : OtpWord) : BitVec 8 := BitVec.ofNat 8 (w.toNat / 2 ^ 64)

/-- What the code says of a read: a clean value, a value corrected in one bit, or more errors. -/
inductive Decoded where
  | clean (v : Word)
  | corrected (v : Word)
  | bad
  deriving DecidableEq, Repr

/-- Decode one read (R158): one error is corrected, two are detected. -/
def decodeE (w : OtpWord) : Decoded :=
  let d := (dataOf w).toNat
  let c := (checkOf w).toNat
  let syn := (List.range 7).foldl (fun a j => a + bit (dataParity d j != c.testBit j) * 2 ^ j) 0
  let odd := popCount 72 w.toNat % 2 == 1
  if syn = 0 then (if odd then .corrected (dataOf w) else .clean (dataOf w))
  else if !odd then .bad
  else if isPow2 syn then .corrected (dataOf w)
  else match dataPositions.findIdx? (· == syn) with
    | some i => .corrected (dataOf w ^^^ word (2 ^ i))
    | none => .bad

/-- Value and UNRESOLVABLE of a word (R163). -/
def resolve (addr : Nat) (r : Reads) : Word × Bool :=
  match wordClass addr with
  | .t | .l => (dataOf r.1, false)
  | .d => (dataOf r.2, false)
  | .e => match decodeE r.2, decodeE r.1 with
    | .clean v, _ => (v, false)
    | _, .clean v => (v, false)
    | .corrected v, _ => (v, false)
    | _, .corrected v => (v, false)
    | .bad, .bad => (0, true)

/-- Marginal: the margins differ (R163). The check bits of T, L and D words are never read (Table 5-1). -/
def marginal (addr : Nat) (r : Reads) : Bool :=
  if wordClass addr = .e then r.1 != r.2 else dataOf r.1 != dataOf r.2

/-- Bits that differ between the margins. -/
def diffBits (addr : Nat) (r : Reads) : Nat :=
  if wordClass addr = .e then popCount 72 (r.1 ^^^ r.2).toNat else popCount 64 (dataOf r.1 ^^^ dataOf r.2).toNat

/-- All 72 bits one at both margins (R171, R192). -/
def allOnes (r : Reads) : Bool := r.1 == BitVec.allOnes 72 && r.2 == BitVec.allOnes 72

/-- Whether a group of bits of a resolved word has any one. -/
def anyBit (v : Word) (lo len : Nat) : Bool := fld v lo len != 0

end Sys2Proof.Machine
end

