-- ==== Sys2Proof/Machine/Ops.lean ====
section
/-! DEFINITION. The shared operations of Limcy: time and stamps, free draws, the fabric initiator, interrupts, event
and heartwood records, core fault, and the life of a job from arbitration to its posted result. -/

namespace Sys2Proof.Machine

/-! ## Access to replicated parts of the state -/

/-- The page of a seat. -/
def State.seat (s : State) (n : Seat) : SeatPage := s.seats[n]

/-- Change the page of a seat. -/
def State.modSeat (s : State) (n : Seat) (f : SeatPage → SeatPage) : State := { s with seats := vmod s.seats n f }

/-- Change the record of a cell. -/
def State.modCell (s : State) (c : Cell) (f : CellState → CellState) : State := { s with cells := vmod s.cells c f }

/-- Change the record of a partition. -/
def State.modPart (s : State) (n : Part) (f : PartRec → PartRec) : State :=
  { s with part := { s.part with recs := vmod s.part.recs n f } }

/-- Change one link. -/
def State.modLink (s : State) (k : Port) (f : Link → Link) : State :=
  { s with keys := { s.keys with links := vmod s.keys.links k f } }

/-- Change one key slot. -/
def State.modSlot (s : State) (i : Fin 256) (f : KeySlot → KeySlot) : State :=
  { s with keys := { s.keys with slots := vmod s.keys.slots i f } }

/-- Change one load plan. -/
def State.modPlan (s : State) (i : PlanIx) (f : Plan → Plan) : State :=
  { s with ing := { s.ing with plans := vmod s.ing.plans i f } }

/-- Change one digest message. -/
def State.modMsg (s : State) (i : Fin 272) (f : Msg → Msg) : State :=
  { s with dig := { s.dig with msgs := vmod s.dig.msgs i f } }

/-- Put something out on a port. -/
def emit (e : PortEvent) (s : State) : State := { s with out := s.out ++ [e] }

/-! ## Time, stamps and free values -/

/-- LBEAT as a number (R135). -/
def lbeat (s : State) : Nat := s.beat.lbeat.toNat

/-- The period in force in units of 2^-8 ns (R143). -/
def periodInForce (s : State) : Nat := if s.beat.mode = .none then 0x3E800 else s.beat.period

/-- The fraction of the present beat (R136). -/
def beatFrac (s : State) : Nat :=
  min ((s.now - s.beat.tEdge) * 2 ^ 20 / (periodInForce s * Config.periodUnit)) 0xFFFFF

/-- QUAL of a stamp (Table 4-1). -/
def beatQual (s : State) : BitVec 2 :=
  match s.beat.mode with
  | .locked => 0b11 | .holdover => 0b10 | .none | .lost => 0b01

/-- Code of the beat state (Table 4-9). -/
def beatCode : BeatMode → Nat
  | .locked => 3 | .holdover => 2 | .lost => 1 | .none => 0

/-- The info word at this moment (Table 4-1). -/
def beatInfo (s : State) : BitVec 32 :=
  BitVec.ofNat 32 ((beatQual s).toNat * 2 ^ 30 + s.beat.epoch.toNat * 2 ^ 20 + beatFrac s)

/-- The stamp of this moment (R137). -/
def stampNow (s : State) : Stamp := { beat := s.beat.lbeat, info := beatInfo s }

/-- Bytes of a stamp: beat word, info word, least significant byte first. -/
def stampBytes (t : Stamp) : Bytes := leBytes 8 t.beat.toNat ++ leBytes 4 t.info.toNat

/-- n bytes from the DRBG (R220, assumption entry 6). -/
def drawBytes (n : Nat) (s : State) : Bytes × State :=
  (leBytes n (Config.drbg s.draws n).toNat, { s with draws := s.draws + 1 })

/-- A free word (assumption entry 6). -/
def drawWord (s : State) : Word × State := (Config.freeWord s.draws, { s with draws := s.draws + 1 })

/-- One CTRL cycle passes (R22, assumption entry 1). -/
def tick (s : State) : State := { s with now := s.now + Config.ctrlCycle }

/-! ## What is running -/

/-- CTRL runs: out of reset, not in Watch or Off, no core fault raised. -/
def ctrlUp (s : State) : Bool :=
  !s.core.ctrlReset && !s.core.fatal && (s.core.power == .full || s.core.power == .control)

/-- In Watch. -/
def inWatch (s : State) : Bool := s.core.power == .watch

/-- An engine is in reset (CORE_STATUS.ENG_RESET). -/
def engInReset (s : State) (e : Engine) : Bool := s.core.engReset.getLsbD (engineNum e)

/-- An engine is held offline (Table 1-6). -/
def engOffline (s : State) (e : Engine) : Bool :=
  match e with
  | .pke => s.core.pkeOffline
  | .dig => s.core.digOffline
  | _ => false

/-- Partition n exists (R359): it is ACTIVE. -/
def partExists (s : State) (n : Part) : Bool := s.part.recs[n].st == .active

/-- Seat n exists (R105). -/
def seatExists (s : State) (n : Seat) : Bool :=
  if h : n.val < 64 then partExists s ⟨n.val, h⟩ else true

/-- The partition of a partition seat. -/
def partOf (n : Seat) : Option Part := if h : n.val < 64 then some ⟨n.val, h⟩ else none

/-- Byte 7 of an event about a seat: its partition, or none. -/
def partByte (n : Seat) : BitVec 8 := if n.val < 64 then BitVec.ofNat 8 n.val else 0xFF

/-! ## Fuses as consumers and as the command path see them (R165) -/

/-- Live reads of an OTP word. -/
def otpLive (s : State) (a : Nat) : Reads := memGet (0, 0) s.otp.array a

/-- Reads of an OTP word at the start sense. -/
def otpSensed (s : State) (a : Nat) : Reads := memGet (0, 0) s.otp.sense a

/-- State of a region. -/
def regionState (s : State) (r : Nat) : RegionState := s.otp.regions[Fin.ofNat 32 r]

/-- Consumers use the content of a region in this state (Table 5-5). -/
def contentUsed : RegionState → Bool
  | .altered | .erased | .erasePartial => false
  | _ => true

/-- The value a consumer takes from a word: as sensed at the start, absent in an altered or erased region (R165,
Table 5-5). -/
def fuse (s : State) (a : Nat) : Word :=
  if contentUsed (regionState s (regionOf a)) then (resolve a (otpSensed s a)).1 else 0

/-- The device serial, word 0x100. -/
def serial (s : State) : Word := fuse s 0x100

/-- Bytes of consecutive fuse words, word by word, least significant byte first. -/
def fuseBytes (s : State) (a n : Nat) : Bytes := ((List.range n).map (fun i => wordBytes (fuse s (a + i)))).flatten

/-- Index of the highest one of a word, plus one, or 0. -/
def topBit (v : Word) : Nat := if v = 0 then 0 else v.toNat.log2 + 1

/-- Value of a thermometer counter from its 32 words (R180). -/
def ctrOf (f : Nat → Word) (c : Nat) : Nat :=
  min 2047 ((List.range 32).foldl
    (fun a i => if topBit (f (0x400 + 0x20 * c + i)) = 0 then a else 64 * i + topBit (f (0x400 + 0x20 * c + i))) 0)

/-- Live value of counter c (R165). -/
def ctrLive (s : State) (c : Nat) : Nat := ctrOf (fun a => dataOf (otpLive s a).1) c

/-- Value of counter c as sensed at the start. -/
def ctrSensed (s : State) (c : Nat) : Nat := ctrOf (fun a => dataOf (otpSensed s a).1) c

/-- GUARD of counter c (R180). -/
def ctrGuard (s : State) (c : Nat) : Bool := (dataOf (otpLive s (0x41F + 0x20 * c)).1).getLsbD 63

/-! ## The fabric initiator (R71 to R74, assumption entry 8) -/

/-- The tag of the next transaction: the first one on that no live or late transaction holds. -/
def freeTag (fi : Initiator) : BitVec 6 :=
  let at' (k : Nat) : BitVec 6 := fi.nextTag + BitVec.ofNat 6 k
  let busy (t : BitVec 6) : Bool := fi.live.any (fun x => x.tag == t)
  match (List.range 64).find? (fun k => !busy (at' k) && !fi.late.contains (at' k)) with
  | some k => at' k
  | none => match (List.range 64).find? (fun k => !busy (at' k)) with
    | some k => at' k
    | none => fi.nextTag

/-- Put a transaction on the port under a tag of its own. -/
def launch (t : Txn) (s : State) : State :=
  let tag := freeTag s.fi
  let t := { t with tag := tag }
  let s := { s with fi := { s.fi with
    live := s.fi.live ++ [t], nextTag := tag + 1, late := s.fi.late.filter (· != tag) } }
  if t.write then emit (.fabricWrite tag t.obo t.addr t.data) s else emit (.fabricRead tag t.obo t.addr t.len) s

/-- Start a transaction, or hold it while 32 are outstanding (R74). -/
def issue (t : Txn) (s : State) : State :=
  if s.fi.live.length < 32 then launch t s else { s with fi := { s.fi with waiting := s.fi.waiting ++ [t] } }

/-- Start the oldest held transaction once there is room. -/
def pump (s : State) : State :=
  match s.fi.waiting with
  | [] => s
  | t :: ts => if s.fi.live.length < 32 then launch t { s with fi := { s.fi with waiting := ts } } else s

/-- Start held transactions, oldest first, while there is room; the list bounds how many. -/
def pumpOver : List Txn → State → State
  | [], s => s
  | _ :: ts, s => pumpOver ts (pump s)

/-- Start every held transaction there is room for. -/
def pumpAll (s : State) : State := pumpOver s.fi.waiting s

/-- Read of a seat's memory for a job, with the seat's stamp (R72). -/
def jobRead (j : Job) (addr : Word) (len : Nat) (s : State) : State :=
  issue { obo := stampOf j.seat, addr := addr, len := len, owner := .job j.id } s

/-- Write of a seat's memory for a job, with the seat's stamp (R72). -/
def jobWrite (j : Job) (addr : Word) (data : Bytes) (s : State) : State :=
  issue { write := true, obo := stampOf j.seat, addr := addr, len := data.length, data := data, owner := .job j.id } s

/-- Drop the transactions of a job that ended; held ones may then start. -/
def dropTxns (id : Nat) (s : State) : State :=
  let mine (t : Txn) : Bool := t.owner == .job id
  pumpAll { s with fi := { s.fi with
    live := s.fi.live.filter (fun t => !mine t), waiting := s.fi.waiting.filter (fun t => !mine t),
    late := s.fi.late ++ (s.fi.live.filter mine).map (·.tag) } }

/-! ## Interrupts (R428 to R433) -/

/-- The mandatory byte of an in-band interrupt (R431). -/
def ibiByte (p : SeatPage) : BitVec 8 := BitVec.ofNat 8 (bit (pagePending p) + 2 * bit (corePending p))

/-- Request an in-band interrupt for seat 66 (R431). -/
def requestIbi (s : State) : State :=
  let s := { s with ibiWaiting := true }
  if s.i3cAddressed then emit (.ibi (ibiByte (s.seat bmc))) s else s

/-- The ring notice of Table 14-6. -/
def ringNoticeBytes (s : State) : Bytes :=
  [0x49#8, 0x01#8] ++ List.replicate 6 0 ++ wordBytes (serial s) ++ leBytes 8 (s.seat peer).irqStatus.toNat
    ++ stampBytes (stampNow s) ++ List.replicate 28 0

/-- Write the ring notice when seat 67 becomes pending, at most once per 2^10 beats (R432). -/
def ringNotice (s : State) : State :=
  let p := s.seat peer
  let recent := match p.lastRing with
    | none => false
    | some b => b ≤ lbeat s && lbeat s - b < 1024
  if p.peerNotify = 0 || recent then s
  else issue { write := true, addr := p.peerNotify, len := 64, data := ringNoticeBytes s, owner := .ringNotice }
    (s.modSeat peer (fun p => { p with lastRing := some (lbeat s) }))

/-- What follows a change of interrupt state: the in-band interrupt of seat 66, the ring notice of seat 67. -/
def noteIrq (before after : State) : State :=
  let s := after
  let s := if !isPending (before.seat bmc) && isPending (after.seat bmc) then requestIbi s else s
  if !isPending (before.seat peer) && isPending (after.seat peer) then ringNotice s else s

/-- Change a seat's page with its interrupt delivery. -/
def modSeatIrq (n : Seat) (f : SeatPage → SeatPage) (s : State) : State := noteIrq s (s.modSeat n f)

/-- Set SEAT_FAULT bits of a seat. -/
def raiseFault (n : Seat) (b : BitVec 6) (s : State) : State := modSeatIrq n (setFault b) s

/-- Set SEAT_IRQ_STATUS bits of a seat. -/
def raiseSeat (n : Seat) (b : BitVec 7) (s : State) : State := modSeatIrq n (setIrq b) s

/-- Set bits in the three CORE banks at once (R426). -/
def setBanks (b : BitVec 19) (s : State) : State :=
  noteIrq s (((s.modSeat host (setCoreIrq b)).modSeat mgmt (setCoreIrq b)).modSeat bmc (setCoreIrq b))

/-- An event of Table 14-2 sets its bit; in Watch it does so after wake (R433). -/
def raiseCore (i : Nat) (s : State) : State :=
  if s.core.ctrlReset || s.core.fatal then s
  else if inWatch s then
    { s with core := { s.core with watchEvents := s.core.watchEvents ++ [{ irq := BitVec.ofNat 19 (2 ^ i) }] } }
  else setBanks (BitVec.ofNat 19 (2 ^ i)) s

/-! ## Event records (R408 to R411) -/

/-- Bytes of an event record (Table 13-5). -/
def eventBytes (e : EventRec) : Bytes :=
  let body := leBytes 4 e.seq.toNat ++ leBytes 2 e.code.toNat ++ [e.seat, e.part] ++ stampBytes e.stamp
    ++ leBytes 2 e.status.toNat ++ leBytes 2 e.opcode.toNat ++ leBytes 8 e.object.toNat ++ padTo 28 e.detail
  body ++ leBytes 4 (crc32c body).toNat

/-- REC writes a record, or counts it lost when full (R411). -/
def writeEvent (e : EventRec) (s : State) : State :=
  if s.recd.recs.length < 4096 then
    let q := nextSeq s.recd.headSeq
    let s := { s with recd := { s.recd with recs := s.recd.recs ++ [{ e with seq := q }], headSeq := q } }
    if s.recd.recs.length = 4096 then raiseCore irqRecFull s else s
  else { s with recd := { s.recd with lost := satInc s.recd.lost } }

/-- Record an event with the stamp of this moment; one that arises in Watch is recorded after wake (R408). -/
def record (e : EventRec) (s : State) : State :=
  let e := { e with stamp := stampNow s }
  if s.core.ctrlReset || s.core.fatal then s
  else if inWatch s then
    { s with core := { s.core with watchEvents := s.core.watchEvents ++ [{ entry := some e }] } }
  else writeEvent e s

/-- A record limited to one per key per 2^10 beats may be made now. -/
def mayRecord (k : LimitKey) (s : State) : Bool :=
  match s.recd.limits.find? (fun e => e.1 == k) with
  | none => true
  | some e => lbeat s < e.2 || 1024 ≤ lbeat s - e.2

/-- Make a record that is limited to one per key per 2^10 beats (R69, R104, R109, R128, R311). -/
def recordLimited (k : LimitKey) (e : EventRec) (s : State) : State :=
  if mayRecord k s then
    record e { s with recd := { s.recd with limits := (k, lbeat s) :: s.recd.limits.filter (fun x => x.1 != k) } }
  else s

/-! ## Heartwood (R414 to R417) -/

/-- Bytes of a heartwood record (Table 13-7). -/
def hwBytes (ix : Nat) (last : Option (Nat × BitVec 512)) (kind : BitVec 16) (lc : BitVec 3) (t : Stamp)
    (start : BitVec 32) (detail : Bytes) : Bytes :=
  let pred := match last with
    | none => 0xFFFF
    | some l => l.1
  let chain := match last with
    | none => List.replicate 16 0
    | some l => (bvBytes (Config.sha3_256 (0x68#8 :: bvBytes l.2))).take 16
  let body := leBytes 2 ix ++ leBytes 2 pred ++ leBytes 2 kind.toNat ++ [lc.zeroExtend 8, 0] ++ stampBytes t
    ++ leBytes 4 start.toNat ++ padTo 20 detail ++ chain
  body ++ leBytes 4 (crc32c body).toNat

/-- Types of the reserved area (R414). -/
def hwReserved (kind : BitVec 16) : Bool := 0x0100 ≤ kind.toNat && kind.toNat ≤ 0x01FF

/-- A map change of this cell is held in AON only (R400). -/
def setVolatile (c : Option Cell) (s : State) : State :=
  match c with
  | none => s
  | some c =>
    let already := (indices 92).any (fun i => s.cells[i].volatileMap)
    let s := s.modCell c (fun x => { x with volatileMap := true })
    if already then s else raiseCore irqHw s

/-- A heartwood condition of event 0x1003; one met before CTRL leaves reset is recorded at the start. -/
def hwCondition (k : Nat) (s : State) : State :=
  let e : EventRec := { code := 0x1003, detail := leBytes 1 k, stamp := stampNow s }
  if s.core.ctrlReset then
    { s with core := { s.core with
      watchEvents := s.core.watchEvents ++ [{ entry := some e, irq := BitVec.ofNat 19 (2 ^ irqHw) }] } }
  else raiseCore irqHw (record e s)

/-- The controller writes one record; read-backs that fail are retried twice, and a third failure sets WRITE_ERR
(R416). True when the record was written. -/
def hwWrite (kind : BitVec 16) (t : Stamp) (detail : Bytes) (cell : Option Cell) (failed : Nat) (s : State) :
    State × Bool :=
  let res := hwReserved kind
  let next := if res then s.recd.resNext else s.recd.genNext
  let cap := if res then 512 else 15872
  if cap ≤ next then (setVolatile cell s, false)
  else if 3 ≤ failed then
    let s := setVolatile cell s
    if s.recd.writeErr then (s, false)
    else (hwCondition 3 { s with recd := { s.recd with writeErr := true } }, false)
  else
    let ix := if res then 15872 + next else next
    let v := bytesBv 512 (hwBytes ix s.recd.last kind s.lc.state t s.recd.start detail)
    let r := { s.recd with heartwood := memSet 0 s.recd.heartwood ix v, last := some (ix, v) }
    let r := if res then { r with resNext := next + 1, resFull := decide (next + 1 = 512) }
      else { r with genNext := next + 1, genFull := decide (next + 1 = 15872) }
    let s := { s with recd := r }
    let s := match cell with
      | some c => s.modCell c (fun x => { x with volatileMap := false })
      | none => s
    (if next + 1 = cap then hwCondition 4 s else s, true)

/-- A record joins the queue of 32; a full queue drops it, and a core fault record takes the head (R416). -/
def hwQueue (kind : BitVec 16) (detail : Bytes) (cell : Option Cell) (s : State) : State :=
  let h : HwRec := { kind := kind, stamp := stampNow s, detail := detail, cell := cell }
  let dropOne (c : Option Cell) (s : State) : State :=
    setVolatile c (hwCondition 5 { s with recd := { s.recd with dropped := satInc s.recd.dropped } })
  if s.recd.queue.length < 32 then
    { s with recd := { s.recd with queue := if kind = 0x0040 then h :: s.recd.queue else s.recd.queue ++ [h] } }
  else if kind = 0x0040 then
    match s.recd.queue.reverse.find? (fun x => x.kind != 0x0040) with
    | none => s
    | some x => dropOne x.cell { s with recd := { s.recd with queue := h :: (s.recd.queue.reverse.erase x).reverse } }
  else dropOne cell s

/-- A record without a cell. -/
def hwNote (kind : BitVec 16) (detail : Bytes) (s : State) : State := hwQueue kind detail none s

/-! ## Core fault (R43) -/

/-- A core fault: engines stop, fatal is driven with its cause, which the chip latches (R100), and a heartwood record
goes to the head of the queue. -/
def coreFault (cause : Nat) (s : State) : State :=
  if s.core.fatal then s
  else
    let s := hwNote 0x0040 (leBytes 1 cause) s
    { s with core := { s.core with fatal := true, fatalCause := BitVec.ofNat 8 cause }, jobs := [],
             pins := { s.pins with causeLatched := BitVec.ofNat 8 cause, causeLatchedValid := true },
             fi := { s.fi with live := [], waiting := [], late := s.fi.late ++ s.fi.live.map (·.tag) } }

/-! ## Jobs (R110 to R121) -/

/-- A started job by its identity. -/
def State.job? (s : State) (id : Nat) : Option Job := s.jobs.find? (fun j => j.id == id)

/-- Put back a changed job. -/
def setJob (j : Job) (s : State) : State := { s with jobs := s.jobs.map (fun x => if x.id = j.id then j else x) }

/-- Take a job out, with its transactions. -/
def removeJob (id : Nat) (s : State) : State := dropTxns id { s with jobs := s.jobs.filter (fun j => j.id != id) }

/-- Post a result: words first, header last, then SEAT_DONE and DONE[c] (R121). -/
def postEntry (n : Seat) (c : QClass) (e : EntryIx) (st : Status) (ws : Words) (s : State) : State :=
  modSeatIrq n (fun p => setIrq (irqDone c) (setFault (faultOf st)
    { p with entries := vmod p.entries (entryIx c e) (fun x => { x with st := .done, status := st, words := ws }) })) s

/-- Zeroize and free a key slot; every free or zeroization raises the generation (R230). -/
def freeSlot (k : KeySlot) : KeySlot := { gen := if k.doomed then k.gen else k.gen + 1 }

/-- Slots freed while in use are zeroized once no started job uses them (R233). -/
def settleSlots (s : State) : State :=
  let busy (i : Nat) : Bool := s.jobs.any (fun j => j.slots.contains i)
  { s with keys := { s.keys with
    slots := s.keys.slots.mapFinIdx (fun i k _ => if k.doomed && !busy i then freeSlot k else k) } }

/-- A curve slot being cleared is empty once no started job uses it, and its job decides ST_OK (R296). -/
def settleCurves (s : State) : State :=
  (indices 8).foldl (fun s i =>
    let c := s.pke.curves[i]
    let busy := s.jobs.any (fun j => j.curve == some i && some j.id != c.clearJob)
    if c.st = .clearing && !busy then
      let s := { s with pke := { s.pke with curves := vset s.pke.curves i {} } }
      match c.clearJob with
      | some id =>
        let keep := s.jobs.filter (fun j => !(j.id == id && j.detached))
        { s with jobs := keep.map (fun j => if j.id = id then { j with stage := .ready .ok noWords } else j) }
      | none => s
    else if c.st = .checking && !s.jobs.any (fun j => j.op == .pkeCurveLoad && j.curve == some i) then
      { s with pke := { s.pke with curves := vset s.pke.curves i {} } }
    else s) s

/-- A job holds a PKE block: a part of it runs or ran there and its outcome is not decided. -/
def holdsBlock (s : State) (id : Nat) (b : Fin 6) : Bool :=
  s.jobs.any (fun j => j.id == id
    && (j.bn == .running b || j.bn == .finished b || j.lt == .running b || j.lt == .finished b)
    && (match j.stage with | .ready _ _ => false | _ => true))

/-- Offset and size of a block's memory in the operand window (Table 9-21). -/
def blockMemory (b : Fin 6) : Nat × Nat :=
  if b.val < 4 then (0x10000 * b.val, 0x10000) else (0x40000 + 0x20000 * (b.val - 4), 0x20000)

/-- A PKE block whose job ended is zeroized and becomes idle (R288). -/
def settleBlocks (s : State) : State :=
  (indices 6).foldl (fun s b =>
    match s.pke.blocks[b] with
    | none => s
    | some id =>
      if holdsBlock s id b then s
      else { s with orders := s.orders + 1,
                    pke := { s.pke with blocks := vset s.pke.blocks b none,
                                        window := memErase s.pke.window (blockMemory b).1 (blockMemory b).2,
                                        idleSince := vset s.pke.idleSince b (s.orders + 1) } }) s

/-- What waits for the end of a job. -/
def settle (s : State) : State := settleBlocks (settleCurves (settleSlots s))

/-- A job ends here and now with a status and result words. A detached job posts nothing (R124). -/
def finishJob (j : Job) (st : Status) (ws : Words) (s : State) : State :=
  let s := removeJob j.id s
  settle (if j.detached then s else postEntry j.seat j.cls j.ix st ws s)

/-- A job's outcome is decided; JOB_COMPLETE posts it (assumption entry 4). -/
def decideJob (j : Job) (st : Status) (ws : Words) (s : State) : State :=
  settle (if j.detached then removeJob j.id s else dropTxns j.id (setJob { j with stage := .ready st ws } s))

/-- Decide with no result words. -/
def failJob (j : Job) (st : Status) (s : State) : State := decideJob j st noWords s

/-- A check refuses the job; a refusal with ST_STATE is recorded (R109). -/
def refuseJob (j : Job) (st : Status) (s : State) : State :=
  let s := if st = .state then
      recordLimited (.refused j.seat (opcodeOf j.op))
        { code := 0x0701, seat := stampOf j.seat, part := partByte j.seat, status := statusCode st,
          opcode := opcodeOf j.op } s
    else s
  failJob j st s

/-- The job reads its buffer next; the data comes with INITIATOR_RESPONSE. -/
def fetchJob (j : Job) (addr : Word) (len : Nat) (s : State) : State :=
  jobRead j addr len (setJob { j with stage := .fetch } s)

/-- The job writes its output next and then ends with this outcome. -/
def storeJob (j : Job) (addr : Word) (data : Bytes) (st : Status) (ws : Words) (s : State) : State :=
  jobWrite j addr data (setJob { j with stage := .store st ws } s)

/-- Order of Table "check order": the first failed check gives the status. -/
def firstFail : List (Bool × Status) → Option Status
  | [] => none
  | (ok, st) :: cs => if ok then firstFail cs else some st

/-! ## Arbitration (R114) -/

/-- Weight of a seat in a class. -/
def weightOf (s : State) (n : Seat) (c : QClass) : Nat := (s.seat n).weights[Fin.ofNat 4 (classNum c)]

/-- The queue class an engine serves. -/
def engineClass : Engine → QClass
  | .pke => .pke | .dig => .dig | .ing => .ing | _ => .ctrl

/-- The oldest queued job of a seat for an engine. -/
def oldestQueued (p : SeatPage) (e : Engine) : Option (Fin 32) :=
  (indices 32).foldl (fun b i =>
    let x := p.entries[i]
    if x.st = .queued && engineOf x.op = e then
      match b with
      | none => some i
      | some k => if x.order < p.entries[k].order then some i else some k
    else b) none

/-- Weighted round-robin: stay at the seat while it has work and starts left, else go to the next seat with work. -/
def arbPick (a : Arb) (weight : Seat → Nat) (has : Seat → Bool) : Option (Seat × Arb) :=
  if has a.ptr && a.used < weight a.ptr then some (a.ptr, { a with used := a.used + 1 })
  else
    match (List.range 68).map (fun k => seatNo ((a.ptr.val + 1 + k) % 68)) |>.find? has with
    | some n => some (n, { ptr := n, used := 1 })
    | none => none

/-- An engine may start jobs: after START_DONE, out of reset, with CTRL running (R113). -/
def mayStart (s : State) (e : Engine) : Bool := ctrlUp s && s.core.startDone && !engInReset s e

/-- The seat whose turn it is at an engine, with the arbiter afterwards. -/
def arbTurn (s : State) (e : Engine) (has : Seat → Bool) : Option (Seat × Arb) :=
  arbPick s.arbs[engineIx e] (fun n => weightOf s n (engineClass e)) has

/-- Start a queued entry: the job leaves its queue. -/
def startEntry (n : Seat) (i : Fin 32) (s : State) : Job × State :=
  let x := (s.seat n).entries[i]
  let j : Job := { id := s.nextJob, seat := n, cls := classOf x.op, ix := Fin.ofNat 8 i.val, op := x.op, tag := x.tag,
                   args := x.args, fifoMark := x.fifoMark }
  let s := s.modSeat n (fun p => { p with entries := vmod p.entries i (fun x => { x with st := .started j.id }) })
  (j, { s with jobs := s.jobs ++ [j], nextJob := s.nextJob + 1 })

/-- The job of this operation that its engine starts next, if the engine's next waiting job is one (R114). -/
def startNext (o : Op) (ready : Bool) (s : State) : Option (Job × State) :=
  let e := engineOf o
  if mayStart s e && ready then
    match arbTurn s e (fun n => (oldestQueued (s.seat n) e).isSome) with
    | none => none
    | some (n, a) =>
      match oldestQueued (s.seat n) e with
      | none => none
      | some i =>
        if (s.seat n).entries[i].op = o then some (startEntry n i { s with arbs := vset s.arbs (engineIx e) a })
        else none
  else none

/-- Run a job-start row: start the job and hand it to its meaning; with no such job next, nothing happens. -/
def runJob (o : Op) (ready : Bool) (go : Job → State → State) (s : State) : State :=
  match startNext o ready s with
  | none => s
  | some (j, s') => go j s'

/-! ## Roles (R196 to R202) -/

/-- The authorisation record of one of seats 64 to 66. -/
def authOf (s : State) (n : Seat) : Auth := if isHmb n then s.lc.auth[Fin.ofNat 3 (n.val - 64)] else {}

/-- The role held on a seat now: none once its lapse beat has come (R199). -/
def roleOf (s : State) (n : Seat) : Role :=
  let h := (authOf s n).held
  if h.role ≠ .none && lbeat s < h.lapse.toNat then h.role else .none

/-- Life-cycle state codes (Table 6-1). -/
def lcBlank : BitVec 3 := 0
def lcTest : BitVec 3 := 1
def lcIntegration : BitVec 3 := 2
def lcFielded : BitVec 3 := 3
def lcReturned : BitVec 3 := 4
def lcScrapped : BitVec 3 := 5

/-- "An installer or operator credential": the operator rights of Table 6-8 held on the seat (R202). -/
def operatorRight (s : State) (n : Seat) : Bool :=
  match roleOf s n with
  | .installer | .operator => true
  | .maker => s.lc.state == lcTest || s.lc.state == lcReturned
  | _ => false

/-- KEYS zeroizes the model key entries of a partition (R339). -/
def zeroModelKeys (n : Part) (s : State) : State := { s with keys := { s.keys with models := vset s.keys.models n [] } }

/-- KEYS zeroizes every model key entry. -/
def zeroAllModelKeys (s : State) : State := { s with keys := { s.keys with models := Vector.replicate 64 [] } }

/-- G[n] advances (R337); every advance but that of a completed load zeroizes the entries of n (R339). -/
def advanceG (n : Part) (s : State) : State := zeroModelKeys n (s.modPart n (fun r => { r with g := r.g + 1 }))

/-- G[n] of every existing partition advances. -/
def advanceAllG (s : State) : State :=
  (indices 64).foldl (fun s n => if partExists s n then advanceG n s else s) s

/-- A load of n is complete: G[n] advances and every entry of n moves forward with it (R337, R339). -/
def carryG (n : Part) (s : State) : State :=
  let s := s.modPart n (fun r => { r with g := r.g + 1 })
  let g := s.part.recs[n].g
  { s with keys := { s.keys with models := vmod s.keys.models n (fun es => es.map (fun e => { e with gen := g })) } }

end Sys2Proof.Machine
end

