-- ==== Sys2Proof/Machine/Cells.lean ====
section
/-! DEFINITION. Cells: numbering (Table 13-2), the cell arbiter (R24), retirement (R27) and the healthy counts that
the engines' figures rest on (R30). -/

namespace Sys2Proof.Machine

/-- Cells with numbers from lo, n of them. -/
def cellRange (lo n : Nat) : List Cell := (indices 92).filter (fun c => lo ≤ c.val && c.val < lo + n)

/-- Cells of PKE block b: 8 slices of BN0 to BN3, 4 NTT units of LT0 and LT1 (Table 13-2). -/
def blockCells (b : Fin 6) : List Cell :=
  if b.val < 4 then cellRange (8 * b.val) 8 else cellRange (32 + 4 * (b.val - 4)) 4

/-- Cell of DIG pipeline p. -/
def pipeCell (p : Fin 4) : Cell := Fin.ofNat 92 (40 + p.val)
/-- The AES-GCM lanes. -/
def aesCells : List Cell := cellRange 44 16
/-- The Keccak lanes. -/
def keccakCells : List Cell := cellRange 60 24
/-- The sense groups. -/
def senseCells : List Cell := cellRange 84 8

/-- The engine a cell belongs to (Table 1-2). -/
def cellEngine (c : Cell) : Engine :=
  if c.val < 40 then .pke else if c.val < 44 then .dig else if c.val < 84 then .ing else .otp

/-- The cells of an engine. -/
def engineCells (e : Engine) : List Cell := (indices 92).filter (fun c => cellEngine c = e)

/-- Not retired. -/
def healthy (s : State) (c : Cell) : Bool := !s.cells[c].retired

/-- How many of some cells are healthy. -/
def healthyCount (s : State) (cs : List Cell) : Nat := (cs.filter (healthy s)).length

/-- May take a unit now: healthy, idle, no test due and no re-test running (R24, R29). -/
def cellFree (s : State) (c : Cell) : Bool :=
  let x := s.cells[c]
  !x.retired && x.work.isNone && !x.testDue && x.retest.isNone

/-- The one of some free cells that has been idle longest, the lowest-numbered of equals (R24). -/
def longestIdle (s : State) (cs : List Cell) : Option Cell :=
  cs.foldl (fun b c =>
    if cellFree s c then
      match b with
      | none => some c
      | some d => if s.cells[c].idleSince < s.cells[d].idleSince then some c else some d
    else b) none

/-- The cells that can do a unit's kind of work. -/
def unitCells : UnitOwner → List Cell
  | .pke _ b => blockCells b
  | .digJob _ | .digDrain _ => cellRange 40 4
  | .chunk _ _ | .chunkAgain _ _ _ => aesCells
  | .leaf _ _ | .sweepLeaf => keccakCells
  | .otpRead _ => senseCells

/-- Where the cell arbiter sends a unit (R26): none of the kind healthy, a cell, or it must wait. -/
inductive Placing where
  | noneLeft
  | onCell (c : Cell)
  | wait
  deriving DecidableEq, Repr

/-- The cells a unit may not take: those it was tried on, and for a second look at a chunk the first lane (R341). -/
def unitExclude (u : CellUnit) : List Cell :=
  match u.owner with
  | .chunkAgain _ _ c => c :: u.tried
  | _ => u.tried

/-- Choose the cell of a unit (R24, R26): one not yet tried, or when all healthy cells were tried the most recently
tried of them. -/
def placeUnit (s : State) (u : CellUnit) : Placing :=
  let cs := (unitCells u.owner).filter (healthy s)
  let fresh := cs.filter (fun c => !(unitExclude u).contains c)
  if fresh.isEmpty then
    match (unitExclude u).reverse.find? (fun c => cs.contains c) with
    | none => if cs.isEmpty then .noneLeft else .wait
    | some c => if cellFree s c then .onCell c else .wait
  else
    match longestIdle s fresh with
    | some c => .onCell c
    | none => .wait

/-- Give a unit to a cell. -/
def giveUnit (c : Cell) (u : CellUnit) (s : State) : State := s.modCell c (fun x => { x with work := some u })

/-- Hand out a unit, or let it wait. A kind with no healthy cell is for the caller, who fails the work. -/
def submitUnit (u : CellUnit) (s : State) : State :=
  match placeUnit s u with
  | .onCell c => giveUnit c u s
  | _ => { s with units := s.units ++ [u] }

/-- Hand out waiting units, oldest first, to cells that have come free. -/
def placeWaiting (s : State) : State :=
  s.units.foldl (fun s u =>
    match placeUnit s u with
    | .onCell c => giveUnit c u s
    | _ => { s with units := s.units ++ [u] }) { s with units := [] }

/-- A cell becomes idle now (R24). -/
def idleCell (c : Cell) (s : State) : State :=
  { s.modCell c (fun x => { x with work := none, idleSince := s.orders + 1 }) with orders := s.orders + 1 }

/-- Retire a cell (R27, R28): the map bit at once, event record 0x0201, the heartwood record, the RETIRED source.
Causes: 1 three failures, 2 test at start, 3 test after an error, 4 test in an engine reset. -/
def retireCell (c : Cell) (cause : Nat) (s : State) : State :=
  if s.cells[c].retired then s
  else
    let s := s.modCell c (fun x => { x with retired := true, testDue := false })
    let s := record { code := 0x0201, object := word c.val, detail := leBytes 1 cause } s
    raiseCore irqRetired (hwQueue 0x0010 (leBytes 1 c.val ++ leBytes 1 cause) (some c) s)

/-- Retire several cells for one cause. -/
def retireCells (cs : List Cell) (cause : Nat) (s : State) : State := cs.foldl (fun s c => retireCell c cause s) s

/-- Units and cell work of one owner dropped; the cells become idle. -/
def dropUnits (mine : UnitOwner → Bool) (s : State) : State :=
  let s := { s with units := s.units.filter (fun u => !mine u.owner) }
  (indices 92).foldl (fun s c =>
    match s.cells[c].work with
    | some u => if mine u.owner then idleCell c s else s
    | none => s) s

/-- An owner that is a unit of this job. -/
def ownerJob (id : Nat) : UnitOwner → Bool
  | .pke j _ | .digJob j | .chunk j _ | .chunkAgain j _ _ | .leaf j _ | .otpRead j => j == id
  | .digDrain _ | .sweepLeaf => false

/-- After the tests of an engine's cells in its reset (R32): no test is due, none works, all equally long idle (R24). -/
def freshCells (e : Engine) (s : State) : State :=
  (engineCells e).foldl (fun s c => s.modCell c (fun x => { x with testDue := false, work := none, idleSince := 0 })) s

/-- The map as a number: bit i for cell i (R398). -/
def mapBits (s : State) : Nat := (indices 92).foldl (fun a c => if s.cells[c].retired then a + 2 ^ c.val else a) 0

/-- SHA3-384 over 0x52 and the 12 map bytes (R398). -/
def mapDigest (s : State) : BitVec 384 := Config.sha3_384 (0x52#8 :: leBytes 12 (mapBits s))

/-- CORE_STATUS.RETIRED_ANY (R398). -/
def retiredAny (s : State) : Bool := mapBits s != 0

/-- PKE is out of service (R55): offline, without a cell of a kind, or without microcode. -/
def pkeOut (s : State) : Bool :=
  s.core.pkeOffline || !s.boot.mcLoaded || healthyCount s (cellRange 0 32) == 0 || healthyCount s (cellRange 32 8) == 0

/-- DIG is out of service (R55). -/
def digOut (s : State) : Bool := s.core.digOffline || !s.boot.mcLoaded || healthyCount s (cellRange 40 4) == 0

/-- The ingest ceiling of R30 in units of 0.1 GB/s. -/
def ingestCeiling (s : State) : Nat :=
  min 5120 (min (336 * healthyCount s aesCells) (238 * healthyCount s keccakCells))

end Sys2Proof.Machine
end

