-- ==== Sys2Proof/Machine/Otp.lean ====
section
/-! DEFINITION. The OTP Controller (chapter 05): region states, the start sense, burns pulse by pulse, and the
checks of the OTP commands. -/

namespace Sys2Proof.Machine

/-! ## Regions (R169 to R171) -/

/-- Regions that are never locked. -/
def isMonotone (r : Nat) : Bool := r == 0 || r == 1 || (8 ≤ r && r ≤ 13)

/-- The region digest of R169 over resolved data. -/
def regionDigest (f : Nat → Reads) (r : Nat) : BitVec 256 :=
  Config.sha3_256 ([0x4F#8, BitVec.ofNat 8 r] ++
    ((List.range 128).map (fun i => wordBytes (resolve (0x80 * r + i) (f (0x80 * r + i))).1)).flatten)

/-- The 24 bytes of the three digest words of a region. -/
def storedDigest (f : Nat → Reads) (r : Nat) : Bytes :=
  ((List.range 3).map (fun i => wordBytes (resolve (0x81 + 4 * r + i) (f (0x81 + 4 * r + i))).1)).flatten

/-- The digest words read zero at both margins. -/
def digestBlank (f : Nat → Reads) (r : Nat) : Bool :=
  (List.range 3).all (fun i => dataOf (f (0x81 + 4 * r + i)).1 == 0 && dataOf (f (0x81 + 4 * r + i)).2 == 0)

/-- Some digest word is unresolvable. -/
def digestBad (f : Nat → Reads) (r : Nat) : Bool :=
  (List.range 3).any (fun i => (resolve (0x81 + 4 * r + i) (f (0x81 + 4 * r + i))).2)

/-- The lock word of a region, resolved (Table 5-4). -/
def lockWord (f : Nat → Reads) (r : Nat) : Word := dataOf (f (0x80 + 4 * r)).1

/-- The state of a region from its reads (R171). WLOCK with DMODE is bit mode. -/
def judgeRegion (f : Nat → Reads) (r : Nat) : RegionState :=
  let w := lockWord f r
  let wl := anyBit w 0 8
  let rl := anyBit w 8 8
  let dm := anyBit w 16 8
  if isMonotone r then .monotone
  else if (r = 6 ∨ r = 7) ∧ allOnes (f (0x80 * r)) = true then
    (if (List.range 128).all (fun i => allOnes (f (0x80 * r + i))) then .erased else .erasePartial)
  else if !(wl || rl || dm) then (if digestBlank f r then .opened else .pendingLock)
  else if digestBlank f r || digestBad f r then .sealedIncomplete
  else if (bvBytes (regionDigest f r)).take 24 ≠ storedDigest f r then .altered
  else if rl then .wlockRlock
  else if wl then .wlock
  else .digestLocked

/-- State code (Table 5-5); a register not yet set by the sense reads 0. -/
def RegionState.code : RegionState → Nat
  | .unset => 0 | .opened => 0 | .wlock => 1 | .pendingLock => 2 | .wlockRlock => 3 | .digestLocked => 4
  | .sealedIncomplete => 8 | .altered => 9 | .erased => 10 | .erasePartial => 11 | .monotone => 14

/-- Digest mode is required for a region (Table 5-2): the configuration record may name the mode of 5 and 16 to 29. -/
def digestMode (s : State) (r : Nat) : Bool :=
  if r = 3 then true
  else if r = 5 ∨ (16 ≤ r ∧ r ≤ 29) then
    (if s.boot.cfg.modeNamed.getLsbD r then s.boot.cfg.modeDigest.getLsbD r else true)
  else false

/-- Array inhibits by the live lock word at the low margin (R170). -/
def writeInhibit (s : State) (r : Nat) : Bool :=
  let w := lockWord (otpLive s) r
  !isMonotone r && (anyBit w 0 8 || anyBit w 8 8)
def readInhibit (s : State) (r : Nat) : Bool := !isMonotone r && anyBit (lockWord (otpLive s) r) 8 8

/-! ## Burns (R175, R176) -/

/-- A voltage lies in the programming window in force (R176). -/
def vppOk (s : State) (mv : BitVec 16) : Bool :=
  decide (s.boot.cfg.vppLow.toNat ≤ mv.toNat) && decide (mv.toNat ≤ s.boot.cfg.vppHigh.toNat)

/-- The bit groups of a word in burning order (R175), or single bits in ascending order (R190). -/
def groupMasks (addr : Nat) (single : Bool) : List OtpWord :=
  if single then (List.range 64).map (fun i => BitVec.ofNat 72 (2 ^ i))
  else (List.range 4).map (fun g => BitVec.ofNat 72 (0xFFFF * 2 ^ (16 * g)))
    ++ (if wordClass addr = .e then [BitVec.ofNat 72 (0xFF * 2 ^ 64)] else [])

/-- Wanted bits of a word that do not read one at the high margin. -/
def bitsLeft (s : State) (w : WordBurn) : OtpWord := w.want &&& ~~~(otpLive s w.addr).2

/-- The first group from g on with bits left. -/
def nextGroup (s : State) (w : WordBurn) (single : Bool) (g : Nat) : Option Nat :=
  ((groupMasks w.addr single).zipIdx.find? (fun e => g ≤ e.2 && e.1 &&& bitsLeft s w != 0)).map (·.2)

/-- A bit that was not asked for reads one at the high margin. -/
def strayBit (s : State) (w : WordBurn) (before : OtpWord) : Bool :=
  (otpLive s w.addr).2 &&& ~~~(w.want ||| before) != 0

/-- How a burn ended: whose it was, the status, the bits not burned of its first unfinished word, the most pulses a
group took. -/
structure BurnEnd where
  owner : BurnOwner
  status : Status
  left : OtpWord := 0
  most : Nat := 0
  deriving DecidableEq, Repr

/-- Move to the next word with bits to burn. -/
def nextWord (s : State) (b : Burn) : List WordBurn → Burn
  | [] => { b with todo := [], group := 0, pulses := 0 }
  | w :: ws =>
    match nextGroup s w b.single 0 with
    | some g => { b with todo := w :: ws, group := g, pulses := 0,
                         before := (otpLive s w.addr).1 ||| (otpLive s w.addr).2 }
    | none => nextWord s b ws

/-- The path falls idle with this outcome. -/
def endBurn (b : Burn) (st : Status) (s : State) : State × Option BurnEnd :=
  let left := match b.todo with
    | [] => 0
    | w :: _ => bitsLeft s w
  ({ s with otp := { s.otp with run := none } }, some { owner := b.owner, status := st, left := left, most := b.mostPulses })

/-- Put a burn on the path: it ends at once when no sense group can read the word (R26), no bit is left or the supply is
out of its window (R176). -/
def beginBurn (b : Burn) (s : State) : State × Option BurnEnd :=
  let b := nextWord s b b.todo
  if healthyCount s senseCells = 0 then endBurn b .retired s
  else if b.todo.isEmpty then endBurn b .ok s
  else if !vppOk s s.core.vpp then endBurn b .otpSupply s
  else ({ s with otp := { s.otp with run := some b } }, none)

/-- A pulse ends and the word is read at both margins (R175): the array keeps every bit that read one. -/
def pulseWord (addr : Nat) (p : Pulse) (s : State) : State :=
  let old := otpLive s addr
  let r : Reads := (old.1 ||| p.lo ||| p.hi, old.2 ||| p.hi)
  { s with otp := { s.otp with array := memSet (0, 0) s.otp.array addr r } }

/-- What follows a pulse of the burn on the path: another pulse, the next group or word, or the end. A bit not asked
for fails the word once its groups are done (R175). -/
def afterPulse (p : Pulse) (s : State) : State × Option BurnEnd :=
  match s.otp.run with
  | none => (s, none)
  | some b =>
    match b.todo with
    | [] => endBurn b .ok s
    | w :: ws =>
      let s := pulseWord w.addr p s
      let k := b.pulses + 1
      let b := { b with pulses := k, mostPulses := max b.mostPulses k }
      if b.stopped then ({ s with otp := { s.otp with run := none } }, none)
      else
        let mask := (groupMasks w.addr b.single).getD b.group 0
        let again := mask &&& bitsLeft s w != 0
        let wordDone := !again && (nextGroup s w b.single (b.group + 1)).isNone
        if (again && 8 ≤ k) || (wordDone && strayBit s w b.before) then
          endBurn b (if b.supplyBad then .otpSupply else .otpVerify) s
        else
          let b' := if again then b else
            match nextGroup s w b.single (b.group + 1) with
            | some g => { b with group := g, pulses := 0 }
            | none => nextWord s b ws
          if b.supplyBad then endBurn b' .otpSupply s
          else if b'.todo.isEmpty then endBurn b' .ok s
          else if !vppOk s p.vpp then endBurn b' .otpSupply s
          else ({ s with otp := { s.otp with run := some b' } }, none)

/-- A burn made by the start sequence, with the reads its pulses meet (R194, R256). A list that ends early leaves the
burn as a power loss would; the owner sees ST_OTP_SUPPLY. -/
def inlineBurn : State → List Pulse → State × List Pulse × Status
  | s, [] => ({ s with otp := { s.otp with run := none } }, [], .otpSupply)
  | s, p :: ps =>
    match afterPulse p s with
    | (s, some e) => (s, ps, e.status)
    | (s, none) => if s.otp.run.isNone then (s, ps, .otpSupply) else inlineBurn s ps

/-- Run a burn to its end inside the start sequence. -/
def burnNow (todo : List WordBurn) (single : Bool) (ps : List Pulse) (s : State) : State × List Pulse × Status :=
  match beginBurn { owner := .start, todo := todo, single := single } s with
  | (s, some e) => (s, ps, e.status)
  | (s, none) => inlineBurn s ps

/-- A sample out of the window during a command (R176). -/
def supplyLost (s : State) : State :=
  { s with otp := { s.otp with run := s.otp.run.map (fun b => { b with supplyBad := true }) } }

/-- The burns that raise counter c from its value to a target (R181). -/
def counterBurn (s : State) (c target : Nat) : List WordBurn :=
  let v := ctrLive s c
  ((List.range 32).map (fun i =>
    { addr := 0x400 + 0x20 * c + i,
      want := BitVec.ofNat 72 ((List.range 64).foldl
        (fun a k => if v ≤ 64 * i + k ∧ 64 * i + k < target then a + 2 ^ k else a) 0) : WordBurn })).filter
    (fun w => w.want != 0)

/-- The OTP_READ job whose word is being read. -/
def otpReading (s : State) : Option Job := s.jobs.find? (fun j => j.op == .otpRead && j.stage == .engine)

/-- The path takes no new job while a burn runs or waits or a word is being read (R177). -/
def otpFree (s : State) : Bool := s.otp.run.isNone && s.otp.queue.isEmpty && (otpReading s).isNone

/-- A burn joins the path's queue. -/
def queueBurn (b : Burn) (s : State) : State := { s with otp := { s.otp with queue := s.otp.queue ++ [b] } }

/-- A burn of a seat's OTP job. -/
def jobBurn (j : Job) (todo : List WordBurn) (s : State) : State :=
  queueBurn { owner := .job j.id, opcode := opcodeOf j.op, seat := stampOf j.seat, todo := todo } s

/-! ## OTP commands (R173, R174) -/

/-- An OTP job's outcome, shown in OTP_STATUS.LAST_STATUS. -/
def otpDecide (j : Job) (st : Status) (ws : Words) (s : State) : State :=
  decideJob j st ws { s with otp := { s.otp with lastStatus := statusCode st } }

/-- An OTP job is refused by a check. -/
def otpRefuse (j : Job) (st : Status) (s : State) : State :=
  refuseJob j st { s with otp := { s.otp with lastStatus := statusCode st } }

/-- Regions the maker programs and locks (R161, Table 5-2). -/
def makerRegion (r : Nat) : Bool := r == 1 || r == 2 || r == 3 || r == 14 || r == 15 || r == 30 || r == 31
/-- Regions the installer programs and locks. -/
def installerRegion (r : Nat) : Bool := r == 5 || r == 6 || r == 7 || (16 ≤ r && r ≤ 29)

/-- The matching 8 bytes of a claimant's anchor digest for a word of slot 0 (R201). -/
def claimValue (s : State) (n : Seat) (addr : Nat) : Word :=
  word (getLe (bvBytes (authOf s n).held.anchor) (8 * (addr - 0x280)) 8)

/-- The seat's role may program a region: maker or installer (Table 6-8). -/
def roleForRegion (s : State) (n : Seat) (r : Nat) : Bool :=
  match roleOf s n with
  | .maker => makerRegion r
  | .installer => installerRegion r
  | _ => false

/-- The role may program this word with this data; a claimant only its own digest into slot 0 (R201). -/
def mayProgram (s : State) (n : Seat) (addr : Nat) (data : Word) : Bool :=
  match roleOf s n with
  | .claimant => decide (0x280 ≤ addr) && decide (addr ≤ 0x285) && data == claimValue s n addr
  | _ => roleForRegion s n (regionOf addr)

/-- The life-cycle state admits programming a region (Table 5-2). -/
def lcForRegion (s : State) (r : Nat) : Bool :=
  let lc := s.lc.state
  if makerRegion r then lc == lcTest
  else if r = 5 then lc == lcIntegration
  else lc == lcIntegration || lc == lcFielded

/-- OTP_READ starts: its word is read at the low margin first, a unit of work of a sense group (R162, Table 1-4). -/
def startOtpRead (j : Job) (s : State) : State :=
  let reg := regionOf (j.f 0 0 12)
  let st := regionState s reg
  match firstFail [
    (isHmb j.seat, .denied),
    (zeroFrom (j.w 0) 12, .badArgument),
    (reg ≠ 4 && st != .wlockRlock && st != .altered && st != .erased && st != .erasePartial && !readInhibit s reg,
      .locked),
    (healthyCount s senseCells != 0, .retired)] with
  | some st => otpRefuse j st s
  | none => submitUnit { owner := .otpRead j.id } s

/-- OTP_READ has both margins: its result words (Table 5-6). -/
def endOtpRead (j : Job) (s : State) : State :=
  let a := j.f 0 0 12
  let r := otpLive s a
  let v := resolve a r
  let m := marginal a r
  let w4 := bit v.2 * 2 ^ 19 + (wordClass a).code * 2 ^ 17 + bit m * 2 ^ 16 + (checkOf r.1).toNat * 2 ^ 8
    + (checkOf r.2).toNat
  otpDecide j (if m || v.2 then .otpMarginal else .ok) (wordsOf [v.1, dataOf r.1, dataOf r.2, word w4]) s

/-- A sense group has read the word at one margin: the high margin follows the low one. -/
def marginRead (id : Nat) (s : State) : State :=
  match s.job? id with
  | none => s
  | some j => if j.num = 0 then submitUnit { owner := .otpRead id } (setJob { j with num := 1 } s) else endOtpRead j s

/-- No sense group could read the word (R26). -/
def readFailed (id : Nat) (st : Status) (s : State) : State :=
  match s.job? id with
  | none => s
  | some j => otpDecide j st noWords s

/-- Bits to burn for an OTP_PROGRAM: the codeword of the value, or the bits to add. -/
def programWant (addr : Nat) (data : Word) : OtpWord :=
  if wordClass addr = .e then codeword data else data.zeroExtend 72

/-- R159: no bit reading one at the low margin lies outside the codeword. -/
def fitsCodeword (s : State) (addr : Nat) (data : Word) : Bool :=
  wordClass addr ≠ .e || (otpLive s addr).1 &&& ~~~(codeword data) == 0

/-- The region of a word takes programming now: OPEN and not inhibited, or region 1 for the maker (R161, R170). -/
def programmable (s : State) (r : Nat) : Bool := r == 1 || (regionState s r == .opened && !writeInhibit s r)

/-- OTP_PROGRAM starts. -/
def startOtpProgram (j : Job) (s : State) : State :=
  let a := j.f 0 0 12
  let r := regionOf a
  match firstFail [
    (isHmb j.seat, .denied),
    (zeroFrom (j.w 0) 12, .badArgument),
    (mayProgram s j.seat a (j.w 1), .denied),
    (lcForRegion s r, .state),
    (programmable s r, .locked),
    (fitsCodeword s a (j.w 1), .locked)] with
  | some st => otpRefuse j st s
  | none => jobBurn j [{ addr := a, want := programWant a (j.w 1) }] s

/-- The live state of one region is taken anew. -/
def refreshRegion (r : Nat) (s : State) : State :=
  { s with otp := { s.otp with regions := vset s.otp.regions (Fin.ofNat 32 r) (judgeRegion (otpLive s) r) } }

/-- The regions whose state a word of the array decides: its own and, for a lock or digest word, the one it locks. -/
def refreshWord (a : Nat) (s : State) : State :=
  let s := refreshRegion (regionOf a) s
  if 0x80 ≤ a ∧ a < 0x100 then refreshRegion ((a - 0x80) / 4) s else s

/-- OTP_PROGRAM ends (Table 5-6); Limcy keeps the region states live (R171). -/
def endOtpProgram (j : Job) (e : BurnEnd) (s : State) : State :=
  let a := j.f 0 0 12
  let s := refreshWord a s
  otpDecide j e.status (wordsOf [(resolve a (otpLive s a)).1, dataOf e.left,
    word (e.most * 2 ^ 8 + (checkOf e.left).toNat)]) s

/-- The 32 bytes of W1 to W4. -/
def Job.digestArg (j : Job) : Bytes := wordBytes (j.w 1) ++ wordBytes (j.w 2) ++ wordBytes (j.w 3) ++ wordBytes (j.w 4)

/-- OTP_LOCK is malformed for its region (R172 step 1). -/
def lockArgOk (s : State) (r : Nat) (mode rlock : Bool) : Bool :=
  !isMonotone r && mode == digestMode s r && !(rlock && (mode || !(r == 6 || r == 7)))
    && !(!rlock && (r == 6 || r == 7))

/-- Some word of a region is marginal or unresolvable. -/
def regionMarginal (f : Nat → Reads) (r : Nat) : Bool :=
  (List.range 128).any (fun i => marginal (0x80 * r + i) (f (0x80 * r + i))
    || (resolve (0x80 * r + i) (f (0x80 * r + i))).2)

/-- The code word that digest word i of a region's digest d is burned as. -/
def digestWant (d : BitVec 256) (i : Nat) : Word := word (getLe (bvBytes d) (8 * i) 8)

/-- The stored digest words of a PENDING region are those of d, or parts of them that the command completes (R172). -/
def storedFits (s : State) (r : Nat) (d : BitVec 256) : Bool :=
  (List.range 3).all (fun i => fitsCodeword s (0x81 + 4 * r + i) (digestWant d i))

/-- OTP_LOCK starts (R172). -/
def startOtpLock (j : Job) (s : State) : State :=
  let r := j.f 0 0 5
  let mode := j.f 0 8 1 == 1
  let rlock := j.f 0 9 1 == 1
  let d := regionDigest (otpLive s) r
  match firstFail [
    (isHmb j.seat, .denied),
    (zeroFrom (j.w 0) 10 && j.f 0 5 3 == 0 && lockArgOk s r mode rlock, .badArgument),
    (r ≠ 4 && roleForRegion s j.seat r, .denied),
    (lcForRegion s r, .state),
    ((regionState s r == .opened || regionState s r == .pendingLock) && !writeInhibit s r, .locked),
    (!regionMarginal (otpLive s) r, .otpMarginal),
    (bvBytes d == j.digestArg, .otpLockMismatch),
    (regionState s r != .pendingLock || storedFits s r d, .otpLockMismatch)] with
  | some st => otpRefuse j st s
  | none =>
    let digestWords : List WordBurn := (List.range 3).map (fun i =>
      { addr := 0x81 + 4 * r + i, want := codeword (digestWant d i) })
    let lock : OtpWord := if mode then 0xFF0000 else if rlock then 0xFFFF else 0xFF
    jobBurn j (digestWords ++ [{ addr := 0x80 + 4 * r, want := lock }]) s

/-- OTP_LOCK ends: the region's state changes at its completion (R171). -/
def endOtpLock (j : Job) (e : BurnEnd) (s : State) : State :=
  let r := j.f 0 0 5
  let d := bvBytes (regionDigest (otpLive s) r)
  let ws := if r = 6 ∨ r = 7 ∨ e.status ≠ .ok then noWords
    else wordsOf ((List.range 4).map (fun i => word (getLe d (8 * i) 8)))
  otpDecide j e.status ws (refreshRegion r s)

/-- Bits a repair re-pulses (R179). -/
def repairWant (addr : Nat) (r : Reads) : OtpWord :=
  if wordClass addr = .e then codeword (resolve addr r).1 &&& ~~~r.2 else (dataOf r.1 &&& ~~~(dataOf r.2)).zeroExtend 72

/-- OTP_REPAIR starts (R179). -/
def startOtpRepair (j : Job) (s : State) : State :=
  let a := j.f 0 0 12
  let r := otpLive s a
  let role := roleOf s j.seat
  match firstFail [
    (isHmb j.seat, .denied),
    (zeroFrom (j.w 0) 12, .badArgument),
    (role == .maker || role == .installer, .denied),
    (if role == .maker then s.lc.state == lcTest
      else s.lc.state == lcIntegration || s.lc.state == lcFielded || s.lc.state == lcReturned, .state),
    (wordClass a ≠ .d && regionOf a ≠ 0, .denied),
    (!(resolve a r).2, .otpMarginal)] with
  | some st => otpRefuse j st s
  | none =>
    let want := if marginal a r then repairWant a r else 0
    jobBurn { j with num := want.toNat } [{ addr := a, want := want }] (setJob { j with num := want.toNat } s)

/-- OTP_REPAIR ends: the word is read again. Nothing is shown of a region whose software reads are inhibited
(R170, assumption entry 21). -/
def endOtpRepair (j : Job) (e : BurnEnd) (s : State) : State :=
  let a := j.f 0 0 12
  let r := otpLive s a
  let st := if e.status ≠ .ok then e.status else if marginal a r then .otpVerify else .ok
  let s := refreshWord a s
  let s := if st = .ok then
      { s with otp := { s.otp with mrep := s.otp.mrep.map (fun m => if m.addr = a then { m with repaired := true } else m) } }
    else s
  let ws := if readInhibit s (regionOf a) then noWords
    else wordsOf [(resolve a r).1, word j.num, dataOf r.1 ^^^ dataOf r.2]
  otpDecide j st ws s

/-- OTP_CTR_ADVANCE starts (R180, R181). -/
def startCtrAdvance (j : Job) (s : State) : State :=
  let c := j.f 0 0 5
  let t := j.f 1 0 11
  let v := ctrLive s c
  match firstFail [
    (isHmb j.seat, .denied),
    (zeroFrom (j.w 0) 5 && zeroFrom (j.w 1) 11 && decide (c ≤ 23), .badArgument),
    (decide (16 ≤ c) && roleOf s j.seat == .installer, .denied),
    (s.lc.state == lcIntegration || s.lc.state == lcFielded, .state),
    (!ctrGuard s c, .state),
    (decide (v ≤ t) && decide (t ≤ v + 64), .badArgument)] with
  | some st => otpRefuse j st s
  | none => jobBurn j (counterBurn s c t) s

/-! ## Registers (R182) -/

/-- OTP_CMD (Table 5-9). -/
def otpCmd (s : State) : Word :=
  match s.otp.run with
  | none =>
    match otpReading s with
    | none => 0
    | some j => word ((opcodeOf j.op).toNat * 2 ^ 48 + (stampOf j.seat).toNat * 2 ^ 40 + j.f 0 0 12 * 2 ^ 20 + 1)
  | some b =>
    let addr := match b.todo with
      | [] => 0
      | w :: _ => w.addr
    word (b.opcode.toNat * 2 ^ 48 + b.seat.toNat * 2 ^ 40 + addr * 2 ^ 20 + b.pulses * 2 ^ 16 + b.group % 8 * 2 ^ 13 + 1)

/-- OTP_STATUS (Table 5-10). -/
def otpStatus (o : Otp) : Word :=
  word (o.lastStatus.toNat * 2 ^ 48 + o.senseOk.toNat * 2 ^ 40 + bit o.sensed * 2 ^ 7 + bit o.marginalAny * 2 ^ 6
    + bit o.incompleteAny * 2 ^ 5 + bit o.alteredAny * 2 ^ 4 + bit o.erasePartialAny * 2 ^ 3
    + bit o.unresolvableAny * 2 ^ 2)

/-- OTP_REGION0 and OTP_REGION1 (Table 5-13). -/
def regionWord (o : Otp) (base : Nat) : Word :=
  word ((List.range 16).foldl (fun a k => a + (o.regions[Fin.ofNat 32 (base + k)]).code * 2 ^ (4 * k)) 0)

/-- A marginal-read report entry (Table 5-12). -/
def mrepWord (m : Mrep) : Word :=
  word (m.addr * 2 ^ 52 + m.cls.toNat * 2 ^ 50 + bit m.repairable * 2 ^ 49 + bit m.repaired * 2 ^ 48
    + m.ndiff * 2 ^ 40 + m.outcome.toNat * 2 ^ 30)

/-- A zero below the highest one of counter c (R180). -/
def ctrHole (s : State) (c : Nat) : Bool :=
  let ones := (List.range 32).foldl (fun a i => a + popCount 64 (dataOf (otpLive s (0x400 + 0x20 * c + i)).1).toNat) 0
  let top := ctrOf (fun a => dataOf (otpLive s a).1) c
  decide (ones < top)

/-- OTP_CTRc (Table 5-13). -/
def ctrWord (s : State) (c : Nat) : Word :=
  word (bit (ctrGuard s c) * 2 ^ 12 + bit (ctrHole s c) * 2 ^ 11 + ctrLive s c)

/-- Value of an OTP register by its offset, for seats 64 to 66 (Table 5-8). -/
def readOtp (off : Nat) (s : State) : Word :=
  match off with
  | 0x00 => otpCmd s
  | 0x08 => otpStatus s.otp
  | 0x10 => word (bit (vppOk s s.core.vpp) * 2 ^ 16 + s.core.vpp.toNat)
  | 0x18 => regionWord s.otp 0
  | 0x20 => regionWord s.otp 16
  | 0x28 => word (bit s.otp.overflow * 2 ^ 7 + s.otp.mrep.length)
  | _ =>
    if 0x100 ≤ off ∧ off < 0x300 then
      match s.otp.mrep[(off - 0x100) / 8]? with
      | some m => mrepWord m
      | none => 0
    else if 0x300 ≤ off ∧ off < 0x3C0 then (if s.otp.ctrsShown then ctrWord s ((off - 0x300) / 8) else 0)
    else 0

end Sys2Proof.Machine
end

