-- ==== Sys2Proof/Machine/LcBase.lean ====
section
/-! DEFINITION. The start sense (R166 to R168, R186), the life-cycle state it finds, and what every debug level and
role change does (R199, R203 to R205, R337). -/

namespace Sys2Proof.Machine

/-! ## Life-cycle fields (Table 6-2) -/

/-- Word and lowest bit of field k, 1 to 5. -/
def fieldPlace (k : Nat) : Nat × Nat := if k = 5 then (0x001, 0) else (0x000, 16 * (k - 1))

/-- Some bit of field k resolves to one (R186). -/
def fieldAny (f : Nat → Reads) (k : Nat) : Bool := anyBit (dataOf (f (fieldPlace k).1).1) (fieldPlace k).2 16

/-- Every bit of field k reads one at both margins. -/
def fieldFull (f : Nat → Reads) (k : Nat) : Bool :=
  let r := f (fieldPlace k).1
  fld (dataOf r.1) (fieldPlace k).2 16 == 0xFFFF && fld (dataOf r.2) (fieldPlace k).2 16 == 0xFFFF

/-- The state the fields spell (R186): the highest field with any bit. -/
def lcOf (f : Nat → Reads) : Nat := (List.range 5).foldl (fun a i => if fieldAny f (i + 1) then i + 1 else a) 0

/-- FULL of LC_STATE. -/
def fullMask (f : Nat → Reads) : Nat :=
  (List.range 5).foldl (fun a i => if fieldFull f (i + 1) then a + 2 ^ i else a) 0

/-! ## Debug policy and levels -/

/-- Operator debug is admitted by life-cycle state and policy (Table 6-13, R188, R204). -/
def operAdmitted (s : State) : Bool :=
  let lc := s.lc.state
  !s.lc.incomplete && (lc == lcTest || lc == lcReturned
    || (lc == lcIntegration && !s.boot.cfg.denyOper)
    || (lc == lcFielded && (fuse s 0x004).getLsbD 1 && !s.boot.cfg.denyOper))

/-- Tenant profiling is admitted (Table 6-13). -/
def profAdmitted (s : State) : Bool :=
  let lc := s.lc.state
  !s.lc.incomplete && (lc == lcTest || lc == lcReturned
    || (lc == lcIntegration && !s.boot.cfg.denyProf)
    || (lc == lcFielded && (fuse s 0x004).getLsbD 2 && !s.boot.cfg.denyProf))

/-- LC_DEBUG's policy bits follow the fuses and the record in force. -/
def setPolicy (s : State) : State :=
  { s with lc := { s.lc with polProf := profAdmitted s, polOper := operAdmitted s, polScan := (fuse s 0x004).getLsbD 0 } }

/-- Event 0x0903: level, partition, opening or closing, by whom and why (R205). -/
def debugRecord (level : Nat) (part : BitVec 8) (kind : Nat) (by' : BitVec 8) (cause : Nat) (s : State) : State :=
  record { code := 0x0903, seat := by', part := part, object := word level,
           detail := leBytes 1 kind ++ [by'] ++ leBytes 1 cause } s

/-- A change of the device-wide level: debug histories, G of every partition, the DEBUG source (R337, Table 14-2). -/
def setLevel (level : BitVec 2) (opener : BitVec 8) (s : State) : State :=
  let s := { s with lc := { s.lc with level := level, opener := opener } }
  let s := (indices 64).foldl (fun s n => if partExists s n then
      s.modPart n (fun r => { r with
        dbgHighest := if r.dbgHighest.toNat < level.toNat then level else r.dbgHighest, dbgChanges := r.dbgChanges + 1 })
    else s) s
  raiseCore irqDebug (advanceAllG s)

/-- Operator debug closes. -/
def closeOper (by' : BitVec 8) (cause : Nat) (s : State) : State :=
  if s.lc.level = 2 then debugRecord 2 0xFF 2 by' cause (setLevel 0 0 s) else s

/-- Tenant profiling of n closes. -/
def closeProf (n : Part) (by' : BitVec 8) (cause : Nat) (s : State) : State :=
  if s.lc.prof.getLsbD n.val then
    let s := { s with lc := { s.lc with prof := s.lc.prof &&& ~~~(BitVec.ofNat 64 (2 ^ n.val)) } }
    debugRecord 1 (BitVec.ofNat 8 n.val) 2 by' cause (advanceG n s)
  else s

/-! ## Roles -/

/-- Change the authorisation record of one of seats 64 to 66. -/
def modAuth (n : Seat) (f : Auth → Auth) (s : State) : State :=
  if isHmb n then { s with lc := { s.lc with auth := vmod s.lc.auth (Fin.ofNat 3 (n.val - 64)) f } } else s

/-- A build session ends without a swap: CLEAR_SHADOW is broadcast and the shadow is lost (R366). A swap not yet armed
ends with it; one already armed is left to the units. -/
def endBuild (s : State) : State :=
  match s.part.session with
  | none => s
  | some _ =>
    let s := { s with part := { s.part with session := none } }
    let clear (s : State) : State :=
      emit (.firebreak none 2 0) { s with part := { s.part with shadow := [], swap := none } }
    match s.part.swap with
    | none => clear s
    | some w =>
      if w.phase = .armed then s
      else
        match w.job.bind s.job? with
        | some j => clear (failJob j .state s)
        | none => clear s

/-- The role held on a seat ends (R199): operator debug it opened closes, its staging and build sessions end
(Table 6-11, R265, R366). The cause is that of a closing in R205. -/
def endRole (n : Seat) (cause : Nat) (s : State) : State :=
  if (authOf s n).held.role = .none then s
  else
    let s := modAuth n (fun a => { a with held := {} }) s
    let s := if s.lc.level = 2 && s.lc.opener = stampOf n then closeOper 0xFF cause s else s
    let s := match s.boot.stage with
      | some g => if g.seat = n then { s with boot := { s.boot with stage := none, pldm := none } } else s
      | none => s
    if s.part.session = some n then endBuild s else s

/-! ## Fuse sense (R166 to R168) -/

/-- The array as it reads at this start: words whose margins read otherwise than before. -/
def driftArray (env : SenseEnv) (s : State) : State :=
  env.drift.foldl (fun s d =>
    let a := d.1.toNat
    let old := otpLive s a
    let hi := old.2 ||| d.2.2
    { s with otp := { s.otp with array := memSet (0, 0) s.otp.array a (hi ||| d.2.1, hi) } }) s

/-- The report entry of a word, if it is marginal or unresolvable (R164, Table 5-12). -/
def mrepOf (a : Nat) (r : Reads) : Option Mrep :=
  let bad := (resolve a r).2
  if marginal a r || bad then
    some { addr := a, cls := BitVec.ofNat 2 (wordClass a).code,
           repairable := wordClass a ≠ .d && regionOf a ≠ 0 && !bad, ndiff := diffBits a r,
           outcome := if bad then 3 else match wordClass a with | .e => 2 | .d => 1 | _ => 0 }
  else none

/-- A word that the code corrected in one bit though its margins agree (R163). -/
def correctedWord (a : Nat) (r : Reads) : Bool :=
  wordClass a = .e && r.1 == r.2 && (match decodeE r.2 with | .corrected _ => true | _ => false)

/-- A condition found at start (Table 13-6): group, object. -/
def startNote (code : BitVec 16) (object : Nat) (s : State) : State := record { code := code, object := word object } s

/-- Reserved bits of region 0 and of the lock words that read one (R169, R185). -/
def reservedBits (f : Nat → Reads) (a : Nat) : Bool :=
  let v := dataOf (f a).1
  if regionOf a = 0 then
    (if a = 0x000 then false else if a = 0x001 then anyBit v 16 48 else if a = 0x004 then anyBit (dataOf (f a).2) 3 61
     else if 0x010 ≤ a ∧ a ≤ 0x014 then false else v != 0)
  else wordClass a = .l && anyBit v 24 40

/-- The marginal-read report, its event records and its heartwood record (R164). -/
def reportSense (s : State) : State :=
  let words := s.otp.sense
  let ms := words.filterMap (fun e => mrepOf e.1 e.2)
  let s := { s with otp := { s.otp with
    mrep := ms.take 64, overflow := decide (64 < ms.length),
    marginalAny := words.any (fun e => marginal e.1 e.2), unresolvableAny := words.any (fun e => (resolve e.1 e.2).2) } }
  let s := ms.foldl (fun s m => startNote 0x0802 m.addr s) s
  let s := (words.filter (fun e => correctedWord e.1 e.2)).foldl (fun s e => startNote 0x0802 e.1 s) s
  let s := (words.filter (fun e => reservedBits (otpSensed s) e.1)).foldl
    (fun s e => startNote (if regionOf e.1 = 0 then 0x0902 else 0x0802) e.1 s) s
  let s := ((List.range 24).filter (fun c => ctrHole s c)).foldl (fun s c => startNote 0x0802 (0x400 + 0x20 * c) s) s
  if ms.isEmpty then s
  else hwNote 0x0060 (leBytes 2 ms.length ++ ((ms.take 4).map (fun m => leBytes 2 m.addr)).flatten) s

/-- Region states, with their records at each start (R171, Table 5-5). -/
def senseRegions (s : State) : State :=
  let f := otpSensed s
  let s := { s with otp := { s.otp with regions := Vector.ofFn (fun (r : Fin 32) => judgeRegion f r.val) } }
  let has (st : RegionState) : Bool := (indices 32).any (fun r => s.otp.regions[r] = st)
  let s := { s with otp := { s.otp with
    incompleteAny := has .sealedIncomplete, alteredAny := has .altered, erasePartialAny := has .erasePartial } }
  (indices 32).foldl (fun s r =>
    let st := s.otp.regions[r]
    let both := anyBit (lockWord f r.val) 0 8 && anyBit (lockWord f r.val) 16 8 && !isMonotone r.val
    let s := if both then startNote 0x0802 (0x80 + 4 * r.val) s else s
    match st with
    | .pendingLock | .erasePartial => startNote 0x0802 (0x80 * r.val) s
    | .sealedIncomplete | .altered =>
      hwNote 0x0061 (leBytes 1 r.val ++ leBytes 1 st.code) (startNote 0x0802 (0x80 * r.val) s)
    | _ => s) s

/-- A wire keeps its reset value: its word is unresolvable or lies in an ALTERED or ERASE_PARTIAL region (R168). -/
def wireDead (s : State) (a : Nat) : Bool :=
  (resolve a (otpSensed s a)).2 || regionState s (regionOf a) == .altered || regionState s (regionOf a) == .erasePartial

/-- The fuse wires (Tables 2-10, 5-3, R82). -/
def driveWires (s : State) : State :=
  let lc := s.lc.state
  let v (a : Nat) : Word := if wireDead s a then 0 else (resolve a (otpSensed s a)).1
  let scrapped := lc == lcScrapped
  let fw : FuseWires := {
    valid := true, lc := BitVec.ofNat 6 (2 ^ lc.toNat),
    scanAllow := (v 0x004).getLsbD 0 && (lc == lcTest || lc == lcReturned),
    linkEnable := if scrapped then 0 else BitVec.ofNat 6 (fld (v 0x108) 0 6),
    hbmRepair := v 0x110, clkTrim := BitVec.ofNat 16 (fld (v 0x111) 0 16), integ := v 0x701 ++ v 0x700 }
  ([0x004, 0x108, 0x110, 0x111, 0x700, 0x701].filter (wireDead s)).foldl (fun s a => startNote 0x0802 a s)
    { s with fw := fw }

/-- The life-cycle state in force from the sense (R186, R187). -/
def senseLc (s : State) : State :=
  let f := otpSensed s
  let k := lcOf f
  let partialLower := (List.range 5).filter (fun i => i + 1 < k && fieldAny f (i + 1) && !fieldFull f (i + 1))
  let s := { s with lc := { s.lc with
    state := BitVec.ofNat 3 k, full := BitVec.ofNat 5 (fullMask f), incomplete := decide (0 < k) && !fieldFull f k,
    marginal := s.otp.sense.any (fun e => decide (regionOf e.1 = 0) && marginal e.1 e.2) } }
  partialLower.foldl (fun s i => startNote 0x0902 (i + 1) s) s

/-- The whole start sense (R166). -/
def fuseSense (env : SenseEnv) (s : State) : State :=
  let failed : List Cell := (env.groupsFailed.map (fun g => (Fin.ofNat 92 (84 + g.val) : Cell))).filter (healthy s)
  let s := retireCells failed 2 s
  if healthyCount s senseCells = 0 || env.transient then coreFault 0x02 s
  else
    let s := driftArray env s
    let ok := (List.range 8).foldl (fun a g => if healthy s (Fin.ofNat 92 (84 + g)) then a + 2 ^ g else a) 0
    let s := { s with otp := { s.otp with
      sense := s.otp.array, sensed := true, senseOk := BitVec.ofNat 8 ok, ctrsShown := true } }
    let s := senseRegions s
    let s := senseLc s
    setPolicy (driveWires (reportSense s))

/-- FUSE_SENSE (R166): once per start, after the map rebuild, with CTRL out of reset. -/
def execFuseSense (env : SenseEnv) (s : State) : Host.Outcome State Fault Refusal :=
  .next (if ctrlUp s && s.recd.replayDone && !s.otp.sensed then fuseSense env s else s)

/-! ## Registers (R214) -/

/-- LC_STATE (Table 6-17). -/
def lcState (l : LifeCycle) : Word :=
  word (bit l.nextValid * 2 ^ 15 + l.next.toNat * 2 ^ 12 + bit l.resumed * 2 ^ 11 + bit l.incomplete * 2 ^ 10
    + bit l.marginal * 2 ^ 9 + l.full.toNat * 2 ^ 3 + l.state.toNat)

/-- LC_DEBUG (Table 6-18). -/
def lcDebug (l : LifeCycle) : Word :=
  word (l.opener.toNat * 2 ^ 16 + bit l.polProf * 2 ^ 10 + bit l.polOper * 2 ^ 9 + bit l.polScan * 2 ^ 8 + l.level.toNat)

/-- Role codes (Table 6-19). -/
def Role.code : Role → Nat
  | .none => 0 | .maker => 1 | .installer => 2 | .operator => 3 | .claimant => 4

/-- LC_ROLE (Table 6-19). -/
def lcRole (s : State) : Word :=
  word ((roleOf s bmc).code * 2 ^ 8 + (roleOf s mgmt).code * 2 ^ 4 + (roleOf s host).code)

/-- LC_PROGRESS (Table 6-20). -/
def lcProgress (l : LifeCycle) : Word :=
  word (l.step.toNat * 2 ^ 28 + l.target.toNat * 2 ^ 24 + l.addr.toNat * 2 ^ 12 + l.bits.toNat)

/-- Value of an LC register for a seat (Tables 6-16 to 6-20). -/
def readLc (n : Seat) (off : Nat) (s : State) : Word :=
  match off with
  | 0x00 => lcState s.lc
  | 0x08 => lcDebug s.lc
  | 0x10 => if n.val < 64 then s.lc.prof &&& word (2 ^ n.val) else s.lc.prof
  | 0x18 => lcRole s
  | 0x20 => lcProgress s.lc
  | _ => 0

end Sys2Proof.Machine
end

