-- ==== Sys2Proof/Machine/Keys.lean ====
section
/-! DEFINITION. KEYS (chapter 07): the KDF, dual signatures, the key store and its handles, the derived hierarchy,
certificates and the KEYS commands but for the links. -/

namespace Sys2Proof.Machine

/-! ## Derivation and signatures (R221, R222) -/

/-- KDF(K, label, ctx, n) of R221. -/
def kdfBytes (k label ctx : Bytes) (n : Nat) : Bytes :=
  leBytes n (Config.kmac256 k (ascii "LIMCY-KDF") (label ++ [0#8] ++ ctx) n).toNat

/-- The KDF with an ASCII label. -/
def kdf (k : Bytes) (label : String) (ctx : Bytes) (n : Nat) : Bytes := kdfBytes k (ascii label) ctx n

/-- A scalar from an integer: (x mod (n - 1)) + 1 (R222). -/
def scalarOf (n x : Nat) : Nat := x % (n - 1) + 1

/-- The P-384 scalar a slot's bytes give. -/
def p384Scalar (content : Bytes) : Nat := scalarOf p384.n (beNat content)

/-- ECDSA with a nonce drawn in Ln + 8 bytes; r or s equal to 0 is drawn again (R277). -/
def ecdsaDraw (c : CurveParams) (d : Nat) (digest : Bytes) : Nat → State → Bytes × State
  | 0, s => (List.replicate (2 * orderLen c) 0, s)
  | fuel + 1, s =>
    let (x, s) := drawBytes (orderLen c + 8) s
    let rs := ecdsaPair c d digest (scalarOf c.n (beNat x))
    if rs.1 = 0 ∨ rs.2 = 0 then ecdsaDraw c d digest fuel s
    else (beBytes (orderLen c) rs.1 ++ beBytes (orderLen c) rs.2, s)

/-- Draws an ECDSA signature is given before the model gives up (assumption entry 5). -/
def ecdsaTries : Nat := 64

/-- The input of ML-DSA for a message with a context (FIPS 204). -/
def mldsaInput (ctx m : Bytes) : Bytes := [0#8, BitVec.ofNat 8 ctx.length] ++ ctx ++ m

/-- A dual signature by a P-384 slot and an ML-DSA-87 slot over a message: 96 and 4,627 bytes. -/
def dualSign (ec ml msg : Bytes) (s : State) : Bytes × State :=
  let (sig, s) := ecdsaDraw p384 (p384Scalar ec) (bvBytes (Config.sha384 msg)) ecdsaTries s
  let (rnd, s) := drawBytes 32 s
  (padTo 96 sig ++ padTo 4627 (Config.mldsaSign ml (mldsaInput [] msg) rnd).1, s)

/-- A dual signature verifies under a P-384 key and an ML-DSA-87 key; both parts must. -/
def dualVerify (ecKey mlKey msg sig : Bytes) : Bool :=
  ecdsaVerify p384 ecKey (bvBytes (Config.sha384 msg)) (sig.take 96)
    && Config.mldsaVerify mlKey (mldsaInput [] msg) (slice sig 96 4627)

/-! ## The key store (R229 to R232) -/

/-- A key slot. -/
def State.slot (s : State) (i : Fin 256) : KeySlot := s.keys.slots[i]

/-- Content of an internal slot (Table 7-5). -/
def slotBytes (s : State) (i : Nat) : Bytes := (s.slot (Fin.ofNat 256 i)).content

/-- Handle of a slot (R230). -/
def handleOf (s : State) (i : Fin 256) : Nat := (s.slot i).gen.toNat * 256 + i.val

/-- A handle names this slot's present content. -/
def handleMatches (s : State) (h : Nat) : Bool :=
  let k := s.slot (Fin.ofNat 256 h)
  k.used && !k.doomed && k.gen.toNat == h / 256 % 256

/-- The slot a handle names if the seat owns it (R232, R234). -/
def ownSlot (s : State) (n : Seat) (h : Nat) : Option (Fin 256) :=
  let i : Fin 256 := Fin.ofNat 256 h
  if handleMatches s h && decide (32 ≤ i.val) && (s.slot i).owner.toNat == n.val then some i else none

/-- The slot a handle names for a PKE job: the seat's own, or slots 6 and 7 for seat 65 (R232). -/
def pkeSlot (s : State) (n : Seat) (h : Nat) : Option (Fin 256) :=
  let i : Fin 256 := Fin.ofNat 256 h
  if n = mgmt && (i.val == 6 || i.val == 7) && handleMatches s h then some i else ownSlot s n h

/-- Slots a seat may hold (R229). -/
def quota (n : Seat) : Nat :=
  if n.val < 64 then 3 else if n = bmc then 4 else if n = peer then 0 else 12

/-- The seat's quota has room. -/
def quotaFree (s : State) (n : Seat) : Bool :=
  decide ((s.keys.slots.toList.filter (fun k => k.used && !k.doomed && k.owner.toNat == n.val)).length < quota n)

/-- CU (R233): class, usage, length. -/
structure Cu where
  cls : BitVec 2
  usage : BitVec 8
  len : Nat
  deriving DecidableEq, Repr

/-- The fields of a CU word. -/
def cuOf (w : Word) : Cu :=
  { cls := BitVec.ofNat 2 (fld w 0 2), usage := BitVec.ofNat 8 (fld w 8 8), len := fld w 16 7 }

/-- Exportable, use-only and sealed (Table 7-6). -/
def clsExport : BitVec 2 := 1
def clsUse : BitVec 2 := 2
def clsSealed : BitVec 2 := 3

/-- A CU word is well laid out. -/
def cuOk (w : Word) : Bool :=
  fld w 2 6 == 0 && zeroFrom w 23 && (cuOf w).cls != 0 && decide (1 ≤ (cuOf w).len) && decide ((cuOf w).len ≤ 64)

/-- Classes a child of this class may have (Table 7-6). -/
def childOk (parent child : BitVec 2) : Bool := parent == clsExport || child != clsExport

/-- Usage bits of Table 7-7. -/
def useGcm : Nat := 0
def useMac : Nat := 1
def useKdf : Nat := 2
def useEcdsa : Nat := 3
def useMldsa : Nat := 4
def useEcdh : Nat := 5
def useMlkem : Nat := 6
def useCompare : Nat := 7

/-- Allocate the lowest free slot to a seat; the caller has checked the quota. -/
def newSlot (n : Seat) (cu : Cu) (content : Bytes) (origin : Nat) (s : State) : Nat × State :=
  match (indices 256).find? (fun i => 32 ≤ i.val && !(s.slot i).used) with
  | none => (0, s)
  | some i =>
    let fill (k : KeySlot) : KeySlot :=
      { k with used := true, content := padTo cu.len content, owner := stampOf n, origin := BitVec.ofNat 8 origin,
               cls := cu.cls, usage := cu.usage, doomed := false }
    let s := s.modSlot i fill
    (handleOf s i, s)

/-- Fill an internal slot (Table 7-5). -/
def setInternal (i : Nat) (content : Bytes) (cls : BitVec 2) (s : State) : State :=
  let fill (k : KeySlot) : KeySlot :=
    { k with used := true, content := content, owner := 0xFF, origin := 3, cls := cls, usage := 0, doomed := false }
  s.modSlot (Fin.ofNat 256 i) fill

/-- A slot is freed: at once, or marked until the started jobs that use it end (R233). -/
def releaseSlot (i : Fin 256) (s : State) : State :=
  if s.jobs.any (fun j => j.slots.contains i.val && j.op != .keysFree) then
    s.modSlot i (fun k => { k with doomed := true, gen := k.gen + 1 })
  else s.modSlot i freeSlot

/-- Every slot of a seat is zeroized and freed (R232). -/
def freeSeatSlots (n : Seat) (s : State) : State :=
  (indices 256).foldl (fun s i =>
    if (s.slot i).used && 32 ≤ i.val && (s.slot i).owner.toNat == n.val then s.modSlot i freeSlot else s) s

/-- All 256 slots zeroized (R50, R192). -/
def zeroizeStore (s : State) : State :=
  { s with keys := { s.keys with slots := s.keys.slots.map freeSlot } }

/-- A fresh DIG context key in slot 9; images wrapped under the old one fail from now on (R192, R226). -/
def freshContextKey (s : State) : State :=
  let (k, s) := drawBytes 32 s
  setInternal 9 k clsUse { s with dig := { s.dig with wrapped := [] } }

/-! ## The hierarchy (Table 7-2) -/

/-- Rows 3 to 6: they rest on the root slots and the serial only. -/
def deriveFixed (s : State) : State :=
  let ser := wordBytes (serial s)
  let r0 := s.keys.root0
  let r1 := s.keys.root1
  let s := setInternal 8 (kdf r0 "SEALROOT" ser 64) clsSealed s
  let s := setInternal 2 (kdf r0 "DEVID-E" ser 64) clsUse s
  let s := setInternal 3 (kdf r0 "DEVID-M" ser 32) clsUse s
  let s := setInternal 10 (kdf r1 "LINKID-E" ser 64) clsUse s
  let s := setInternal 11 (kdf r1 "LINKID-M" ser 32) clsUse s
  let s := setInternal 24 (kdf r0 "KEM-E" ser 64) clsUse s
  setInternal 25 (kdf r0 "KEM-M" ser 64) clsUse s

/-- Rows 1 and 7: the microcode layer. -/
def deriveLayer0 (s : State) : State :=
  let ctx := bvBytes s.boot.mcMeas ++ leBytes 2 s.keys.svn0.toNat ++ [s.keys.romBound]
  let cdi := kdf s.keys.root0 "CDI0" ctx 64
  let s := setInternal 0 cdi clsSealed s
  let s := setInternal 4 (kdf cdi "AK0-E" [] 64) clsUse s
  setInternal 5 (kdf cdi "AK0-M" [] 32) clsUse s

/-- Rows 2 and 8: the layer of the released image. -/
def deriveLayer1 (s : State) : State :=
  let ctx := bvBytes s.boot.imgMeas ++ leBytes 2 s.keys.svn1.toNat ++ leBytes 2 s.keys.family.toNat
  let cdi := kdf (slotBytes s 0) "CDI1" ctx 64
  let s := setInternal 1 cdi clsSealed s
  let s := setInternal 6 (kdf cdi "AK1-E" [] 64) clsUse s
  setInternal 7 (kdf cdi "AK1-M" [] 32) clsUse s

/-- The layer 1 keys are gone: no image is released. -/
def clearLayer1 (s : State) : State :=
  let s := [1, 6, 7].foldl (fun s i => s.modSlot (Fin.ofNat 256 i) freeSlot) s
  { s with keys := { s.keys with l1Done := false, certs := s.keys.certs.filter (fun c => c.1 != 0x13) } }

/-! ## Certificates (R225 to R227) -/

/-- P-384 public key of a slot's scalar. -/
def ecPublicOf (s : State) (i : Nat) : Bytes := padTo 97 (ecPublic p384 (p384Scalar (slotBytes s i)))
/-- ML-DSA-87 public key of a slot's seed. -/
def mlPublicOf (s : State) (i : Nat) : Bytes := padTo 2592 (Config.mldsaPublic (slotBytes s i))

/-- CORE_REV (Table 0-4). -/
def coreRev : BitVec 32 := 0x0200#16 ++ Config.siliconStep ++ Config.romEdition
/-- CORE_ID (Table 0-3). -/
def coreId : BitVec 32 := 0x5D71C8#24 ++ Config.configCode

/-- Bytes 0 to 2,768 of a certificate of a kind (Table 7-3). -/
def certBody (kind : Nat) (s : State) : Bytes :=
  let ak0 := kind = 0x12
  let ak1 := kind = 0x13
  let ec := if ak0 then 4 else if ak1 then 6 else if kind = 0x14 then 10 else if kind = 0x15 then 24 else 2
  let svn := if ak0 then s.keys.svn0.toNat else if ak1 then s.keys.svn1.toNat else 0
  let meas : Bytes := if ak0 then bvBytes s.boot.mcMeas else if ak1 then bvBytes s.boot.imgMeas else List.replicate 48 0
  let ml := if kind = 0x15 then padTo 2592 (padTo 1568 (Config.mlkemPublic (slotBytes s 25))) else mlPublicOf s (ec + 1)
  [0x01#8, BitVec.ofNat 8 kind, if ak1 then 1 else 0, 0] ++ wordBytes (serial s) ++ leBytes 4 svn
    ++ stampBytes (stampNow s) ++ leBytes 4 coreRev.toNat ++ meas ++ ecPublicOf s ec ++ ml

/-- Issue a certificate: AK0 signs kind 0x13, DevID the others (Table 7-4). -/
def issueCert (kind : Nat) (s : State) : State :=
  let body := certBody kind s
  let signer := if kind = 0x13 then 4 else 2
  let (sig, s) := dualSign (slotBytes s signer) (slotBytes s (signer + 1)) body s
  { s with keys := { s.keys with
    certs := (BitVec.ofNat 8 kind, body ++ sig) :: s.keys.certs.filter (fun c => c.1.toNat != kind) } }

/-- A certificate that is present. -/
def certBytes (s : State) (kind : Nat) : Option Bytes := (s.keys.certs.find? (fun c => c.1.toNat == kind)).map (·.2)

/-- The endorsement of the flash's identity area holds (R227). -/
def endorsementOk (s : State) (area : Bytes) : Bool :=
  let keys := area.take 2689
  let cert := slice area 2689 7492
  bvBytes (Config.sha3_384 keys) == fuseBytes s 0x1B0 6
    && cert.take 2 == [0x01#8, 0x11#8]
    && dualVerify (keys.take 97) (keys.drop 97) (cert.take 2769) (cert.drop 2769)
    && slice cert 4 8 == wordBytes (serial s)
    && slice cert 80 97 == ecPublicOf s 2 && slice cert 177 2592 == mlPublicOf s 3

/-- KEYS may load the root slots (R217). -/
def rootLoadable (s : State) : Bool :=
  let lc := s.lc.state
  (lc == lcTest || lc == lcIntegration || lc == lcFielded) && regionState s 4 == .wlockRlock
    && (List.range 16).all (fun i => !(resolve (0x200 + i) (otpSensed s (0x200 + i))).2)

/-! ## Commands (Tables 7-7, 7-8) -/

/-- The life-cycle states of KEYS_GENERATE and KEYS_IMPORT. -/
def keysLc (s : State) : Bool :=
  let lc := s.lc.state
  lc == lcTest || lc == lcIntegration || lc == lcFielded || lc == lcReturned

/-- Result word of a new handle. -/
def handleWords (h : Nat) : Words := wordsOf [word h]

/-- KEYS_GENERATE starts. -/
def startGenerate (j : Job) (s : State) : State :=
  match firstFail [
    (j.seat ≠ peer, .denied),
    (cuOk (j.w 0), .badArgument),
    (keysLc s && quotaFree s j.seat, .state)] with
  | some st => refuseJob j st s
  | none =>
    let cu := cuOf (j.w 0)
    let (k, s) := drawBytes cu.len s
    let (h, s) := newSlot j.seat cu k 1 s
    decideJob j .ok (handleWords h) s

/-- KEYS_GENERATE (R233). -/
def execKeysGenerate (s : State) : Host.Outcome State Fault Refusal := .next (runJob .keysGenerate true startGenerate s)

/-- KEYS_IMPORT starts. -/
def startImport (j : Job) (s : State) : State :=
  match firstFail [
    (j.seat ≠ peer, .denied),
    (cuOk (j.w 0) && (cuOf (j.w 0)).cls != clsSealed, .badArgument),
    (keysLc s && quotaFree s j.seat, .state)] with
  | some st => refuseJob j st s
  | none => fetchJob j (j.w 1) (cuOf (j.w 0)).len s

/-- KEYS_IMPORT (R233). -/
def execKeysImport (s : State) : Host.Outcome State Fault Refusal := .next (runJob .keysImport true startImport s)

/-- A slot is created from a job's derived bytes, quota permitting. -/
def createSlot (j : Job) (cu : Cu) (content : Bytes) (origin : Nat) (s : State) : State :=
  if quotaFree s j.seat then
    let (h, s) := newSlot j.seat cu content origin s
    decideJob j .ok (handleWords h) s
  else refuseJob j .state s

/-- KEYS_EXPORT starts. -/
def startExport (j : Job) (s : State) : State :=
  let i := ownSlot s j.seat (j.f 0 0 16)
  let k := s.slot (i.getD 0)
  match firstFail [
    (zeroFrom (j.w 0) 16 && i.isSome, .badArgument),
    (k.cls == clsExport, .denied),
    (s.lc.state != lcScrapped, .state)] with
  | some st => refuseJob j st s
  | none => storeJob j (j.w 1) k.content .ok (wordsOf [word k.content.length]) s

/-- KEYS_EXPORT (R231). -/
def execKeysExport (s : State) : Host.Outcome State Fault Refusal := .next (runJob .keysExport true startExport s)

/-- A context buffer of W2 and W3: its length is 0 to 1,024. -/
def ctxOk (j : Job) : Bool := zeroFrom (j.w 3) 11 && decide (j.f 3 0 11 ≤ 1024)

/-- What a derivation puts into the new slot. -/
def deriveContent (j : Job) (ctx : Bytes) (s : State) : Bytes :=
  let cu := cuOf (j.w 1)
  match j.op with
  | .keysDerive => kdfBytes (slotBytes s (j.f 0 0 8)) Config.deriveLabel ctx cu.len
  | .keysSealDerive => (kdf (slotBytes s 8) "SEAL" (leBytes 2 s.keys.family.toNat ++ leBytes 2 (j.f 0 0 16) ++ ctx) 64).take cu.len
  | _ => kdf (fuseBytes s (0x300 + 8 * j.f 0 0 5) 8) "INST" ctx cu.len

/-- A derivation has its context. -/
def endDerive (j : Job) (ctx : Bytes) (s : State) : State :=
  createSlot j (cuOf (j.w 1)) (deriveContent j ctx s) 3 s

/-- A derivation reads its context, if it has one. -/
def fetchCtx (j : Job) (s : State) : State :=
  if j.f 3 0 11 = 0 then endDerive j [] s else fetchJob j (j.w 2) (j.f 3 0 11) s

/-- KEYS_DERIVE starts. -/
def startDerive (j : Job) (s : State) : State :=
  let i := ownSlot s j.seat (j.f 0 0 16)
  let k := s.slot (i.getD 0)
  match firstFail [
    (zeroFrom (j.w 0) 16 && i.isSome && cuOk (j.w 1) && ctxOk j, .badArgument),
    (k.usage.getLsbD useKdf && childOk k.cls (cuOf (j.w 1)).cls, .denied),
    (s.lc.state != lcScrapped && !s.keys.held && quotaFree s j.seat, .state)] with
  | some st => refuseJob j st s
  | none => fetchCtx j s

/-- KEYS_DERIVE (R233). -/
def execKeysDerive (s : State) : Host.Outcome State Fault Refusal := .next (runJob .keysDerive true startDerive s)

/-- KEYS_SEAL_DERIVE starts (R224). -/
def startSealDerive (j : Job) (s : State) : State :=
  match firstFail [
    (j.seat = mgmt, .denied),
    (zeroFrom (j.w 0) 16 && cuOk (j.w 1) && (cuOf (j.w 1)).cls != clsExport && ctxOk j, .badArgument),
    (decide (j.f 0 0 16 ≤ s.keys.svn1.toNat), .denied),
    (s.lc.state != lcScrapped && s.keys.rootLoaded && s.keys.l1Done && !s.keys.held && quotaFree s j.seat, .state)] with
  | some st => refuseJob j st s
  | none => fetchCtx j s

/-- KEYS_SEAL_DERIVE (R224). -/
def execKeysSealDerive (s : State) : Host.Outcome State Fault Refusal :=
  .next (runJob .keysSealDerive true startSealDerive s)

/-- KEYS_INSTALLER_DERIVE starts; Returned and Scrapped never load regions 6 and 7 (R207). -/
def startInstallerDerive (j : Job) (s : State) : State :=
  let role := roleOf s j.seat
  match firstFail [
    (isHmb j.seat, .denied),
    (zeroFrom (j.w 0) 5 && cuOk (j.w 1) && (cuOf (j.w 1)).cls != clsExport && ctxOk j, .badArgument),
    (role == .installer || role == .operator, .denied),
    (s.lc.state != lcReturned && s.lc.state != lcScrapped && regionState s (6 + j.f 0 4 1) == .wlockRlock
      && !s.keys.held && quotaFree s j.seat, .state)] with
  | some st => refuseJob j st s
  | none => fetchCtx j s

/-- KEYS_INSTALLER_DERIVE (R233). -/
def execKeysInstallerDerive (s : State) : Host.Outcome State Fault Refusal :=
  .next (runJob .keysInstallerDerive true startInstallerDerive s)

/-- KEYS_FREE starts. -/
def startFree (j : Job) (s : State) : State :=
  let i := ownSlot s j.seat (j.f 0 0 16)
  match firstFail [
    (zeroFrom (j.w 0) 16 && i.isSome, .badArgument),
    (s.lc.state != lcScrapped, .state)] with
  | some st => refuseJob j st s
  | none => decideJob j .ok noWords (releaseSlot (i.getD 0) s)

/-- KEYS_FREE (R233). -/
def execKeysFree (s : State) : Host.Outcome State Fault Refusal := .next (runJob .keysFree true startFree s)

/-- W1 of KEYS_INFO (Table 7-7). -/
def infoOf (k : KeySlot) : Word :=
  word (k.owner.toNat * 2 ^ 56 + k.origin.toNat * 2 ^ 48 + k.content.length * 2 ^ 16 + k.usage.toNat * 2 ^ 8 + k.cls.toNat)

/-- KEYS_INFO starts. -/
def startInfo (j : Job) (s : State) : State :=
  let i := ownSlot s j.seat (j.f 0 0 16)
  match firstFail [
    (zeroFrom (j.w 0) 16 && i.isSome, .badArgument),
    (s.lc.state != lcScrapped, .state)] with
  | some st => refuseJob j st s
  | none => decideJob j .ok (wordsOf [infoOf (s.slot (i.getD 0))]) s

/-- KEYS_INFO (R231). -/
def execKeysInfo (s : State) : Host.Outcome State Fault Refusal := .next (runJob .keysInfo true startInfo s)

/-- KEYS_CERT_READ starts. -/
def startCertRead (j : Job) (s : State) : State :=
  let kind := j.f 0 0 8
  match firstFail [
    (zeroFrom (j.w 0) 8 && decide (0x11 ≤ kind) && decide (kind ≤ 0x15), .badArgument),
    (s.lc.state != lcScrapped && s.keys.rootLoaded && (certBytes s kind).isSome, .state)] with
  | some st => refuseJob j st s
  | none => storeJob j (j.w 1) (padTo 7492 ((certBytes s kind).getD [])) .ok (wordsOf [7492]) s

/-- KEYS_CERT_READ (R226). -/
def execKeysCertRead (s : State) : Host.Outcome State Fault Refusal := .next (runJob .keysCertRead true startCertRead s)

/-- KEYS_ROOT_PROVISION starts: the drawn secrets, the region digest and the lock are burned as one run of words
(R218). -/
def startRootProvision (j : Job) (s : State) : State :=
  match firstFail [
    (isHmb j.seat, .denied),
    (roleOf s j.seat == .maker, .denied),
    (s.lc.state == lcTest && !s.keys.held && regionState s 4 == .opened
      && (List.range 128).all (fun i => otpLive s (0x200 + i) == (0, 0)), .state)] with
  | some st => refuseJob j st s
  | none =>
    let (x, s) := drawBytes 128 s
    let value (i : Nat) : Word := word (getLe x (8 * i) 8)
    let f (a : Nat) : Reads :=
      if 0x200 ≤ a ∧ a < 0x210 then (codeword (value (a - 0x200)), codeword (value (a - 0x200))) else otpLive s a
    let d := bvBytes (regionDigest f 4)
    let secrets : List WordBurn := (List.range 16).map (fun i => { addr := 0x200 + i, want := codeword (value i) })
    let digest : List WordBurn := (List.range 3).map (fun i =>
      { addr := 0x91 + i, want := codeword (word (getLe d (8 * i) 8)) })
    queueBurn { owner := .job j.id, seat := stampOf j.seat, todo := secrets ++ digest ++ [{ addr := 0x90, want := 0xFFFF }] } s

/-- The secrets are burned: step 4 of R218. An erasure that has begun meanwhile leaves nothing to derive (R205). -/
def endRootProvision (j : Job) (e : BurnEnd) (s : State) : State :=
  let s := refreshRegion 4 s
  if e.status ≠ .ok then failJob j e.status s
  else if s.keys.held || s.lc.hold then refuseJob j .state s
  else
    let live (a : Nat) : Bytes := ((List.range 8).map (fun i => wordBytes (resolve (a + i) (otpLive s (a + i))).1)).flatten
    let s := { s with keys := { s.keys with root0 := live 0x200, root1 := live 0x208, rootLoaded := true } }
    let s := issueCert 0x15 (issueCert 0x14 (issueCert 0x10 (deriveFixed s)))
    let out := [0x10, 0x14, 0x15].map (fun k => padTo 7492 ((certBytes s k).getD [])) |>.flatten
    storeJob j (j.w 0) out .ok (wordsOf [3]) s

/-! ## Registers (R241) -/

/-- Free allocatable slots. -/
def freeSlots (s : State) : Nat := ((indices 256).filter (fun i => 32 ≤ i.val && !(s.slot i).used)).length

/-- KEYS_STATUS (Table 7-14). -/
def keysStatus (s : State) : Word :=
  let k := s.keys
  word ((if k.drbgOk then freeSlots s else 0) * 2 ^ 56 + bit k.drbgOk * 2 ^ 5 + bit k.endorsed * 2 ^ 4
    + bit k.l1Done * 2 ^ 3 + bit k.l0Done * 2 ^ 2 + bit k.rootLoaded * 2 + bit k.held)

/-- KEYS_LAYERS (Table 7-14). -/
def keysLayers (k : Keys) : Word :=
  word (k.family.toNat * 2 ^ 48 + k.romBound.toNat * 2 ^ 40 + k.svn1.toNat * 2 ^ 16 + k.svn0.toNat)

/-- Code of a link state (Table 7-15). -/
def LinkMode.code : LinkMode → Nat
  | .noKey => 0 | .exchange => 1 | .keyed => 2 | .failed => 3 | .stopped => 4 | .disabled => 5

/-- KEYS_LINKk (Table 7-15). -/
def linkWord (l : Link) : Word :=
  word (l.epoch.toNat * 2 ^ 48 + l.uses.toNat * 2 ^ 40 + l.fails.toNat * 2 ^ 32 + fld l.peer 0 24 * 2 ^ 8 + l.mode.code)

/-- Value of a KEYS register (Table 7-13). -/
def readKeys (off : Nat) (s : State) : Word :=
  match off with
  | 0x00 => keysStatus s
  | 0x08 => keysLayers s.keys
  | _ => if 0x10 ≤ off ∧ off < 0x40 then linkWord s.keys.links[Fin.ofNat 6 ((off - 0x10) / 8)] else 0

end Sys2Proof.Machine
end

