-- ==== Sys2Proof/Machine/Links.lean ====
section
/-! DEFINITION. Link session keys (R83 to R85, R235 to R239, R242): the exchange of each torus port, the key delivery
bus, rotation, and KEYS_LINK_RESTART. -/

namespace Sys2Proof.Machine

/-- One link. -/
def State.link (s : State) (k : Port) : Link := s.keys.links[k]

/-- KEYS runs. -/
def keysUp (s : State) : Bool := ctrlUp s && !engInReset s .keys

/-- The port may carry exchanges: fw_link_enable, a range and an identifier (R235). -/
def linkConfigured (s : State) (k : Port) : Bool :=
  s.fw.linkEnable.getLsbD k.val && s.boot.cfg.exchangeBase != 0 && s.boot.cfg.installId.any (· != 0)

/-- Limcy can run exchanges now (R227, R55). -/
def exchangeReady (s : State) : Bool :=
  keysUp s && s.core.startDone && s.keys.endorsed && s.keys.rootLoaded && !s.keys.held && !pkeOut s && !engInReset s .pke

/-- The slots of a port's link secret and ephemerals (Table 7-5). -/
def secretSlot (k : Port) : Nat := 12 + k.val
def ephemeralSlot (k : Port) : Nat := 18 + k.val

/-- A port holds a link secret. -/
def hasSecret (s : State) (k : Port) : Bool := (s.slot (Fin.ofNat 256 (secretSlot k))).used

/-- Zeroize an internal slot. -/
def zeroSlot (i : Nat) (s : State) : State :=
  let z (k : KeySlot) : KeySlot := if k.used then freeSlot k else k
  s.modSlot (Fin.ofNat 256 i) z

/-! ## Key delivery (R83 to R85) -/

/-- Put a message on a port's delivery queue; the first one goes out at once. -/
def kdSend (k : Port) (m : KdMsg) (s : State) : State :=
  let l := s.link k
  let s := s.modLink k (fun l => { l with kd := l.kd ++ [m] })
  if l.kd.isEmpty then emit (.keyMessage k m) (s.modLink k (fun l => { l with attempts := 1 })) else s

/-- The head message is done; the next one goes out. -/
def kdNext (k : Port) (s : State) : State :=
  match (s.link k).kd with
  | _ :: m :: ms => emit (.keyMessage k m) (s.modLink k (fun l => { l with kd := m :: ms, attempts := 1 }))
  | _ => s.modLink k (fun l => { l with kd := [], attempts := 0 })

/-- Operation 0x02 (Table 2-12). -/
def clearMsg : KdMsg := { op := 2 }

/-- Limcy clears a port's keys: messages not yet sent are dropped, operation 0x02 follows, and a HELLO is due at the
first LOCKED beat after it (R237). -/
def clearPort (k : Port) (s : State) : State :=
  let s := s.modLink k (fun l => { l with
    kd := l.kd.take 1, next := none, exch := none, lastHello := none, epoch := 0, uses := 0,
    mode := if l.mode = .disabled ∨ l.mode = .stopped then l.mode else .noKey })
  kdSend k clearMsg (zeroSlot (ephemeralSlot k) (zeroSlot (secretSlot k) s))

/-- A delivery fails its third attempt (R85): operation 0x02 goes to the port, the failure is recorded, and the LINK
source set. An operation 0x02 that fails is sent again in the same way. -/
def kdGiveUp (k : Port) (s : State) : State :=
  let s := raiseCore irqLink (record { code := 0x0C03, object := word k.val } s)
  match (s.link k).kd with
  | m :: _ =>
    if m.op = 1 then clearPort k (s.modLink k (fun l => { l with kd := [] }))
    else emit (.keyMessage k m) (s.modLink k (fun l => { l with attempts := 1 }))
  | [] => s

/-- kd_nack, or no answer within 2 µs: the message is sent twice more (R85). -/
def kdFail (k : Port) (s : State) : State :=
  let l := s.link k
  match l.kd with
  | [] => s
  | m :: _ =>
    if l.attempts < 3 then emit (.keyMessage k m) (s.modLink k (fun l => { l with attempts := l.attempts + 1 }))
    else kdGiveUp k s

/-- KD_NACK (R85). In Watch the bus is idle (R102). -/
def execKdNack (k : Port) (s : State) : Host.Outcome State Fault Refusal :=
  if inWatch s then .fault .portIdle else .next (if ctrlUp s then kdFail k s else s)

/-- KD_ACK_TIMEOUT (R85): 2 µs after word 5. -/
def execKdAckTimeout (k : Port) (s : State) : Host.Outcome State Fault Refusal :=
  .next (if ctrlUp s then kdFail k { s with now := s.now + 2 * Config.microsecond } else s)

/-! ## Keys from a link secret (R238) -/

/-- E of the initial keys. -/
def initialE : Nat := 2 ^ 40 - 1

/-- K(dir, E). -/
def linkKey (secret : Bytes) (dir e : Nat) : Bytes := kdf secret "LINK-K" (leBytes 1 dir ++ leBytes 5 e) 32

/-- This device has the lower serial of the two. -/
def lowerSerial (s : State) (peer : Word) : Bool := decide ((serial s).toNat < peer.toNat)

/-- Install the transmit and receive keys of E for switch beat b (R238). -/
def installKeys (k : Port) (b : Word) (e : Nat) (s : State) : State :=
  let secret := slotBytes s (secretSlot k)
  let low := lowerSerial s (s.link k).peer
  let msg (rx : Bool) : KdMsg := {
    op := 1, dir := if rx then 1 else 0, epoch := BitVec.ofNat 16 e,
    key := linkKey secret (if low == rx then 1 else 0) e, switchBeat := b }
  kdSend k (msg true) (kdSend k (msg false) (s.modLink k (fun l => { l with next := some { beat := b, e := e } })))

/-- A fresh install for each link that holds an unswitched next key, 65,536 beats after the present one (R151, R153). -/
def reinstallLinks (s : State) : State :=
  (indices 6).foldl (fun s k =>
    match (s.link k).next with
    | some x => if keysUp s then installKeys k (s.beat.lbeat + 0x10000) x.e s else s
    | none => s) s

/-- LINK_KEY_INSTALL (R238, R149, Table 4-5): at the next rotation beat less 65,536. Not LOCKED, or too late for R85,
the rotation is passed over; at 255 uses the port is cleared in its place. -/
def linkKeyInstall (k : Port) (s : State) : State :=
  let l := s.link k
  let b := l.rot * 2 ^ 24
  if keysUp s && hasSecret s k && !pkeOut s && decide (b ≤ lbeat s + 0x10000) then
    let s := s.modLink k (fun l => { l with rot := l.rot + 1 })
    if s.beat.mode ≠ .locked ∨ b < lbeat s + 4096 then s
    else if l.uses = 255 then clearPort k s
    else installKeys k (word b) l.rot s
  else s

/-- LINK_KEY_INSTALL. -/
def execLinkKeyInstall (k : Port) (s : State) : Host.Outcome State Fault Refusal := .next (linkKeyInstall k s)

/-! ## The exchange (R236, R237) -/

/-- Base of the exchange range for frames of a port: in, or out. -/
def frameBase (s : State) (k : Port) (outward : Bool) : Word :=
  s.boot.cfg.exchangeBase + word (0x8000 * k.val + if outward then 0x40000 else 0)

/-- The frame header (Table 7-9). -/
def frameHeader (type : Nat) (k : Port) (len : Nat) (s : State) : Bytes :=
  [0x4C#8] ++ leBytes 1 type ++ leBytes 1 k.val ++ [0x01#8] ++ leBytes 4 len ++ wordBytes (serial s)

/-- Build a frame in the range; the doorbell follows its completion. -/
def sendFrame (k : Port) (frame : Bytes) (s : State) : State :=
  issue { write := true, addr := frameBase s k true, len := frame.length, data := frame, owner := .linkFrame k } s

/-- Ring the port's transmit doorbell (R235). -/
def ringDoorbell (k : Port) (len : Nat) (s : State) : State :=
  let data := Config.linkDoorbellData k len
  issue { write := true, addr := Config.linkDoorbell k, len := data.length, data := data, owner := .linkDoorbell k } s

/-- The identity area of the flash: maker role keys and endorsement (R227). -/
def identityArea (s : State) : Bytes := memRead 0xFF s.boot.flash 0x80000 10181

/-- The first six fields of a HELLO or REPLY, with the nonce given. -/
def helloFields (nonce : Bytes) (s : State) : Bytes :=
  padTo 16 s.boot.cfg.installId ++ wordBytes s.beat.lbeat ++ nonce ++ identityArea s
    ++ padTo 7492 ((certBytes s 0x14).getD [])

/-- P-384 scalar of drawn bytes. -/
def drawScalar (x : Bytes) : Nat := scalarOf p384.n (beNat x)

/-- Start an exchange: send a HELLO (R237 step 1). -/
def sendHello (k : Port) (s : State) : State :=
  let (nonce, s) := drawBytes 32 s
  let (x, s) := drawBytes 56 s
  let (seed, s) := drawBytes 64 s
  let frame := frameHeader 1 k 19410 s ++ helloFields nonce s ++ padTo 97 (ecPublic p384 (drawScalar x))
    ++ padTo 1568 (Config.mlkemPublic seed)
  let s := setInternal (ephemeralSlot k) x clsUse s
  let start (l : Link) : Link :=
    { l with exch := some { initiator := true, start := s.beat.lbeat, hello := frame, secret := seed },
             lastHello := some s.beat.lbeat, mode := if l.mode = .keyed then .keyed else .exchange }
  sendFrame k frame (s.modLink k start)

/-- An exchange of a port fails: FAILS, an event record, and STOPPED at the eighth in a row with a heartwood record
(R237). -/
def failExchange (k : Port) (s : State) : State :=
  let fail (l : Link) : Link :=
    let f := satInc l.fails
    { l with fails := f, exch := none,
             mode := if 8 ≤ f.toNat then .stopped else if l.mode = .keyed then .keyed else .failed }
  let s := record { code := 0x0C03, object := word k.val } (zeroSlot (ephemeralSlot k) (s.modLink k fail))
  if (s.link k).fails.toNat = 8 then
    raiseCore irqLink (hwNote 0x0090 (leBytes 1 k.val ++ leBytes 3 (s.link k).peer.toNat) s)
  else s

/-- Send a REJECT and count the failed exchange (R237). -/
def rejectFrame (k : Port) (reason : Nat) (s : State) : State :=
  failExchange k (sendFrame k (frameHeader 4 k 24 s ++ leBytes 8 reason) s)

/-- The acceptance rules on a HELLO or REPLY (R237); the reason of the first one broken. -/
def acceptance (k : Port) (f : Bytes) (s : State) : Option Nat :=
  let keys := slice f 72 2689
  let c11 := slice f 2761 7492
  let c14 := slice f 10253 7492
  let ser := slice f 8 8
  let chain := bvBytes (Config.sha3_384 keys) == fuseBytes s 0x1B0 6
    && c11.take 2 == [0x01#8, 0x11#8] && c14.take 2 == [0x01#8, 0x14#8]
    && dualVerify (keys.take 97) (keys.drop 97) (c11.take 2769) (c11.drop 2769) && slice c11 4 8 == ser
    && dualVerify (slice c11 80 97) (slice c11 177 2592) (c14.take 2769) (c14.drop 2769) && slice c14 4 8 == ser
  let b := getLe f 32 8
  if getLe f 2 1 ≠ (k.val ^^^ 1) then some 5
  else if slice f 16 16 ≠ padTo 16 s.boot.cfg.installId then some 1
  else if !chain then some 2
  else if s.beat.mode ≠ .locked ∨ b > lbeat s + 0x10000 ∨ lbeat s > b + 0x10000 then some 4
  else none

/-- Serial in a frame's header. -/
def frameSerial (f : Bytes) : Word := word (getLe f 8 8)

/-- A dual signature in a frame by the link identity keys of a kind 0x14 certificate. -/
def linkSigOk (c14 h sig : Bytes) : Bool := dualVerify (slice c14 80 97) (slice c14 177 2592) h sig

/-- H1 and H2 (R236). -/
def linkH1 (hello reply : Bytes) : Bytes := bvBytes (Config.sha3_384 (hello ++ reply.take 19410))
def linkH2 (hello reply finish : Bytes) : Bytes := bvBytes (Config.sha3_384 (hello ++ reply ++ finish.take 24))

/-- Answer a HELLO with a REPLY (R237 step 2). -/
def sendReply (k : Port) (hello : Bytes) (s : State) : State :=
  let (nonce, s) := drawBytes 32 s
  let (x, s) := drawBytes 56 s
  let (m, s) := drawBytes 32 s
  let peerEc := slice hello 17745 97
  let enc := Config.mlkemEncaps (slice hello 17842 1568) m
  let body := frameHeader 2 k 24133 s ++ helloFields nonce s ++ padTo 97 (ecPublic p384 (drawScalar x))
    ++ padTo 1568 enc.1
  let (sig, s) := dualSign (slotBytes s 10) (slotBytes s 11) (linkH1 hello body) s
  let shared := padTo 48 (ecdhX p384 (drawScalar x) peerEc) ++ padTo 32 enc.2
  let start (l : Link) : Link :=
    { l with exch := some { initiator := false, start := s.beat.lbeat, hello := hello, reply := body ++ sig,
                            secret := shared },
             peer := frameSerial hello, mode := if l.mode = .keyed then .keyed else .exchange }
  sendFrame k (body ++ sig) (s.modLink k start)

/-- Both sides: S is stored, the initial keys are installed for B0, and the rotations that follow are those at least
65,536 beats after B0 (R237 step 5, R238). -/
def finishExchange (k : Port) (ss h2 : Bytes) (b0 : Word) (s : State) : State :=
  let s := setInternal (secretSlot k) (kdf ss "LINK-S" h2 64) clsSealed (zeroSlot (ephemeralSlot k) s)
  let s := s.modLink k (fun l => { l with
    exch := none, fails := 0, rot := (b0.toNat + 0x10000 + 0xFFFFFF) / 2 ^ 24 })
  installKeys k b0 initialE s

/-- Send the FINISH (R237 step 3). -/
def sendFinish (k : Port) (x : Exchange) (reply : Bytes) (s : State) : State :=
  let b0 := s.beat.lbeat + 8192
  let body := frameHeader 3 k 4747 s ++ wordBytes b0
  let h2 := linkH2 x.hello reply body
  let (sig, s) := dualSign (slotBytes s 10) (slotBytes s 11) h2 s
  let ec := drawScalar (slotBytes s (ephemeralSlot k))
  let ss := padTo 48 (ecdhX p384 ec (slice reply 17745 97))
    ++ padTo 32 (Config.mlkemDecaps x.secret (slice reply 17842 1568))
  let s := s.modLink k (fun l => { l with peer := frameSerial reply })
  finishExchange k ss h2 b0 (sendFrame k (body ++ sig) s)

/-- The ephemeral P-384 key of a HELLO or REPLY is valid. -/
def ephemeralOk (f : Bytes) : Bool := pointOk (p384) (slice f 17745 97)

/-- A HELLO's ML-KEM key is valid. -/
def helloKemOk (f : Bytes) : Bool := Config.mlkemKeyOk (slice f 17842 1568)

/-- A received HELLO (R237 step 2, R239). -/
def onHello (k : Port) (f : Bytes) (s : State) : State :=
  let l := s.link k
  let mine := match l.exch with
    | some x => x.initiator
    | none => false
  match acceptance k f s with
  | some r =>
    let s := sendFrame k (frameHeader 4 k 24 s ++ leBytes 8 r) s
    if mine then (failExchange k s).modLink k (fun l' => { l' with exch := l.exch, mode := if l'.mode = .failed then .exchange else l'.mode })
    else failExchange k s
  | none =>
    if mine && lowerSerial s (frameSerial f) then s
    else if !(ephemeralOk f && helloKemOk f) then rejectFrame k 3 s
    else sendReply k f s

/-- A received REPLY (R237 step 3). -/
def onReply (k : Port) (f : Bytes) (s : State) : State :=
  match (s.link k).exch with
  | none => s
  | some x =>
    if !x.initiator then s
    else
      match acceptance k f s with
      | some r => rejectFrame k r s
      | none =>
        if linkSigOk (slice f 10253 7492) (linkH1 x.hello f) (slice f 19410 4723) && ephemeralOk f then
          sendFinish k x f s
        else rejectFrame k 3 s

/-- A received FINISH (R237 step 4). A switch beat that leaves no 4,096 beats for the install (R85) is refused for its
beat. -/
def onFinish (k : Port) (f : Bytes) (s : State) : State :=
  match (s.link k).exch with
  | none => s
  | some x =>
    if x.initiator then s
    else
      let h2 := linkH2 x.hello x.reply f
      if getLe f 2 1 ≠ (k.val ^^^ 1) then rejectFrame k 5 s
      else if !linkSigOk (slice x.hello 10253 7492) h2 (slice f 24 4723) then rejectFrame k 3 s
      else if getLe f 16 8 < lbeat s + 4096 then rejectFrame k 4 s
      else finishExchange k x.secret h2 (word (getLe f 16 8)) s

/-- A received REJECT ends the exchange as a failure. -/
def onReject (k : Port) (_ : Bytes) (s : State) : State :=
  if (s.link k).exch.isSome then failExchange k s else s

/-- Type byte and length of the frames (Table 7-10). -/
def frameLength (type : Nat) : Nat :=
  match type with
  | 1 => 19410 | 2 => 24133 | 3 => 4747 | 4 => 24 | _ => 0

/-- The header of a frame is of its type and length. -/
def frameOk (type : Nat) (f : Bytes) : Bool :=
  getLe f 0 1 == 0x4C && getLe f 1 1 == type && getLe f 3 1 == 1 && getLe f 4 4 == frameLength type
    && f.length == frameLength type

/-- The frame of a port is taken when it is of this type; STOPPED and DISABLED ports take none (R237, R235). -/
def onFrame (type : Nat) (k : Port) (go : Port → Bytes → State → State) (s : State) : State :=
  match (s.link k).frame with
  | none => s
  | some f =>
    if !frameOk type f || !exchangeReady s then s
    else
      let s := s.modLink k (fun l => { l with frame := none, reading := false })
      if (s.link k).mode = .stopped ∨ (s.link k).mode = .disabled then s else go k f s

/-- LINK_HELLO, LINK_REPLY, LINK_FINISH, LINK_REJECT (R237). -/
def execLinkHello (k : Port) (s : State) : Host.Outcome State Fault Refusal := .next (onFrame 1 k onHello s)
/-- LINK_REPLY (R237). -/
def execLinkReply (k : Port) (s : State) : Host.Outcome State Fault Refusal := .next (onFrame 2 k onReply s)
/-- LINK_FINISH (R237). -/
def execLinkFinish (k : Port) (s : State) : Host.Outcome State Fault Refusal := .next (onFrame 3 k onFinish s)
/-- LINK_REJECT (R237). -/
def execLinkReject (k : Port) (s : State) : Host.Outcome State Fault Refusal := .next (onFrame 4 k onReject s)

/-- A HELLO is due (R237 step 1): the port is not KEYED and not STOPPED, or its secret has 240 uses (R238). -/
def helloDue (s : State) (k : Port) : Bool :=
  let l := s.link k
  let wants := match l.mode with
    | .noKey | .exchange | .failed => true
    | .keyed => decide (240 ≤ l.uses.toNat) && l.exch.isNone
    | .stopped | .disabled => false
  wants && exchangeReady s && s.beat.mode == .locked && (match l.lastHello with
    | none => true
    | some b => decide (b.toNat + 0x10000 ≤ lbeat s))

/-- LINK_HELLO_TIMER (R237 step 1). -/
def execLinkHelloTimer (k : Port) (s : State) : Host.Outcome State Fault Refusal :=
  .next (if helloDue s k then sendHello k s else s)

/-- LINK_EXCHANGE_TIMEOUT (R237): 2^14 beats after the HELLO. -/
def execLinkExchangeTimeout (k : Port) (s : State) : Host.Outcome State Fault Refusal :=
  .next (match (s.link k).exch with
    | some x => if keysUp s && decide (x.start.toNat + 0x4000 ≤ lbeat s) then failExchange k s else s
    | none => s)

/-- LINK_KEY_SWITCH (R84, R238): the next key becomes the current one. With PKE out of service a link whose rotation
beat comes without a next key stops (Table 1-15). -/
def linkKeySwitch (k : Port) (s : State) : State :=
  let l := s.link k
  match l.next with
  | some x =>
    if keysUp s && decide (x.beat.toNat ≤ lbeat s) then
      let switch (l : Link) : Link :=
        { l with next := none, epoch := BitVec.ofNat 16 x.e, uses := if x.e = initialE then 0 else satInc l.uses,
                 mode := if l.mode = .stopped ∨ l.mode = .disabled then l.mode else .keyed }
      let s := s.modLink k switch
      if (s.link k).uses = 240 && s.beat.mode == .locked && exchangeReady s && (s.link k).exch.isNone then sendHello k s
      else s
    else s
  | none =>
    if keysUp s && hasSecret s k && pkeOut s && decide (l.rot * 2 ^ 24 ≤ lbeat s) then clearPort k s else s

/-- LINK_KEY_SWITCH. -/
def execLinkKeySwitch (k : Port) (s : State) : Host.Outcome State Fault Refusal := .next (linkKeySwitch k s)

/-! ## The receive doorbell (R235, R241) -/

/-- A write of KEYS_LINK_RX by seat 67. -/
def linkDoorbellWrite (data : Word) (s : State) : State :=
  let p := fld data 16 3
  let len := fld data 0 16
  let note (s : State) : State := record { code := 0x0C03, seat := 67, object := word p } s
  if p ≥ 6 ∨ len < 24 ∨ len > 32768 then note s
  else
    let k : Port := Fin.ofNat 6 p
    if !linkConfigured s k then s
    else if (s.link k).reading || (s.link k).frame.isSome then note s
    else issue { addr := frameBase s k false, len := len, owner := .linkFrame k }
      (s.modLink k (fun l => { l with reading := true }))

/-- A frame has been read. One whose header is none of Table 7-9 and 7-10 is dropped and recorded. -/
def frameRead (k : Port) (data : Bytes) (s : State) : State :=
  if [1, 2, 3, 4].any (fun t => frameOk t data) then s.modLink k (fun l => { l with reading := false, frame := some data })
  else record { code := 0x0C03, object := word k.val } (s.modLink k (fun l => { l with reading := false, frame := none }))

/-! ## KEYS_LINK_RESTART -/

/-- Restart a port's exchange: FAILS is cleared and a HELLO sent at once, or at the first LOCKED beat (R237, R242). -/
def restartLink (k : Port) (s : State) : State :=
  let s := zeroSlot (ephemeralSlot k) (s.modLink k (fun l => { l with
    fails := 0, exch := none, lastHello := none,
    mode := if l.next.isNone && !hasSecret s k then .noKey else if l.mode = .stopped then .keyed else l.mode }))
  if exchangeReady s && s.beat.mode == .locked then sendHello k s else s

/-- Ports a mask names that are not DISABLED. -/
def restartPorts (s : State) (mask : Nat) : List Port :=
  (indices 6).filter (fun k => mask.testBit k.val && (s.link k).mode != .disabled)

/-- KEYS_LINK_RESTART starts. -/
def startLinkRestart (j : Job) (s : State) : State :=
  let role := roleOf s j.seat
  match firstFail [
    (isHmb j.seat, .denied),
    (zeroFrom (j.w 0) 6, .badArgument),
    (role == .installer || role == .operator, .denied),
    (s.lc.state == lcIntegration || s.lc.state == lcFielded, .state)] with
  | some st => refuseJob j st s
  | none =>
    let ps := restartPorts s (j.f 0 0 6)
    let s := ps.foldl (fun s k => restartLink k s) s
    decideJob j .ok (wordsOf [word (ps.foldl (fun a k => a + 2 ^ k.val) 0)]) s

/-- KEYS_LINK_RESTART (R233, R237). -/
def execKeysLinkRestart (s : State) : Host.Outcome State Fault Refusal :=
  .next (runJob .keysLinkRestart true startLinkRestart s)

/-- The reset of KEYS abandons each exchange and restarts it at once, uncounted (R242). -/
def restartExchanges (s : State) : State :=
  (indices 6).foldl (fun s k =>
    if (s.link k).exch.isSome then
      let s := zeroSlot (ephemeralSlot k) (s.modLink k (fun l => { l with exch := none, lastHello := none }))
      if exchangeReady s && s.beat.mode == .locked then sendHello k s else s
    else s) s

/-- The links as a start finds them (R235): DISABLED or without keys. -/
def freshLinks (s : State) : State :=
  { s with keys := { s.keys with
    links := Vector.ofFn (fun (k : Fin 6) => { mode := if linkConfigured s k then .noKey else .disabled : Link }) } }

end Sys2Proof.Machine
end

