-- ==== Sys2Proof/Machine/Swap.lean ====
section
/-! DEFINITION. Firebreak entries and the firebreak configuration bus (R86 to R89, R362, R367, R368, R370): tables and
their CRC, shadow CRC, arming and disarming of a swap. -/

namespace Sys2Proof.Machine

/-! ## Entries (Table 12-2) -/

/-- A firebreak entry as its 16-byte value. -/
abbrev FbEntry := BitVec 128

/-- BASE and LAST, in pages. -/
def entryBase (e : FbEntry) : Nat := bits e.toNat 84 32
def entryLast (e : FbEntry) : Nat := bits e.toNat 52 32
/-- KIND: 1 partition, 2 system, 3 Limcy, 4 departed. -/
def entryKind (e : FbEntry) : Nat := bits e.toNat 49 3
/-- OWNER. -/
def entryOwner (e : FbEntry) : Nat := bits e.toNat 43 6
/-- The R, W, X and LINK rights. -/
def entryRead (e : FbEntry) : Bool := e.getLsbD 42
def entryLink (e : FbEntry) : Bool := e.getLsbD 39
/-- SEALED and CONF. -/
def entrySealed (e : FbEntry) : Bool := e.getLsbD 38
def entryConf (e : FbEntry) : Bool := e.getLsbD 37
/-- Reserved bits are zero. -/
def entryReservedOk (e : FbEntry) : Bool := bits e.toNat 0 37 == 0 && bits e.toNat 116 12 == 0

/-- A table: entry by index; an index that is not listed holds 0. -/
abbrev FbTable := List (Nat × FbEntry)

/-- An entry of partition n. -/
def entryOf (n : Part) (e : FbEntry) : Bool := entryKind e == 1 && entryOwner e == n.val

/-- The 65,536 bytes of a table (R88). -/
def tableBytes (t : FbTable) : Bytes := ((List.range 4096).map (fun i => leBytes 16 (memGet 0 t i).toNat)).flatten

/-- CRC-32C of a table. -/
def tableCrc (t : FbTable) : BitVec 32 := crc32c (tableBytes t)

/-- Entries of partition n in ascending BASE. -/
def entriesOf (t : FbTable) (n : Part) : List FbEntry :=
  ((t.filter (fun e => entryOf n e.2)).map (·.2)).mergeSort (fun a b => decide (entryBase a ≤ entryBase b))

/-- The firebreak digest of n (R365). -/
def fbDigest (t : FbTable) (n : Part) : BitVec 384 :=
  Config.sha3_384 ([0x46#8, BitVec.ofNat 8 n.val] ++ ((entriesOf t n).map (fun e => leBytes 16 e.toNat)).flatten)

/-! ## Units (R367) -/

/-- Units named by two integrator words. -/
def unitsOf (s : State) (a : Nat) : List Unit7 :=
  (indices 128).filter (fun u =>
    if u.val < 64 then (fuse s a).getLsbD u.val else (fuse s (a + 1)).getLsbD (u.val - 64))

/-- Firewall units present. -/
def unitsPresent (s : State) : List Unit7 := unitsOf s 0x704
/-- Memory-controller units. -/
def memUnits (s : State) : List Unit7 := unitsOf s 0x706

/-! ## Requests (Table 2-14) -/

/-- A broadcast request. -/
def fbAll (op : Nat) (data : Nat) (s : State) : State :=
  emit (.firebreak none (BitVec.ofNat 4 op) (BitVec.ofNat 128 data)) s

/-- WRITE_SHADOW of one entry. -/
def fbWriteEntry (i : Nat) (e : FbEntry) (s : State) : State := fbAll 1 (i * 2 ^ 116 + e.toNat % 2 ^ 116) s

/-- WRITE_SHADOW of the whole shadow copy. -/
def fbWriteShadow (s : State) : State :=
  (List.range 4096).foldl (fun s i => fbWriteEntry i (memGet 0 s.part.shadow i) s) s

/-- READ_BLOCKED to every unit for a partition. -/
def readBlocked (n : Part) (s : State) : State :=
  (unitsPresent s).foldl (fun s u =>
    emit (.firebreak (some u) 7 (BitVec.ofNat 128 n.val))
      { s with part := { s.part with polls := s.part.polls ++ [(u, n)] } }) s

/-- The partitions that departed entries of a table name. -/
def departedOwners (t : FbTable) : List Part :=
  (indices 64).filter (fun n => t.any (fun e => entryKind e.2 == 4 && entryOwner e.2 == n.val))

/-! ## A swap in progress -/

/-- Change the swap in progress. -/
def modSwap (f : Swap → Swap) (s : State) : State := { s with part := { s.part with swap := s.part.swap.map f } }

/-- A swap ends before its beat: the job completes with ST_STATE and the session stays open; a teardown tries again
from the given beat (R370, R371). -/
def dropSwap (retry : Nat) (s : State) : State :=
  match s.part.swap with
  | none => s
  | some w =>
    let s := { s with part := { s.part with swap := none } }
    match w.teardown with
    | some n => { s with part := { s.part with retryAt := some (n, word retry) } }
    | none =>
      match w.job.bind s.job? with
      | some j => finishJob j .state noWords s
      | none => s

/-- DISARM is broadcast and the armed swap ends (R88, R150). -/
def disarmSwap (s : State) : State := dropSwap (lbeat s) (fbAll 5 0 s)

/-- R150: DISARM for an armed swap that no unit has answered with 0x8 or 0x9. -/
def disarmUnanswered (s : State) : State :=
  match s.part.swap with
  | some w => if w.phase = .armed && w.swapped.isEmpty && !w.adopted then disarmSwap s else s
  | none => s

/-- Every unit present is in a list. -/
def allUnits (s : State) (us : List Unit7) : Bool := (unitsPresent s).all (fun u => us.contains u)

/-- ARM with the swap beat, at least 256 beats ahead and LOCKED (R88, R149); otherwise the swap fails as for a late
unit. Before a departed entry leaves the table every departed owner is polled (R375). -/
def armSwap (w : Swap) (s : State) : State :=
  if s.beat.mode ≠ .locked ∨ w.beat.toNat < lbeat s + 256 then dropSwap (lbeat s) s
  else
    let leaves := s.part.active.any (fun e => entryKind e.2 == 4 && !s.part.shadow.any (fun x => x.2 == e.2))
    let s := if leaves then (departedOwners s.part.active).foldl (fun s n => readBlocked n s) s else s
    fbAll 4 w.beat.toNat { s with part := { s.part with swap := some { w with phase := .armed, answered := [] } } }

/-- Ask every unit for its shadow CRC (R368 step 3); with no unit present there is nothing to wait for. -/
def askCrc (w : Swap) (s : State) : State :=
  let s := fbAll 3 0 { s with part := { s.part with swap := some { w with phase := .crc, answered := [] } } }
  if (unitsPresent s).isEmpty then armSwap w s else s

/-- The second CRC mismatch (R368 step 3, R371 step 3). -/
def crcFailed (w : Swap) (s : State) : State :=
  let s := match w.teardown with
    | some n => record { code := 0x0E03, part := BitVec.ofNat 8 n.val, object := word n.val } s
    | none => s
  dropSwap (lbeat s + 1024) s

/-- A unit's shadow CRC (R368 step 3): when all have answered, the swap is armed, or the shadow is rewritten once. -/
def shadowCrc (u : Unit7) (crc : BitVec 32) (s : State) : State :=
  match s.part.swap with
  | none => s
  | some w =>
    if w.phase ≠ .crc || !(unitsPresent s).contains u || w.answered.contains u then s
    else
      let w := { w with answered := u :: w.answered, differs := w.differs || crc != tableCrc s.part.shadow }
      if !allUnits s w.answered then { s with part := { s.part with swap := some w } }
      else if !w.differs then armSwap w s
      else if w.rewritten then crcFailed w s
      else askCrc { w with rewritten := true, differs := false } (fbWriteShadow s)

/-- An answer on the firebreak bus; in Watch the bus is idle (R102). -/
def fbAnswer (f : State → State) (s : State) : Host.Outcome State Fault Refusal :=
  if inWatch s then .fault .portIdle else .next (if ctrlUp s then f s else s)

/-- FB_SHADOW_CRC_RESPONSE (R368). -/
def execFbShadowCrcResponse (u : Unit7) (crc : BitVec 32) (s : State) : Host.Outcome State Fault Refusal :=
  fbAnswer (shadowCrc u crc) s

/-- FB_ARMED (R88). -/
def execFbArmed (u : Unit7) (s : State) : Host.Outcome State Fault Refusal :=
  fbAnswer (modSwap (fun w => if w.phase = .armed ∧ !w.answered.contains u then
    { w with answered := u :: w.answered } else w)) s

/-- FB_LATE (R88): DISARM. -/
def execFbLate (u : Unit7) (s : State) : Host.Outcome State Fault Refusal :=
  fbAnswer (fun s => match s.part.swap with
    | some w => if w.phase = .armed && w.swapped.isEmpty && !w.adopted && (unitsPresent s).contains u then disarmSwap s
      else s
    | none => s) s

/-- FB_ARM_DEADLINE (R88): some unit has not answered by 32 beats before the swap beat. -/
def execFbArmDeadline (s : State) : Host.Outcome State Fault Refusal :=
  .next (match s.part.swap with
    | some w => if ctrlUp s && w.phase = .armed && w.swapped.isEmpty && !w.adopted && !allUnits s w.answered
        && decide (w.beat.toNat ≤ lbeat s + 32) then disarmSwap s else s
    | none => s)

/-- FB_DISARMED (R86): the answer to DISARM changes nothing in Limcy. -/
def execFbDisarmed (_u : Unit7) (s : State) : Host.Outcome State Fault Refusal := fbAnswer id s

end Sys2Proof.Machine
end

