-- ==== Sys2Proof/Machine/Beat.lean ====
section
/-! DEFINITION. Fabric beat (chapter 04): classification of edges, the four states, adoption, jumps and rebase, the
heartbeat and the heartwood checkpoint, and the BEAT registers. Times are in the units of `State.now`. -/

namespace Sys2Proof.Machine

/-- AON is out of reset. -/
def aonUp (s : State) : Bool := s.pins.porAonN && s.core.power != .off

/-- The period in units of `now`. -/
def periodTime (b : Beat) : Nat := b.period * Config.periodUnit

/-- How an arriving edge is classed (Table 4-3), with its slot count S and what the counters see. -/
structure EdgeClass where
  countOk : Bool
  intervalOk : Bool
  acqValid : Bool
  slot : Word
  inWindow : Bool
  onTime : Bool
  matching : Bool
  /-- the slot is the one LBEAT stands at, not the next one -/
  here : Bool
  /-- the edge arrives at or after the next predicted time -/
  late : Bool
  deriving DecidableEq, Repr

/-- |a - b| ≤ d. -/
def within (a b d : Nat) : Bool := a ≤ b + d && b ≤ a + d

/-- Class of an edge of this count that arrives at t with beat_lock as given (R140). -/
def classifyEdge (b : Beat) (count : Word) (lock : Bool) (t : Nat) : EdgeClass :=
  let here := (b.mode = .holdover || b.mode = .lost) && decide (2 * (t - b.tEdge) < periodTime b)
  let slot := if here then b.lbeat else b.lbeat + 1
  let predicted := if here then b.tEdge else b.tEdge + periodTime b
  let nominal := b.nominal.toNat * Config.periodUnit
  let countOk := match b.prev with
    | none => true
    | some e => b.missedSince || count == e.count + 1
  let intervalOk := match b.prev with
    | none => true
    | some e => b.missedSince || !e.valid || within (t - e.time) nominal (nominal / 5000)
  let acqValid := lock && countOk && intervalOk
  let inWindow := within t predicted (8 * Config.nanosecond)
  { countOk := countOk, intervalOk := intervalOk, acqValid := acqValid, slot := slot, inWindow := inWindow,
    onTime := acqValid && inWindow, matching := count == slot, here := here,
    late := decide (b.tEdge + periodTime b ≤ t) }

/-- OFFTIME and its total (Table 4-12). -/
def countOff (off : Bool) (b : Beat) : Beat :=
  if off then { b with offtime := satInc b.offtime, totOfftime := satInc b.totOfftime } else b

/-- BADCOUNT and its total (Table 4-12). -/
def countBad (bad : Bool) (b : Beat) : Beat :=
  if bad then { b with badcount := satInc b.badcount, totBadcount := satInc b.totBadcount } else b

/-- Counters of an arriving edge (Table 4-12). After missing edges the count is judged against the slot
(assumption entry 17). -/
def countEdge (b : Beat) (count : Word) (k : EdgeClass) : Beat :=
  countBad (if b.missedSince then count != k.slot else !k.countOk)
    (countOff (!k.intervalOk || (b.mode != .none && !k.inWindow)) b)

/-- ACQ and the times of the consecutive acquisition-valid edges, newest first (R141). -/
def countAcq (b : Beat) (t : Nat) (valid : Bool) : Beat :=
  if valid then { b with acq := min 16 (b.acq + 1), acqTimes := (t :: b.acqTimes).take 16 }
  else { b with acq := 0, acqTimes := [] }

/-- The gaps between neighbours of a list of times, newest first. -/
def gaps : List Nat → List Nat
  | a :: b :: ts => (a - b) :: gaps (b :: ts)
  | _ => []

/-- P as the mean of some intervals (R136). -/
def meanPeriod (is : List Nat) (old : Nat) : Nat :=
  if is.isEmpty then old else is.sum / is.length / Config.periodUnit

/-- An on-time edge after an on-time edge measures P (R136). An interval that spans missing edges is not one between
on-time edges (assumption entry 17). -/
def measureEdge (b : Beat) (t : Nat) (k : EdgeClass) : Beat :=
  match b.prev with
  | none => b
  | some e =>
    if k.onTime && (b.mode == .locked || (e.onTime && !b.missedSince && b.mode != .none)) then
      let is := ((t - e.time) :: b.onTime).take 16
      { b with onTime := is, period := meanPeriod is b.period }
    else b

/-- Take an adopting edge: its arrival time becomes t_edge and P the mean of the intervals between the 16
acquisition-valid edges (R142). -/
def adopt (b : Beat) (count : Word) (t : Nat) : Beat :=
  let is := gaps b.acqTimes
  { b with mode := .locked, lbeat := count, tEdge := t, onTime := is, period := meanPeriod is b.period,
           relock := 0, unlocked := 0, unjudged := false, arrived := false }

/-- Multiples of the beat-scheduled events counted from the beat of a new epoch (assumption entry 18). -/
def restartSchedule (b : Beat) : Beat :=
  { b with lastHb := b.lbeat.toNat / 2 ^ b.hbExp, lastCk := b.lbeat.toNat / 2 ^ b.ckExp,
           lastPoll := b.lbeat.toNat / 2 ^ 16, lastCredit := b.lbeat.toNat,
           lastDigest := b.lbeat.toNat / 2 ^ 24 }

/-- The predicted slot passes: LBEAT advances at its predicted time (R141). -/
def advanceSlot (b : Beat) : Beat :=
  { b with lbeat := b.lbeat + 1, tEdge := b.tEdge + periodTime b, unlocked := b.unlocked + 1,
           unjudged := !b.arrived, arrived := false }

/-- Enter HOLDOVER from LOCKED (Table 4-4). -/
def enterHoldover (b : Beat) : Beat :=
  { b with mode := .holdover, acq := 0, acqTimes := [], relock := 0, unlocked := 0, unjudged := false,
           arrived := false }

/-- LOST after 64 predicted edges without relock (Table 4-4); an armed swap is disarmed (R150). -/
def loseIf (s : State) : State :=
  if s.beat.mode = .holdover && 64 ≤ s.beat.unlocked then
    disarmUnanswered (raiseCore irqBeat { s with beat := { s.beat with mode := .lost, relock := 0 } })
  else s

/-- The event record of a jump or rebase. -/
def jumpRecord (count : Word) (s : State) : State := record { code := 0x0A03, object := count } s

/-- The adoption rule at the edge at which ACQ becomes 16 in HOLDOVER or LOST (R142). -/
def adoption (count : Word) (t : Nat) (slot : Word) (s : State) : State :=
  if count = slot then raiseCore irqBeat { s with beat := adopt s.beat count t }
  else if slot.toNat < count.toNat then
    let b := adopt s.beat count t
    let b := { b with lastJump := count, fwdJumps := satInc b.fwdJumps, totFwd := satInc b.totFwd }
    reinstallLinks (jumpRecord count (raiseCore irqBeat { s with beat := b }))
  else
    let b := s.beat
    let b := { b with mode := .lost, backward := true, lastJump := count, backJumps := satInc b.backJumps,
                      totBack := satInc b.totBack, relock := 0 }
    disarmUnanswered (jumpRecord count (raiseCore irqBeat { s with beat := b }))

/-- An edge in LOCKED (Table 4-4). -/
def edgeLocked (count : Word) (t : Nat) (k : EdgeClass) (s : State) : State :=
  let b := s.beat
  if k.onTime && k.matching then { s with beat := { b with lbeat := count, tEdge := t } }
  else
    let h := enterHoldover b
    raiseCore irqBeat { s with beat := if k.late then
        { advanceSlot h with unjudged := false } else { h with arrived := true } }

/-- An edge in HOLDOVER (Table 4-4): four on-time matching edges in a row relock. -/
def edgeHoldover (count : Word) (t : Nat) (k : EdgeClass) (became : Bool) (s : State) : State :=
  let b := s.beat
  let good := k.onTime && k.matching
  let b := { b with relock := if good then b.relock + 1 else 0, unjudged := b.unjudged && !k.here,
                    arrived := b.arrived || !k.here }
  if b.relock = 4 then
    raiseCore irqBeat { s with beat := { b with mode := .locked, lbeat := count, tEdge := t, relock := 0,
                                                unlocked := 0, unjudged := false, arrived := false } }
  else if became then adoption count t k.slot { s with beat := b }
  else loseIf { s with beat := b }

/-- An edge in LOST: only the adoption rule leaves it, and never while BACKWARD is set (R142). -/
def edgeLost (count : Word) (t : Nat) (k : EdgeClass) (became : Bool) (s : State) : State :=
  let b := { s.beat with unjudged := s.beat.unjudged && !k.here, arrived := s.beat.arrived || !k.here }
  if became && !b.backward then adoption count t k.slot { s with beat := b } else { s with beat := b }

/-- The epoch after one: 0xFF wraps to 0x01 (Table 4-7). -/
def nextEpoch (e : BitVec 8) : BitVec 8 := if e = 0xFF then 1 else e + 1

/-- A beat as far ahead of the new count as it was ahead of the old one, or as far behind, but not below 0. -/
def rebased (old count w : Word) : Word :=
  if old.toNat ≤ w.toNat then count + (w - old) else word (count.toNat - (old.toNat - w.toNat))

/-- The beats that roles and nonces, retries, link exchanges, loads and the PLDM session wait for, in the new count
(Table 4-7, assumption entry 18). -/
def shiftBeats (shift : Word → Word) (s : State) : State :=
  { s with
    lc := { s.lc with auth := s.lc.auth.map (fun a =>
      { a with held := { a.held with lapse := shift a.held.lapse },
               roleNonce := a.roleNonce.map (fun n => { n with beat := shift n.beat }),
               consentNonce := a.consentNonce.map (fun n => { n with beat := shift n.beat }) }) },
    boot := { s.boot with
      ctrRetryBeat := shift s.boot.ctrRetryBeat,
      pldm := s.boot.pldm.map (fun x => { x with asked := x.asked.map shift }) },
    keys := { s.keys with links := s.keys.links.map (fun l =>
      { l with exch := l.exch.map (fun e => { e with start := shift e.start }), lastHello := l.lastHello.map shift }) },
    ing := { s.ing with loads := s.ing.loads.map (fun l => { l with lastBeat := shift l.lastBeat }) },
    part := { s.part with retryAt := s.part.retryAt.map (fun r => (r.1, shift r.2)) } }

/-- The adopting edge of a rebase (R153). -/
def rebaseEdge (j : Job) (count : Word) (t : Nat) (k : EdgeClass) (s : State) : State :=
  if k.acqValid then
    let old := s.beat
    let b := { adopt old count t with epoch := nextEpoch old.epoch, backward := false }
    let s := shiftBeats (rebased old.lbeat count) { s with beat := restartSchedule b }
    let s := jumpRecord count (raiseCore irqBeat s)
    let s := hwNote 0x0003 ([old.epoch, b.epoch] ++ wordBytes old.lbeat ++ wordBytes count) s
    finishJob j .ok noWords (reinstallLinks s)
  else finishJob j .state noWords (edgeLost count t k false s)

/-- The BEAT_REBASE job that waits for its edge. -/
def rebaseJob (s : State) : Option Job := s.jobs.find? (fun j => j.op == .beatRebase && j.stage == .engine)

/-- An edge arrives at time t. -/
def beatEdge (count : Word) (lock : Bool) (t : Nat) (s : State) : State :=
  let old := s.beat
  let k := classifyEdge old count lock t
  let b := countAcq (countEdge (measureEdge old t k) count k) t k.acqValid
  let b := { b with inputLock := lock,
                    prev := some { count := count, time := t, valid := k.acqValid, onTime := k.onTime },
                    missedSince := false }
  let s := { s with now := t, beat := b }
  let became := b.acq == 16 && old.acq != 16
  match rebaseJob s with
  | some j => rebaseEdge j count t k s
  | none =>
    match old.mode with
    | .none =>
      if became then
        raiseCore irqBeat { s with beat := restartSchedule { adopt b count t with epoch := 1 } }
      else s
    | .locked => edgeLocked count t k s
    | .holdover => edgeHoldover count t k became s
    | .lost => edgeLost count t k became s

/-- BEAT_EDGE (R140 to R142, R153): a rising edge off units of time from now. -/
def execBeatEdge (count : Word) (lock : Bool) (off : Nat) (s : State) : Host.Outcome State Fault Refusal :=
  .next (if aonUp s then beatEdge count lock (s.now + off) s else s)

/-- The next predicted time. -/
def predictedTime (b : Beat) : Nat :=
  b.tEdge + (if b.mode = .none then Config.microsecond else periodTime b)

/-- A predicted edge while the input is not followed (R135): LBEAT advances by one. In LOCKED it is the edge itself
that advances LBEAT. -/
def predictEdge (s : State) : State :=
  let b := s.beat
  match b.mode with
  | .none => { s with now := max s.now (predictedTime b),
                      beat := { b with lbeat := b.lbeat + 1, tEdge := b.tEdge + Config.microsecond } }
  | .locked => s
  | .holdover | .lost =>
    let s := loseIf { s with now := max s.now (predictedTime b) }
    { s with beat := advanceSlot s.beat }

/-- PREDICTED_EDGE (R135). -/
def execPredictedEdge (s : State) : Host.Outcome State Fault Refusal :=
  .next (if aonUp s then predictEdge s else s)

/-- One missing edge counted (Table 4-12); ACQ falls to 0 (R141). -/
def countMissing (b : Beat) : Beat :=
  { b with missed := satInc b.missed, totMissed := satInc b.totMissed, acq := 0, acqTimes := [], relock := 0,
           missedSince := true, unjudged := false }

/-- No edge by predicted time plus 8 ns (R140). In NONE there is no predicted edge to miss (assumption entry 19). -/
def missEdge (s : State) : State :=
  let b := s.beat
  let due := if b.unjudged then b.tEdge else predictedTime b
  let s' := { s with now := max s.now (due + 8 * Config.nanosecond) }
  match b.mode with
  | .none => s
  | .locked =>
    raiseCore irqBeat { s' with beat := countMissing (advanceSlot (enterHoldover b)) }
  | .holdover | .lost =>
    loseIf { s' with beat := countMissing (if b.unjudged then b else advanceSlot b) }

/-- BEAT_EDGE_MISSING (R140, R141). -/
def execBeatEdgeMissing (s : State) : Host.Outcome State Fault Refusal :=
  .next (if aonUp s then missEdge s else s)

/-- HEARTBEAT (R144, R146): due once LBEAT has passed a multiple of 2^HB_EXP not yet counted. The liveness transfer
needs CTRL running; in Watch the count freezes. -/
def execHeartbeat (s : State) : Host.Outcome State Fault Refusal :=
  let b := s.beat
  let ix := lbeat s / 2 ^ b.hbExp
  .next (if aonUp s && decide (b.lastHb < ix) then
    { s with beat := { b with lastHb := ix, hbCount := if ctrlUp s then b.hbCount + 1 else b.hbCount } } else s)

/-- HEARTWOOD_CHECKPOINT (R144, Table 13-8). -/
def execHeartwoodCheckpoint (s : State) : Host.Outcome State Fault Refusal :=
  let b := s.beat
  let ix := lbeat s / 2 ^ b.ckExp
  let detail := leBytes 2 b.totMissed.toNat ++ leBytes 2 b.totOfftime.toNat ++ leBytes 2 b.totBadcount.toNat
    ++ [b.totFwd, b.totBack]
  .next (if aonUp s && decide (b.lastCk < ix) then
    hwNote 0x0002 detail { s with beat := { b with lastCk := ix } } else s)

/-- BEAT_REBASE starts: its checks in the order of R439 and Table 4-7. -/
def startRebase (j : Job) (s : State) : State :=
  match firstFail [
    (isHmb j.seat, .denied),
    (j.w 0 == s.beat.lastJump, .badArgument),
    (operatorRight s j.seat, .denied),
    (s.lc.state == lcIntegration || s.lc.state == lcFielded || s.lc.state == lcReturned, .state),
    (s.beat.backward && s.beat.acq == 16, .state),
    ((s.jobs.filter (fun x => x.op == .beatRebase && x.id != j.id && x.stage == .engine)).isEmpty, .state)] with
  | some st => refuseJob j st s
  | none => setJob { j with stage := .engine, num := s.now } s

/-- BEAT_REBASE (R153). -/
def execBeatRebase (s : State) : Host.Outcome State Fault Refusal := .next (runJob .beatRebase true startRebase s)

/-- BEAT_REBASE_TIMEOUT (R153): two periods after the start with no edge arrived. -/
def execBeatRebaseTimeout (s : State) : Host.Outcome State Fault Refusal :=
  .next (match rebaseJob s with
    | none => s
    | some j => finishJob j .state noWords
        { s with now := max s.now (j.num + 2 * periodInForce s * Config.periodUnit) })

/-! ## Registers (R154) -/

/-- BEAT_STATUS (Table 4-9). -/
def beatStatus (b : Beat) : Word :=
  word (b.epoch.toNat * 2 ^ 56 + b.acq * 2 ^ 32 + bit b.backward * 2 ^ 7 + bit b.inputLock * 2 ^ 6 + beatCode b.mode)

/-- BEAT_EVENTS (Table 4-12). -/
def beatEvents (b : Beat) : Word :=
  word (b.missed.toNat * 2 ^ 48 + b.offtime.toNat * 2 ^ 32 + b.badcount.toNat * 2 ^ 16 + b.fwdJumps.toNat * 2 ^ 8
    + b.backJumps.toNat)

/-- ENG_OK: engines neither in reset nor offline (R146). -/
def engOk (s : State) : Nat :=
  ([Engine.pke, .dig, .ing, .otp, .seq, .keys, .part, .recd, .mbx].filter
    (fun e => !engInReset s e && !engOffline s e)).foldl (fun a e => a + 2 ^ engineNum e) 0

/-- BEAT_HEARTBEAT (Table 4-11). -/
def beatHeartbeat (s : State) : Word :=
  word (s.beat.hbCount.toNat * 2 ^ 32 + engOk s * 2 ^ 16 + s.beat.hbExp * 2 ^ 8 + beatCode s.beat.mode)

/-- Value of the BEAT register at an offset of its block, for a seat (Table 4-8). -/
def readBeat (n : Seat) (off : Nat) (s : State) : Word :=
  match off with
  | 0x00 => beatStatus s.beat
  | 0x08 => s.beat.lbeat
  | 0x10 => (s.seat n).nowInfo.zeroExtend 64
  | 0x18 => word s.beat.period
  | 0x20 => s.beat.nominal.zeroExtend 64
  | 0x28 => beatHeartbeat s
  | 0x30 => beatEvents s.beat
  | 0x38 => s.beat.lastJump
  | _ => 0

/-- A read of BEAT_NOW captures a stamp for the reading seat (Table 4-10). -/
def captureNow (n : Seat) (s : State) : State := s.modSeat n (fun p => { p with nowInfo := beatInfo s })

/-- A read of BEAT_EVENTS clears it (R14); the totals stay (Table 4-12). -/
def clearBeatEvents (s : State) : State :=
  { s with beat := { s.beat with missed := 0, offtime := 0, badcount := 0, fwdJumps := 0, backJumps := 0 } }

end Sys2Proof.Machine
end

