-- ==== Sys2Proof/Machine/Dig.lean ====
section
/-! DEFINITION. The Digest Engine (chapter 10): messages, contexts with spill and fill, word FIFOs and drains, the
quantum, wrapped images, the DIG commands and registers. -/

namespace Sys2Proof.Machine

/-! ## Algorithms (Table 10-1) -/

/-- ALG of Table 10-1. -/
def digAlgOk (a : Nat) : Bool := (decide (1 ≤ a) && decide (a ≤ 8)) || (decide (0x11 ≤ a) && decide (a ≤ 0x16)) || a == 0x19

/-- A keyed ALG. -/
def digKeyed (a : Nat) : Bool := decide (0x11 ≤ a)

/-- Block size in bytes. -/
def digRate (a : Nat) : Nat :=
  match a % 16 with
  | 1 => 64 | 2 => 128 | 3 => 128 | 4 => 136 | 5 => 104 | 6 => 72 | 7 => 168 | _ => 136

/-- Output bytes of a fixed-length ALG; 0 for SHAKE and KMAC256. -/
def digNatural (a : Nat) : Nat :=
  match a % 16 with
  | 1 => 32 | 2 => 48 | 3 => 64 | 4 => 32 | 5 => 48 | 6 => 64 | _ => 0

/-- The output of a finished message. -/
def digOutput (m : Msg) : Bytes :=
  match m.alg.toNat with
  | 0x01 => bvBytes (Config.sha256 m.data)
  | 0x02 => bvBytes (Config.sha384 m.data)
  | 0x03 => bvBytes (Config.sha512 m.data)
  | 0x04 => bvBytes (Config.sha3_256 m.data)
  | 0x05 => bvBytes (Config.sha3_384 m.data)
  | 0x06 => bvBytes (Config.sha3_512 m.data)
  | 0x07 => leBytes m.outLen (Config.shake128 m.data m.outLen).toNat
  | 0x08 => leBytes m.outLen (Config.shake256 m.data m.outLen).toNat
  | 0x19 => leBytes m.outLen (Config.kmac256 m.keyBytes m.custom m.data m.outLen).toNat
  | a => leBytes m.outLen (Config.hmac (BitVec.ofNat 8 (a - 0x10)) m.keyBytes m.data m.outLen).toNat

/-! ## Messages (R305 to R310) -/

/-- A message record. -/
def State.msg (s : State) (i : Fin 272) : Msg := s.dig.msgs[i]

/-- Handle of a message. -/
def msgHandle (s : State) (i : Fin 272) : Nat := (s.msg i).gen.toNat * 512 + i.val

/-- The message a handle names, if it is the seat's own. -/
def ownMsg (s : State) (n : Seat) (h : Nat) : Option (Fin 272) :=
  let i : Fin 272 := Fin.ofNat 272 (h % 512)
  let m := s.msg i
  if h % 512 < 272 && m.st != .free && m.gen.toNat == h / 512 % 128 && m.seat == n then some i else none

/-- Messages a seat holds. -/
def seatMsgs (s : State) (n : Seat) : List (Fin 272) :=
  (indices 272).filter (fun i => (s.msg i).st != .free && (s.msg i).seat == n)

/-- A keyed message's key slot still holds its content (R309). -/
def msgKeyOk (s : State) (m : Msg) : Bool := !digKeyed m.alg.toNat || (ownSlot s m.seat m.key.toNat).isSome

/-- The message fails with a status; its context is zeroized. Its count A stays. -/
def failMsg (i : Fin 272) (st : Status) (s : State) : State :=
  s.modMsg i (fun m => { m with
    st := .failed, failStatus := st, data := List.replicate m.data.length 0, keyBytes := [], output := [],
    resident := false })

/-- The message is zeroized and its index freed; the generation rises (R305). -/
def freeMsg (i : Fin 272) (s : State) : State := s.modMsg i (fun m => { gen := m.gen + 1 })

/-- The state of a message: one whose key is gone has failed (R309). -/
def msgState (s : State) (m : Msg) : MsgState :=
  if (m.st == .opened || m.st == .held) && !msgKeyOk s m then .failed else m.st

/-- The status a failed message answers with. -/
def msgFailStatus (m : Msg) : Status := if m.st = .failed then m.failStatus else .state

/-- Append bytes to a message: those beyond L are dropped and set TRUNC (R314). -/
def appendBytes (i : Fin 272) (bs : Bytes) (s : State) : State :=
  s.modMsg i (fun m =>
    let room := m.length - m.data.length
    { m with data := m.data ++ bs.take room, trunc := m.trunc || decide (room < bs.length) })

/-- Bytes that complete the present block of a message. -/
def blockNeed (m : Msg) : Nat := digRate m.alg.toNat - m.data.length % digRate m.alg.toNat

/-! ## Wrapped images (R323) -/

/-- Bytes 0 to 31 of an image. -/
def imageHeader (m : Msg) : Bytes :=
  [0x44#8, 0x01#8, stampOf m.seat, m.alg, BitVec.ofNat 8 (m.dest.toNat + 4 * bit m.bufferMode + 8 * bit m.trunc), 0, 0, 0]
    ++ leBytes 2 m.key.toNat ++ leBytes 2 m.outLen ++ [0, 0, 0, 0] ++ leBytes 8 m.length ++ leBytes 8 m.data.length

/-- Wrap a message under slot 9: the image, and the image remembered with what it holds. -/
def wrapMsg (m : Msg) (s : State) : Bytes × State :=
  let (iv, s) := drawBytes 12 s
  let h := imageHeader m
  let sealed := Config.gcmSeal (slotBytes s 9) iv h (Config.contextBytes m.alg m.keyBytes m.custom m.data m.cu)
  let image := h ++ h ++ iv ++ padTo 528 sealed.1 ++ padTo 16 sealed.2
  (image, { s with dig := { s.dig with wrapped := { image := image, msg := m } :: s.dig.wrapped } })

/-- What an image of a seat holds, when its format, copy and tag hold. -/
def openImage (s : State) (n : Seat) (image : Bytes) : Option Msg :=
  (s.dig.wrapped.find? (fun w => w.image == image && w.msg.seat == n)).map (·.msg)

/-! ## Contexts (R320) -/

/-- Contexts that hold a message. -/
def residentCount (s : State) : Nat := ((indices 272).filter (fun i => (s.msg i).resident)).length

/-- A transaction of this owner is under way. -/
def txnLive (s : State) (o : TxnOwner) : Bool := (s.fi.live ++ s.fi.waiting).any (fun t => t.owner == o)

/-- A message became the most recently used. -/
def touchMsg (i : Fin 272) (s : State) : State :=
  { s.modMsg i (fun m => { m with lastUse := s.dig.clock + 1 }) with
    dig := { (s.modMsg i (fun m => { m with lastUse := s.dig.clock + 1 })).dig with clock := s.dig.clock + 1 } }

/-- The index a DIG job works on, for the commands that name a message. -/
def jobMsg (s : State) (j : Job) : Option (Fin 272) := ownMsg s j.seat (j.f 0 0 16)

/-- The job opens a new message. -/
def opensMsg : Op → Bool
  | .digOpen | .digRestore => true
  | _ => false

/-- Work that holds a pipeline uses the message. -/
def msgInUse (s : State) (i : Fin 272) : Bool :=
  s.jobs.any (fun j => j.cls == .dig && j.holds && !opensMsg j.op && jobMsg s j == some i)
    || s.dig.drains.any (fun d => d.msg == i)

/-- A spill or a fill of the message is under way. -/
def msgMoving (s : State) (i : Fin 272) : Bool :=
  txnLive s (.digSpill i (s.msg i).gen) || txnLive s (.digFill i (s.msg i).gen)

/-- The least recently used resident message whose state no pipeline is using. -/
def spillVictim (s : State) : Option (Fin 272) :=
  (indices 272).foldl (fun b i =>
    let m := s.msg i
    if m.resident && !msgInUse s i && !msgMoving s i then
      match b with
      | none => some i
      | some k => if m.lastUse < (s.msg k).lastUse then some i else b
    else b) none

/-- Spill a message: its image is written to its save area with the seat's stamp (R323). -/
def spillMsg (i : Fin 272) (s : State) : State :=
  let m := s.msg i
  let (image, s) := wrapMsg m s
  issue { write := true, obo := stampOf m.seat, addr := m.save, len := 620, data := image, owner := .digSpill i m.gen } s

/-- Read a spilled message's image back. -/
def fillMsg (i : Fin 272) (s : State) : State :=
  let m := s.msg i
  issue { obo := stampOf m.seat, addr := m.save, len := 620, owner := .digFill i m.gen } s

/-- A pipeline is healthy. -/
def pipesOk (s : State) : Nat := healthyCount s (cellRange 40 4)

/-- DIG work that holds a pipeline. -/
def pipesHeld (s : State) : Nat := (s.jobs.filter (fun j => j.holds)).length + s.dig.drains.length

/-- A job gives its pipeline back. -/
def releasePipe (id : Nat) (s : State) : State :=
  { s with jobs := s.jobs.map (fun j => if j.id = id then { j with holds := false, quantum := 0 } else j) }

/-- A DIG job ends: its message, if it still runs, is open again. -/
def endDig (j : Job) (st : Status) (ws : Words) (s : State) : State :=
  let s := match jobMsg s j with
    | some i => if (s.msg i).st = .running then s.modMsg i (fun m => { m with st := .opened }) else s
    | none => s
  decideJob j st ws (releasePipe j.id s)

/-! ## Opening (R305, R316) -/

/-- The lowest free message index. -/
def freeMsgIx (s : State) : Option (Fin 272) := (indices 272).find? (fun i => (s.msg i).st == .free)

/-- Put a message into a free index, resident, and answer its handle. -/
def newMsg (m : Msg) (s : State) : Nat × State :=
  match freeMsgIx s with
  | none => (0, s)
  | some i =>
    let s := s.modMsg i (fun old => { m with gen := old.gen, resident := true })
    (msgHandle s i, touchMsg i s)

/-- The message a DIG_OPEN describes. -/
def openedMsg (j : Job) (s : State) : Msg :=
  let a := j.f 0 16 8
  { st := .opened, seat := j.seat, alg := BitVec.ofNat 8 a, dest := BitVec.ofNat 2 (j.f 0 24 2),
    bufferMode := j.f 0 26 1 == 1, key := BitVec.ofNat 16 (j.f 0 0 16),
    keyBytes := if digKeyed a then (s.slot (Fin.ofNat 256 (j.f 0 0 8))).content else [],
    cu := j.w 6, length := (j.w 1).toNat, outLen := if digNatural a = 0 then j.f 2 0 17 else digNatural a,
    save := j.w 3, custom := j.got }

/-- DIG_OPEN has absorbed its key. -/
def endOpen (j : Job) (s : State) : State :=
  let (h, s) := newMsg (openedMsg j s) s
  endDig j .ok (wordsOf [word h]) s

/-! ## Finishing (R315, R317) -/

/-- Result word 1 of DIG_FINAL. -/
def finalWord (m : Msg) : Word := word (m.outLen % 65536 + bit m.trunc * 2 ^ 16)

/-- DIG_FINAL has its output. -/
def endFinal (j : Job) (i : Fin 272) (s : State) : State :=
  let m := s.msg i
  let out := digOutput m
  if m.dest = 1 then
    decideJob j .ok (wordsOf [finalWord m])
      (releasePipe j.id (s.modMsg i (fun m => { m with st := .held, output := out, resident := false })))
  else if m.dest = 2 then
    let s := releasePipe j.id (freeMsg i s)
    if quotaFree s j.seat then
      let (h, s) := newSlot j.seat (cuOf m.cu) out 3 s
      decideJob j .ok (wordsOf [finalWord m, word h]) s
    else refuseJob j .state s
  else
    let ws := wordsOf (finalWord m :: (List.range 6).map (fun k => word (getLe out (8 * k) 8)))
    let s := releasePipe j.id (freeMsg i s)
    if j.w 1 = 0 then decideJob j .ok ws s else storeJob j (j.w 1) out .ok ws s

/-! ## Absorbing (R306, R318, R321) -/

/-- A queued job of a seat that may start: its message is not running, and a DIG_FINAL's words are drained (R315). -/
def digEligible (s : State) (n : Seat) : Option (Fin 32) :=
  match oldestQueued (s.seat n) .dig with
  | none => none
  | some i =>
    let p := s.seat n
    let x := p.entries[i]
    let busy := match ownMsg s n (fld (x.args.toList.getD 0 0) 0 16) with
      | some k => !opensMsg x.op && (s.msg k).st == .running
      | none => false
    let undrained := x.op == .digFinal && decide (p.fifoIn - p.fifo.length < x.fifoMark)
    if busy || undrained then none else some i

/-- A yielded job of a seat (R321). -/
def yielded (s : State) (n : Seat) : Option Job :=
  s.jobs.find? (fun j => j.seat == n && !j.detached && j.cls == .dig && j.stage == .engine && !j.holds)

/-- The seat's word FIFO can be drained: its first word's message is not running. -/
def drainable (s : State) (n : Seat) : Bool :=
  match (s.seat n).fifo with
  | [] => false
  | w :: _ => match ownMsg s n w.handle.toNat with
    | some i => (s.msg i).st != .running
    | none => true

/-- The seat has DIG work waiting. -/
def digWork (s : State) (n : Seat) : Bool := (yielded s n).isSome || (digEligible s n).isSome || drainable s n

/-- Other DIG work waits. -/
def digWaiting (s : State) : Bool := (indices 68).any (digWork s)

/-- A job's quantum is over and other work waits: it yields its pipeline (R321). Otherwise its next unit goes out. -/
def nextBlock (j : Job) (s : State) : State :=
  if 64 ≤ j.quantum && digWaiting s then setJob { j with holds := false, quantum := 0 } s
  else submitUnit { owner := .digJob j.id } (setJob { j with quantum := j.quantum % 64 + 1 } s)

/-- Go on absorbing: whole blocks by units, the rest at once (R313). -/
def absorbStep (j : Job) (i : Fin 272) (s : State) : State :=
  let m := s.msg i
  if blockNeed m ≤ j.got.length then nextBlock j s
  else
    let s := appendBytes i j.got s
    let m := s.msg i
    endDig j .ok (wordsOf [word m.data.length, word (bit m.trunc)]) s

/-- The buffer of a DIG_ABSORB has been read. -/
def absorbInput (j : Job) (b : Bytes) (s : State) : State :=
  match jobMsg s j with
  | none => endDig j .badArgument noWords s
  | some i =>
    let m := s.msg i
    let room := m.length - m.data.length
    let s := s.modMsg i (fun m => { m with trunc := m.trunc || decide (room < b.length) })
    let j := { j with got := b.take room, stage := .engine }
    absorbStep j i (setJob j s)

/-! ## Work that has its context -/

/-- A DIG job whose message is resident, or for whose new message there is room, goes on. -/
def digGo (j : Job) (s : State) : State :=
  let j := { j with num := 1 }
  let s := setJob j s
  match j.op with
  | .digOpen =>
    if digKeyed (j.f 0 16 8) then submitUnit { owner := .digJob j.id } (setJob { j with quantum := 1 } s) else endOpen j s
  | .digRestore =>
    match openImage s j.seat j.got with
    | none => endDig j .badArgument noWords s
    | some m =>
      let (h, s) := newMsg { m with st := .opened, save := j.w 0, trunc := m.trunc, overrun := false } s
      endDig j .ok (wordsOf [word h]) s
  | _ =>
    match jobMsg s j with
    | none => endDig j .badArgument noWords s
    | some i =>
      let s := touchMsg i (s.modMsg i (fun m => { m with st := .running }))
      match j.op with
      | .digAbsorb => if j.got.isEmpty then fetchJob j (j.w 1) (j.f 2 0 32) s else absorbStep j i s
      | .digFinal => submitUnit { owner := .digJob j.id } (setJob { j with quantum := 1 } s)
      | .digSave =>
        let (image, s) := wrapMsg (s.msg i) s
        storeJob j (s.msg i).save image .ok (wordsOf [620]) s
      | _ => s

/-- The seat's drain goes on: words of its message, whole blocks by units; it ends at another message's word, at the
quantum or when the FIFO is empty (R313). -/
def drainWords (d : Drain) : Nat → State → State
  | 0, s => s
  | fuel + 1, s =>
    let stop (s : State) : State :=
      let s := { s with dig := { s.dig with drains := s.dig.drains.filter (fun x => x.seat != d.seat) } }
      s.modMsg d.msg (fun m => if m.st = .running then { m with st := .opened } else m)
    match (s.seat d.seat).fifo with
    | [] => stop s
    | w :: ws =>
      if ownMsg s d.seat w.handle.toNat ≠ some d.msg then stop s
      else if (s.msg d.msg).st ≠ .running then
        drainWords d fuel (s.modSeat d.seat (fun p => { p with fifo := ws }))
      else
        let m := s.msg d.msg
        let take := min w.bytes.length (m.length - m.data.length)
        if blockNeed m ≤ take then
          if 64 ≤ d.blocks then stop s else submitUnit { owner := .digDrain d.seat } s
        else drainWords d fuel (appendBytes d.msg w.bytes (s.modSeat d.seat (fun p => { p with fifo := ws })))

/-- A drain has its context. -/
def drainGo (d : Drain) (s : State) : State :=
  let d := { d with waiting := false }
  let s := { s with dig := { s.dig with drains := s.dig.drains.map (fun (x : Drain) => if x.seat = d.seat then d else x) } }
  drainWords d 65 (touchMsg d.msg (s.modMsg d.msg (fun m => { m with st := .running })))

/-- Room for a message: it is resident, or a context is free for a fill, or the least recently used one is spilled
first (R320). -/
def wantContext (i : Option (Fin 272)) (go : State → State) (s : State) : State :=
  let room := decide (residentCount s < 16)
  let spill (s : State) : State :=
    match spillVictim s with
    | some v => spillMsg v s
    | none => s
  match i with
  | none => if room then go s else spill s
  | some i =>
    if msgMoving s i then s
    else if (s.msg i).resident then go s
    else if room then fillMsg i s
    else spill s

/-- Contexts for the DIG work that waits for one. -/
def pumpContexts (s : State) : State :=
  let s := (s.jobs.filter (fun j => j.cls == .dig && j.holds && j.stage == .engine && j.num == 0)).foldl
    (fun s j => wantContext (if opensMsg j.op then none else jobMsg s j) (digGo j) s) s
  (s.dig.drains.filter (·.waiting)).foldl (fun s d => wantContext (some d.msg) (drainGo d) s) s

/-- A job takes a pipeline and wants its context. -/
def digContext (j : Job) (s : State) : State :=
  pumpContexts (setJob { j with stage := .engine, holds := true, num := 0, quantum := 0 } s)

/-! ## Checks (R319) -/

/-- Order 2 of DIG_OPEN. -/
def openArgsOk (s : State) (j : Job) : Bool :=
  let a := j.f 0 16 8
  let dest := j.f 0 24 2
  let out := j.f 2 0 17
  let keyed := digKeyed a
  zeroFrom (j.w 0) 27 && zeroFrom (j.w 1) 48 && zeroFrom (j.w 2) 17 && zeroFrom (j.w 5) 9 && digAlgOk a && dest != 3
    && (if keyed then (ownSlot s j.seat (j.f 0 0 16)).isSome else j.f 0 0 16 == 0)
    && (if digNatural a != 0 then out == 0 || out == digNatural a
        else decide (1 ≤ out) && decide (out ≤ if dest = 0 ∧ a ≠ 0x19 then 65536 else 64))
    && decide (j.f 5 0 9 ≤ if a = 0x19 then 256 else 0)
    && (j.w 3).toNat % 1024 == 0
    && (dest != 2 || (cuOk (j.w 6) && (cuOf (j.w 6)).len == (if digNatural a = 0 then out else digNatural a)))

/-- Order 3 of DIG_OPEN. -/
def openRightsOk (s : State) (j : Job) : Bool :=
  let k := s.slot ((ownSlot s j.seat (j.f 0 0 16)).getD 0)
  let dest := j.f 0 24 2
  !digKeyed (j.f 0 16 8)
    || (k.usage.getLsbD useMac && (dest != 0 || k.cls == clsExport) && (dest != 2 || childOk k.cls (cuOf (j.w 6)).cls))

/-- Order 2 of the commands that name a message. -/
def msgArgsOk (s : State) (j : Job) : Bool :=
  let m := s.msg ((jobMsg s j).getD 0)
  zeroFrom (j.w 0) 16 && (jobMsg s j).isSome
    && (match j.op with
        | .digAbsorb => zeroFrom (j.w 2) 32 && j.f 2 0 32 != 0
        | .digFinal => !(m.dest == 0 && decide (48 < m.outLen) && j.w 1 == 0)
        | .digCompare => zeroFrom (j.w 1) 1
            && (j.f 1 0 1 == 0 || (zeroFrom (j.w 2) 16 && (ownSlot s j.seat (j.f 2 0 16)).isSome
                && (s.slot ((ownSlot s j.seat (j.f 2 0 16)).getD 0)).content.length == m.outLen))
        | _ => true)

/-- Order 3 of the commands that name a message. -/
def msgRightsOk (s : State) (j : Job) : Bool :=
  !(j.op == .digCompare && j.f 1 0 1 == 1)
    || (s.slot ((ownSlot s j.seat (j.f 2 0 16)).getD 0)).usage.getLsbD useCompare

/-- The message's state admits the command (Table 10-5). -/
def stateAdmits (m : Msg) (st : MsgState) : Op → Bool
  | .digAbsorb => st == .opened && m.bufferMode
  | .digFinal | .digSave => st == .opened
  | .digCompare => st == .held
  | .digAbort => true
  | _ => false

/-- Power, life cycle and microcode. -/
def digStateOk (s : State) : Bool := s.lc.state != lcScrapped && s.boot.mcLoaded

/-- The status the checks of a DIG job give (Table 10-4). -/
def digChecks (s : State) (j : Job) : Option Status :=
  match j.op with
  | .digOpen => firstFail [(openArgsOk s j, .badArgument), (openRightsOk s j, .denied),
      (digStateOk s && decide ((seatMsgs s j.seat).length < 4)
        && (j.f 0 24 2 != 2 || quotaFree s j.seat), .state)]
  | .digRestore => firstFail [((j.w 0).toNat % 1024 == 0, .badArgument),
      (digStateOk s && decide ((seatMsgs s j.seat).length < 4), .state)]
  | _ =>
    let m := s.msg ((jobMsg s j).getD 0)
    let st := msgState s m
    firstFail [(msgArgsOk s j, .badArgument), (msgRightsOk s j, .denied), (digStateOk s, .state),
      (st != .failed || j.op == .digAbort, msgFailStatus m), (stateAdmits m st j.op, .state),
      (!(j.op == .digFinal && m.dest == 2) || quotaFree s j.seat, .state)]

/-- A keyed message whose key is gone fails for good at its next job (R309). -/
def settleKey (j : Job) (s : State) : State :=
  match jobMsg s j with
  | some i =>
    let m := s.msg i
    if msgState s m = .failed ∧ m.st ≠ .failed then failMsg i .state s else s
  | none => s

/-- DIG_COMPARE ends: the output is zeroized and the handle freed whatever the outcome (R317). -/
def endCompare (j : Job) (expected : Bytes) (s : State) : State :=
  match jobMsg s j with
  | none => endDig j .badArgument noWords s
  | some i =>
    let same := (s.msg i).output == expected
    decideJob j .ok (wordsOf [word (bit same)]) (releasePipe j.id (freeMsg i s))

/-- A DIG job starts. -/
def startDig (j : Job) (s : State) : State :=
  if s.core.digOffline then failJob j .fault s
  else
    match digChecks s j with
    | some st => refuseJob j st (settleKey j s)
    | none =>
      if pipesOk s = 0 && j.op != .digAbort && j.op != .digCompare then failJob j .retired s
      else
        match j.op with
        | .digOpen =>
          if j.f 5 0 9 = 0 then digContext j s else fetchJob { j with holds := true } (j.w 4) (j.f 5 0 9) s
        | .digRestore => fetchJob { j with holds := true } (j.w 0) 620 s
        | .digFinal =>
          let m := s.msg ((jobMsg s j).getD 0)
          if m.data.length < m.length then
            failJob j .digShort { s with dig := { s.dig with short := satInc s.dig.short } }
          else digContext j s
        | .digCompare =>
          let m := s.msg ((jobMsg s j).getD 0)
          if j.f 1 0 1 = 1 then endCompare j (s.slot ((ownSlot s j.seat (j.f 2 0 16)).getD 0)).content s
          else fetchJob j (j.w 2) m.outLen s
        | .digAbort => decideJob j .ok noWords (freeMsg ((jobMsg s j).getD 0) s)
        | _ => digContext j s

/-- The key slot a wrapped message is bound to is present with its generation (order 7). -/
def restoreKeyOk (s : State) (m : Msg) : Bool := msgKeyOk s m

/-- Data that a DIG job asked for has been read. -/
def digInput (j : Job) (b : Bytes) (s : State) : State :=
  match j.op with
  | .digOpen => digContext { j with got := b } s
  | .digAbsorb => absorbInput j b s
  | .digCompare => endCompare j b s
  | .digRestore =>
    match openImage s j.seat b with
    | none => endDig j .badArgument noWords s
    | some m => if restoreKeyOk s m then digContext { j with got := b } s else refuseJob j .state (releasePipe j.id s)
  | _ => s

/-- DIG_SAVE's image is written: the handle is freed (R325). -/
def saveStored (j : Job) (s : State) : State :=
  let s := { s with dig := { s.dig with spills := satInc s.dig.spills } }
  match jobMsg s j with
  | some i => decideJob j .ok (wordsOf [620]) (releasePipe j.id (freeMsg i s))
  | none => endDig j .ok (wordsOf [620]) s

/-! ## Turns (R114, R313, R321) -/

/-- Whether DIG can give a pipeline to more work. -/
def pipeFree (s : State) : Bool := s.core.digOffline || !s.boot.mcLoaded || pipesOk s == 0 || decide (pipesHeld s < pipesOk s)

/-- Start the job whose turn it is, or resume a yielded one, when it is of this operation. -/
def runDig (o : Op) (s : State) : State :=
  if !mayStart s .dig || !pipeFree s then s
  else
    match arbTurn s .dig (digWork s) with
    | none => s
    | some (n, a) =>
      let turn (s : State) : State := { s with arbs := vset s.arbs (engineIx .dig) a }
      match yielded s n with
      | some j => if j.op = o then digContext j (turn s) else s
      | none =>
        match digEligible s n with
        | none => s
        | some i =>
          if (s.seat n).entries[i].op = o then
            let (j, s) := startEntry n i (turn s)
            startDig j s
          else s

/-- DIG_OPEN (R305, R316). -/
def execDigOpen (s : State) : Host.Outcome State Fault Refusal := .next (runDig .digOpen s)
/-- DIG_ABSORB (R306). -/
def execDigAbsorb (s : State) : Host.Outcome State Fault Refusal := .next (runDig .digAbsorb s)
/-- DIG_FINAL (R315). -/
def execDigFinal (s : State) : Host.Outcome State Fault Refusal := .next (runDig .digFinal s)
/-- DIG_COMPARE (R317). -/
def execDigCompare (s : State) : Host.Outcome State Fault Refusal := .next (runDig .digCompare s)
/-- DIG_SAVE (R325). -/
def execDigSave (s : State) : Host.Outcome State Fault Refusal := .next (runDig .digSave s)
/-- DIG_RESTORE (R325). -/
def execDigRestore (s : State) : Host.Outcome State Fault Refusal := .next (runDig .digRestore s)
/-- DIG_ABORT (R317). -/
def execDigAbort (s : State) : Host.Outcome State Fault Refusal := .next (runDig .digAbort s)

/-- Words at the head of a FIFO that name this handle. -/
def dropWords (h : BitVec 16) (n : Seat) (s : State) : State :=
  s.modSeat n (fun p => { p with fifo := p.fifo.dropWhile (fun w => w.handle == h) })

/-- A drain of a seat's FIFO starts (R313); words of no open message are dropped; with DIG offline the message fails
with ST_FAULT (R319), and without a pipeline the drain completes with the message as it is (R326). -/
def startDrain (n : Seat) (s : State) : State :=
  match (s.seat n).fifo with
  | [] => s
  | w :: _ =>
    match ownMsg s n w.handle.toNat with
    | none => dropWords w.handle n s
    | some i =>
      if s.core.digOffline then dropWords w.handle n (failMsg i .fault s)
      else if msgState s (s.msg i) ≠ .opened || (s.msg i).bufferMode then dropWords w.handle n s
      else if pipesOk s = 0 || !s.boot.mcLoaded then dropWords w.handle n s
      else pumpContexts { s with dig := { s.dig with drains := s.dig.drains ++ [{ seat := n, msg := i }] } }

/-- DIG_DRAIN (R313): at the seat's turn. -/
def execDigDrain (s : State) : Host.Outcome State Fault Refusal :=
  .next (if !mayStart s .dig || !pipeFree s then s
  else
    match arbTurn s .dig (digWork s) with
    | none => s
    | some (n, a) =>
      if drainable s n then startDrain n { s with arbs := vset s.arbs (engineIx .dig) a } else s)

/-! ## Units (R304, R326) -/

/-- A block of a DIG job is committed. -/
def digJobBlock (id : Nat) (more : Bool) (s : State) : State :=
  match s.job? id with
  | none => s
  | some j =>
    match j.op with
    | .digAbsorb =>
      match jobMsg s j with
      | none => endDig j .badArgument noWords s
      | some i =>
        if (s.msg i).st ≠ .running then endDig j (msgFailStatus (s.msg i)) noWords s
        else
          let need := blockNeed (s.msg i)
          let s := appendBytes i (j.got.take need) s
          let j := { j with got := j.got.drop need }
          absorbStep j i (setJob j s)
    | .digFinal =>
      match jobMsg s j with
      | none => endDig j .badArgument noWords s
      | some i =>
        if (s.msg i).st ≠ .running then endDig j (msgFailStatus (s.msg i)) noWords s
        else if more then nextBlock j s else endFinal j i s
    | .digOpen => if more then nextBlock j s else endOpen j s
    | _ => s

/-- A block of a drain is committed. -/
def drainBlock (n : Seat) (s : State) : State :=
  match s.dig.drains.find? (fun d => d.seat == n) with
  | none => s
  | some d =>
    match (s.seat n).fifo with
    | [] => drainWords d 65 s
    | w :: ws =>
      let d := { d with blocks := d.blocks + 1 }
      let s := { s with dig := { s.dig with drains := s.dig.drains.map (fun (x : Drain) => if x.seat = n then d else x) } }
      drainWords d 65 (appendBytes d.msg w.bytes (s.modSeat n (fun p => { p with fifo := ws })))

/-- A DIG job's unit failed for good: the message keeps its state before the block (Table 10-7). -/
def digJobFailed (id : Nat) (st : Status) (s : State) : State :=
  match s.job? id with
  | none => s
  | some j => endDig j st noWords s

/-- A drain's unit failed for good: the drain ends and the message keeps its state. -/
def drainFailed (n : Seat) (s : State) : State :=
  match s.dig.drains.find? (fun d => d.seat == n) with
  | none => s
  | some d =>
    let s := { s with dig := { s.dig with drains := s.dig.drains.filter (fun x => x.seat != n) } }
    s.modMsg d.msg (fun m => if m.st = .running then { m with st := .opened } else m)

/-! ## Spills and fills end -/

/-- A spill is written: the context is free (R324). A message freed meanwhile is no longer its own. -/
def spillDone (i : Fin 272) (gen : BitVec 7) (s : State) : State :=
  let s := { s with dig := { s.dig with spills := satInc s.dig.spills } }
  pumpContexts (s.modMsg i (fun m => if m.gen = gen then { m with resident := false } else m))

/-- The work that waits for a message's context ends with the status the message failed with. -/
def failWaiting (i : Fin 272) (s : State) : State :=
  let s := { s with dig := { s.dig with drains := s.dig.drains.filter (fun d => d.msg != i) } }
  (s.jobs.filter (fun j => j.cls == .dig && j.holds && j.stage == .engine && j.num == 0 && !opensMsg j.op
    && jobMsg s j == some i)).foldl (fun s j => endDig j (msgFailStatus (s.msg i)) noWords s) s

/-- An initiator error of a spill or fill (R324). -/
def contextError (i : Fin 272) (gen : BitVec 7) (s : State) : State :=
  let m := s.msg i
  if m.gen ≠ gen ∨ m.st = .free then pumpContexts s
  else pumpContexts (failWaiting i (raiseFault m.seat faultInit (if m.st = .failed then s else failMsg i .badArgument s)))

/-- A fill is read: the image is checked and opened (R323). -/
def fillDone (i : Fin 272) (gen : BitVec 7) (b : Bytes) (s : State) : State :=
  let m := s.msg i
  let s := { s with dig := { s.dig with fills := satInc s.dig.fills } }
  if m.gen ≠ gen ∨ m.st = .free then pumpContexts s
  else if m.st = .failed then pumpContexts (failWaiting i s)
  else match openImage s m.seat b with
    | some x =>
      let back (m : Msg) : Msg :=
        { x with st := m.st, gen := m.gen, save := m.save, overrun := m.overrun, resident := true, lastUse := m.lastUse }
      let s := touchMsg i (s.modMsg i back)
      if msgKeyOk s (s.msg i) then pumpContexts s else pumpContexts (failWaiting i (failMsg i .state s))
    | none =>
      let s := record { code := 0x0C03, seat := stampOf m.seat, part := partByte m.seat, object := word (msgHandle s i) } s
      pumpContexts (failWaiting i (failMsg i .badArgument s))

/-! ## Word input (R311, R312) -/

/-- The open mode 0 message DIG_SEL names. -/
def selected (s : State) (n : Seat) : Option (Fin 272) :=
  match ownMsg s n (s.seat n).digSel.toNat with
  | some i =>
    let m := s.msg i
    if !m.bufferMode && (msgState s m == .opened || m.st == .running) then some i else none
  | none => none

/-- A word is discarded: OVERRUN, and the message fails (R312). -/
def overrunMsg (i : Fin 272) (s : State) : State :=
  (failMsg i .badArgument s).modMsg i (fun m => { m with overrun := true })

/-- A write of DIG_WORD or DIG_LAST_WORD by a seat. -/
def writeWord (n : Seat) (wide : Bool) (bytes : Bytes) (s : State) : State :=
  match selected s n with
  | none =>
    recordLimited (.digWrite n) { code := 0x0605, seat := stampOf n, part := partByte n,
                                  object := (s.seat n).digSel.zeroExtend 64 } s
  | some i =>
    if !wide || decide (64 ≤ (s.seat n).fifo.length) then overrunMsg i s
    else s.modSeat n (fun p => { p with fifo := p.fifo ++ [{ handle := p.digSel, bytes := bytes }], fifoIn := p.fifoIn + 1 })

/-! ## Seats, resets and erasure (Table 10-7) -/

/-- A seat reset: its messages are zeroized and freed, its FIFO and DIG_SEL cleared. -/
def clearSeatDig (n : Seat) (s : State) : State :=
  let s := (seatMsgs s n).foldl (fun s i => freeMsg i s) s
  let s := { s with dig := { s.dig with drains := s.dig.drains.filter (fun d => d.seat != n) } }
  let s := dropUnits (fun o => o == .digDrain n) s
  s.modSeat n (fun p => { p with fifo := [], digSel := 0 })

/-- The reset of DIG: resident messages and those with words in a FIFO fail with ST_FAULT; drains stop. -/
def resetDig (s : State) : State :=
  let inFifo (i : Fin 272) : Bool := (s.seat (s.msg i).seat).fifo.any (fun w => w.handle.toNat == msgHandle s i)
  let s := (indices 272).foldl (fun s i =>
    if (s.msg i).st != .free && (s.msg i).st != .failed && ((s.msg i).resident || inFifo i) then failMsg i .fault s else s) s
  { s with dig := { s.dig with drains := [] }, seats := s.seats.map (fun p => { p with fifo := [] }) }

/-- Every open message fails with a status (Table 6-4 step 2, R205). -/
def failAllMsgs (st : Status) (s : State) : State :=
  let s := (indices 272).foldl (fun s i =>
    if (s.msg i).st != .free && (s.msg i).st != .failed then failMsg i st s else s) s
  { s with dig := { s.dig with drains := [] } }

/-- Every message zeroized and freed (entry to Watch). -/
def freeAllMsgs (s : State) : State :=
  let s := (indices 272).foldl (fun s i => if (s.msg i).st != .free then freeMsg i s else s) s
  { s with dig := { s.dig with drains := [] }, seats := s.seats.map (fun p => { p with fifo := [], digSel := 0 }) }

/-! ## Registers (R328) -/

/-- State codes of Table 10-5. -/
def MsgState.code : MsgState → Nat
  | .free => 0 | .opened => 1 | .running => 2 | .held => 3 | .failed => 4

/-- DIG_STATUS for a seat (Table 10-9). -/
def digStatus (s : State) (n : Seat) : Word :=
  let p := s.seat n
  let space := (64 - p.fifo.length) * 2 ^ 8
  match ownMsg s n p.digSel.toNat with
  | none => word space
  | some i =>
    let m := s.msg i
    word (m.data.length * 2 ^ 16 + space + bit m.overrun * 2 ^ 4 + bit m.trunc * 2 ^ 3 + (msgState s m).code)

/-- DIG_ENGINE (Table 10-10). -/
def digEngine (s : State) : Word :=
  let held := ((indices 272).filter (fun i => (s.msg i).st != .free)).length
  let cells (f : CellState → Bool) : Nat := (List.range 4).foldl (fun a p => if f s.cells[pipeCell (Fin.ofNat 4 p)] then a + 2 ^ p else a) 0
  word (held * 2 ^ 16 + bit s.core.digOffline * 2 ^ 13 + residentCount s * 2 ^ 8
    + cells (fun c => c.work.isSome) * 2 ^ 4 + cells (fun c => !c.retired))

/-- DIG_COUNTS. -/
def digCounts (d : Dig) : Word :=
  word (d.spills.toNat * 2 ^ 48 + d.fills.toNat * 2 ^ 32 + d.cellRetry.toNat * 2 ^ 16 + d.short.toNat)

/-- A read of DIG_COUNTS clears it (R14). -/
def clearDigCounts (s : State) : State :=
  { s with dig := { s.dig with spills := 0, fills := 0, cellRetry := 0, short := 0 } }

/-- Value of a DIG register for a seat (Table 10-8). -/
def readDig (n : Seat) (off : Nat) (s : State) : Word :=
  match off with
  | 0x000 => (s.seat n).digSel.zeroExtend 64
  | 0x008 => digStatus s n
  | 0x100 => if s.boot.mcLoaded || s.core.startDone then digEngine s else 0
  | 0x108 => digCounts s.dig
  | _ => 0

end Sys2Proof.Machine
end

