-- ==== Sys2Proof/Machine/Flash.lean ====
section
/-! DEFINITION. The NOR flash (R96, R243): its areas, reads, Page Program and Sector Erase. A blank byte reads 0xFF; a
program clears bits and an erase sets them. -/

namespace Sys2Proof.Machine

/-! ## Areas (Table 8-1) -/

/-- Configuration record, copy 0 or 1. -/
def recordArea (copy1 : Bool) : Nat := if copy1 then 0x40000 else 0
/-- Identity area. -/
def identityBase : Nat := 0x80000
/-- Microcode package, copy 0 or 1. -/
def microcodeArea (copy1 : Bool) : Nat := if copy1 then 0x200000 else 0x100000
/-- Slot A or slot B. -/
def slotArea (b : Bool) : Nat := if b then 0x3400000 else 0x400000
/-- Size of a slot. -/
def slotSize : Nat := 0x3000000
/-- Handover area and its size. -/
def handoverBase : Nat := 0x6440000
def handoverSize : Nat := 0x1040000
/-- Secret area and its size. -/
def secretBase : Nat := 0x7800000
def secretSize : Nat := 0x800000

/-! ## Access -/

/-- n bytes from an offset. -/
def flashRead (s : State) (a n : Nat) : Bytes := memRead 0xFF s.boot.flash a n

/-- Program bytes: a bit can only be cleared. -/
def programBytes (m : List (Nat × Byte)) (a : Nat) (bs : Bytes) : List (Nat × Byte) :=
  memWrite 0xFF m a (List.zipWith (fun x y => x &&& y) (memRead 0xFF m a bs.length) bs)

/-- Page Program of bytes at an offset. -/
def flashProgram (a : Nat) (bs : Bytes) (s : State) : State :=
  emit (.flashProgram a bs.length) { s with boot := { s.boot with flash := programBytes s.boot.flash a bs } }

/-- Sector Erase of every sector of a range. -/
def flashErase (a n : Nat) (s : State) : State :=
  emit (.flashErase a n) { s with boot := { s.boot with flash := memErase s.boot.flash a n } }

/-- Every byte of a range reads 0xFF. -/
def flashBlank (s : State) (a n : Nat) : Bool := s.boot.flash.all (fun e => decide (e.1 < a) || decide (a + n ≤ e.1))

/-- The SFDP tables declare at least 128 MiB and sectors of at most 256 KiB (R243). -/
def flashUsable (s : State) : Bool :=
  match s.boot.sfdp with
  | some d => decide (128 ≤ d.sizeMiB) && decide (d.sectorKiB ≤ 256)
  | none => false

/-- Size of an erase sector, as declared. -/
def sectorSize (s : State) : Nat :=
  match s.boot.sfdp with
  | some d => 1024 * d.sectorKiB
  | none => 0x40000

end Sys2Proof.Machine
end

