-- ==== Sys2Proof/Machine/Pke.lean ====
section
/-! DEFINITION. The Public-Key Engine (chapter 09): blocks and their dispatch (R285, R286), the checks of Table 9-6,
validation (Table 9-7), results (Table 9-5), curve slots (R293 to R297) and the PKE registers. -/

namespace Sys2Proof.Machine

/-! ## Blocks (R271, R285) -/

/-- Blocks of a kind. -/
def bnBlocks : List (Fin 6) := [0, 1, 2, 3]
def ltBlocks : List (Fin 6) := [4, 5]
/-- Blocks of the lattice kind or of the big-number kind. -/
def kindBlocks (lattice : Bool) : List (Fin 6) := if lattice then ltBlocks else bnBlocks

/-- A block that has healthy cells. -/
def blockServes (s : State) (b : Fin 6) : Bool := healthyCount s (blockCells b) != 0

/-- No block of the kind is left (R290). -/
def kindGone (s : State) (lattice : Bool) : Bool := !(kindBlocks lattice).any (blockServes s)

/-- The free block of a kind that has been idle longest, the lowest-numbered of equals (R285). -/
def freeBlock (s : State) (lattice : Bool) : Option (Fin 6) :=
  (kindBlocks lattice).foldl (fun a b =>
    if s.pke.blocks[b].isNone && blockServes s b then
      match a with
      | none => some b
      | some c => if s.pke.idleSince[b] < s.pke.idleSince[c] then some b else a
    else a) none

/-- Some started job's part waits for a block of the kind; it goes ahead of every other job (R286). -/
def partWaits (s : State) (lattice : Bool) : Bool :=
  s.jobs.any (fun j => if lattice then j.lt == .waiting else j.bn == .waiting)

/-- Put a part of a job on a block. -/
def takeBlock (id : Nat) (lattice : Bool) (b : Fin 6) (s : State) : State :=
  { s with pke := { s.pke with blocks := vset s.pke.blocks b (some id) },
           jobs := s.jobs.map (fun j => if j.id = id then
             (if lattice then { j with lt := .running b } else { j with bn := .running b }) else j) }

/-- Put a waiting part of a job on a free block, if there is one and PKE is not in reset. -/
def tryBlock (id : Nat) (lattice : Bool) (s : State) : State :=
  match freeBlock s lattice with
  | some b => if engInReset s .pke then s else takeBlock id lattice b s
  | none => s

/-- Submit the first unit of work of each running part of a job. -/
def submitParts (id : Nat) (s : State) : State :=
  match s.job? id with
  | none => s
  | some j => [j.bn, j.lt].foldl (fun s p =>
      match p with
      | .running b => submitUnit { owner := .pke id b } s
      | _ => s) s

/-- PKE work of a job: its parts wait for blocks, take the free ones, and their first units go to the cells. -/
def needBlocks (j : Job) (bn lt : Bool) (s : State) : State :=
  let s := setJob { j with bn := if bn then .waiting else .unused, lt := if lt then .waiting else .unused } s
  let s := if lt && !partWaits { s with jobs := s.jobs.filter (fun x => x.id != j.id) } true then tryBlock j.id true s else s
  if bn && !partWaits { s with jobs := s.jobs.filter (fun x => x.id != j.id) } false then tryBlock j.id false s else s

/-- Dual verification or signature within a job of another engine: both parts at once (R286, R287). -/
def nestedPke (j : Job) (s : State) : State := submitParts j.id (needBlocks { j with stage := .engine } true true s)

/-! ## Algorithms (Tables 9-2, 9-3) -/

/-- Forms of algorithm. -/
inductive AlgKind where
  | ec | ed | mldsa | mlkem | rsa | other
  deriving DecidableEq, Repr

/-- The form of an ALG code. -/
def algKind (a : Nat) : AlgKind :=
  if 0x01 ≤ a ∧ a ≤ 0x03 ∨ 0x08 ≤ a ∧ a ≤ 0x0F then .ec
  else if a = 0x04 ∨ a = 0x05 then .ed
  else if a = 0x10 then .mldsa
  else if a = 0x11 then .mlkem
  else if a = 0x20 ∨ a = 0x21 then .rsa
  else .other

/-- The curve an elliptic-curve ALG names. -/
def curveOf (s : State) (a : Nat) : CurveParams :=
  if 8 ≤ a then s.pke.curves[Fin.ofNat 8 (a - 8)].params else namedParams a

/-- The ALG names no curve slot, or one that is LOADED. -/
def curveReady (s : State) (a : Nat) : Bool :=
  !(8 ≤ a && a ≤ 15) || s.pke.curves[Fin.ofNat 8 (a - 8)].st == .loaded

/-- Ed25519 or Ed448: key and signature lengths. -/
def edKeyLen (a : Nat) : Nat := if a = 0x04 then 32 else 57
def edSigLen (a : Nat) : Nat := if a = 0x04 then 64 else 114

/-- Slot length of Table 9-3. -/
def slotLenOk (s : State) (a len : Nat) : Bool :=
  match algKind a with
  | .ec =>
    let ln := orderLen (curveOf s a)
    if ln ≤ 56 then decide (ln + 8 ≤ len) && decide (len ≤ 64) else len == 64
  | .ed => len == edKeyLen a
  | .mldsa => len == 32
  | .mlkem => len == 64
  | .rsa => len == 32
  | .other => false

/-- Scalar formed from slot content (Table 9-3). -/
def scalarFrom (c : CurveParams) (a : Nat) (content : Bytes) : Nat :=
  if orderLen c ≤ 56 then scalarOf c.n (beNat content)
  else scalarOf c.n (beNat (kdf content "PKE-WIDE" (leBytes 1 a) (orderLen c + 8)))

/-- Usage bits of a slot; the PKE uses no sealed slot (Table 7-6). AK1 signs for seat 65 (Table 7-5). -/
def slotUsage (s : State) (i : Fin 256) (u : Nat) : Bool :=
  if i.val = 6 then u == useEcdsa else if i.val = 7 then u == useMldsa
  else (s.slot i).cls != clsSealed && (s.slot i).usage.getLsbD u

/-! ## Arguments (R275, R276) -/

/-- MU. -/
def Job.mu (j : Job) : Bool := j.f 0 24 1 == 1
/-- Input length and output room. -/
def Job.inLen (j : Job) : Nat := j.f 2 0 32
def Job.room (j : Job) : Nat := j.f 4 0 32
/-- Digest bytes of W6. -/
def hashLen (h : Nat) : Nat := if h = 0 then 32 else if h = 1 then 48 else 64

/-- Message input of ML-DSA: a length that can be right. -/
def mldsaLenOk (mu : Bool) (n : Nat) : Bool :=
  if mu then n == 64 else decide (1 ≤ n) && decide (n ≤ 1 + 255 + 65536)

/-- The lengths an input may have, as far as the arguments tell. -/
def inLenOk (s : State) (j : Job) : Bool :=
  let a := j.alg
  let n := j.inLen
  let c := curveOf s a
  let lp := 1 + 2 * c.len
  let ln := 2 * orderLen c
  match j.op with
  | .pkeSign =>
    match algKind a with
    | .ec => decide (1 ≤ n) && decide (n ≤ 64)
    | .ed => decide (n ≤ 65536)
    | _ => mldsaLenOk j.mu n
  | .pkeVerify =>
    match algKind a with
    | .ec => decide (lp + ln + 1 ≤ n) && decide (n ≤ lp + ln + 64)
    | .ed => decide (edKeyLen a + edSigLen a ≤ n) && decide (n ≤ edKeyLen a + edSigLen a + 65536)
    | _ => decide (7219 ≤ n) && mldsaLenOk j.mu (n - 7219)
  | .pkeHybridSign => decide (n ≤ 65536)
  | .pkeHybridVerify => decide (7412 ≤ n) && decide (n ≤ 7412 + 65536)
  | .pkeEcdh => n == lp
  | .pkeKemEncaps | .pkeKemDecaps => n == 1568
  | .pkeRsaVerify => decide (2 + 256 + 1 + 3 + 256 + hashLen (j.f 6 0 2) ≤ n)
  | .pkeRsaSign => decide (28 + hashLen (j.f 6 0 2) ≤ n)
  | .pkeCurveLoad => decide (25 + 6 * 24 ≤ n) && decide (n ≤ 25 + 6 * 72)
  | _ => true

/-- Length of the output, as far as the arguments tell. -/
def outLen (s : State) (j : Job) : Nat :=
  let a := j.alg
  match j.op with
  | .pkeSign =>
    match algKind a with
    | .ec => 2 * orderLen (curveOf s a)
    | .ed => edSigLen a
    | _ => 4627
  | .pkeHybridSign => 4723
  | .pkeKemEncaps => 1568
  | .pkePublic =>
    match algKind a with
    | .ec => 1 + 2 * (curveOf s a).len
    | .ed => edKeyLen a
    | .mldsa => 2592
    | _ => 1568
  | _ => 0

/-- The ALG is one the command admits (Table 9-4). -/
def algAdmitted (j : Job) : Bool :=
  let k := algKind j.alg
  match j.op with
  | .pkeSign | .pkeVerify => k == .ec || k == .ed || k == .mldsa
  | .pkeHybridSign | .pkeHybridVerify => true
  | .pkeEcdh => k == .ec
  | .pkeKemEncaps | .pkeKemDecaps => k == .mlkem
  | .pkePublic => k == .ec || k == .ed || k == .mldsa || k == .mlkem
  | .pkeRsaSign | .pkeRsaVerify => k == .rsa
  | _ => decide (8 ≤ j.alg) && decide (j.alg ≤ 15)

/-- The command creates a slot. -/
def makesSlot : Op → Bool
  | .pkeEcdh | .pkeKemEncaps | .pkeKemDecaps => true
  | _ => false

/-- The command names a key slot in H. -/
def usesKey : Op → Bool
  | .pkeSign | .pkeHybridSign | .pkeEcdh | .pkeKemDecaps | .pkePublic | .pkeRsaSign => true
  | _ => false

/-- Length of the slot a command creates: X, its SHA3-512, or 32. -/
def newLen (s : State) (j : Job) : Nat :=
  if j.op = .pkeEcdh then (if 64 < (curveOf s j.alg).len then 64 else (curveOf s j.alg).len) else 32

/-- The slot H names: signing jobs of seat 65 may name AK1 (Table 7-5). -/
def keyOf (s : State) (j : Job) : Option (Fin 256) :=
  match j.op with
  | .pkeSign | .pkeHybridSign => pkeSlot s j.seat (j.f 0 0 16)
  | _ => ownSlot s j.seat (j.f 0 0 16)

/-- The slots the handles of a started job name: freed meanwhile, they keep their content until it ends (R233). -/
def keyIx (j : Job) : Fin 256 := Fin.ofNat 256 (j.f 0 0 8)
def key2Ix (j : Job) : Fin 256 := Fin.ofNat 256 (j.f 5 0 8)

/-- The second key of a hybrid signature. -/
def key2Of (s : State) (j : Job) : Option (Fin 256) := pkeSlot s j.seat (j.f 5 0 16)

/-- Reserved bits of the argument words a command uses. -/
def pkeReservedOk (j : Job) : Bool :=
  zeroFrom (j.w 0) 25 && zeroFrom (j.w 2) 32 && zeroFrom (j.w 4) 32
    && (j.op != .pkeHybridSign || zeroFrom (j.w 5) 16)
    && (!(j.op == .pkeRsaSign || j.op == .pkeRsaVerify) || (zeroFrom (j.w 6) 2 && j.f 6 0 2 != 3))

/-- Order 2 as far as the arguments tell; lengths that a curve slot gives are judged when it is LOADED. -/
def pkeArgsOk (s : State) (j : Job) : Bool :=
  let h := keyOf s j
  let a := if j.op = .pkeHybridSign then 0x02 else j.alg
  pkeReservedOk j && algAdmitted j
    && (!usesKey j.op || h.isSome)
    && (j.op != .pkeHybridSign || ((key2Of s j).isSome && (s.slot ((key2Of s j).getD 0)).content.length == 32))
    && (!makesSlot j.op || cuOk (j.w 5))
    && (!curveReady s j.alg || j.op == .pkeCurveLoad || j.op == .pkeCurveClear ||
        (inLenOk s j && decide (outLen s j ≤ j.room)
          && (!makesSlot j.op || (cuOf (j.w 5)).len == newLen s j)
          && (!usesKey j.op || slotLenOk s a (s.slot (h.getD 0)).content.length)))
    && (j.op != .pkeCurveLoad || inLenOk s j)

/-- Usage bit an operation needs (Table 9-3). PKE_PUBLIC takes either elliptic-curve usage. -/
def usageOk (s : State) (j : Job) (i : Fin 256) : Bool :=
  let u := slotUsage s i
  match j.op, algKind j.alg with
  | .pkeHybridSign, _ => u useEcdsa
  | .pkeEcdh, _ => u useEcdh
  | .pkePublic, .ec => u useEcdsa || u useEcdh
  | _, .ec | _, .ed => u useEcdsa
  | _, .mldsa => u useMldsa
  | _, .mlkem => u useMlkem
  | _, .rsa => u useGcm
  | _, .other => false

/-- Order 3: roles, usage and class. -/
def pkeRightsOk (s : State) (j : Job) : Bool :=
  let i := (keyOf s j).getD 0
  (!(j.op == .pkeCurveLoad || j.op == .pkeCurveClear) || operatorRight s j.seat)
    && (!usesKey j.op || usageOk s j i)
    && (j.op != .pkeHybridSign || slotUsage s ((key2Of s j).getD 0) useMldsa)
    && (!(makesSlot j.op && usesKey j.op) || childOk (s.slot i).cls (cuOf (j.w 5)).cls)

/-- Private-key signatures, which HELD stops (Table 7-16). -/
def isSigning : Op → Bool
  | .pkeSign | .pkeHybridSign | .pkeRsaSign => true
  | _ => false

/-- Order 4. -/
def pkeStateOk (s : State) (j : Job) : Bool :=
  let slot := s.pke.curves[Fin.ofNat 8 (j.alg - 8)].st
  s.lc.state != lcScrapped && s.boot.mcLoaded && !(isSigning j.op && s.keys.held)
    && (match j.op with
        | .pkeCurveLoad => slot == .empty
        | .pkeCurveClear => slot == .loaded
        | .pkeHybridSign | .pkeHybridVerify => true
        | _ => curveReady s j.alg)
    && (!makesSlot j.op || quotaFree s j.seat)

/-! ## Starting a job (R279, R285) -/

/-- Kinds of block a job needs: big-number, lattice. -/
def kindsOf (o : Op) (alg : Nat) : Bool × Bool :=
  match o with
  | .pkeHybridSign | .pkeHybridVerify => (true, true)
  | .pkeCurveClear => (false, false)
  | _ => if algKind alg = .mldsa ∨ algKind alg = .mlkem then (false, true) else (true, false)

/-- The governing kind is the lattice one (R286). -/
def governsLattice (o : Op) (alg : Nat) : Bool := o == .pkeHybridSign || (kindsOf o alg == (false, true))

/-- The job may start: PKE offline or its kind gone, no block needed, or a block of the governing kind free that no
waiting part goes ahead on. -/
def blockReady (s : State) (o : Op) (alg : Nat) : Bool :=
  let lat := governsLattice o alg
  s.core.pkeOffline || kindsOf o alg == (false, false) || kindGone s lat
    || ((freeBlock s lat).isSome && !partWaits s lat)

/-- PKE keeps its chosen job until a block is free (R285): the seat whose turn it is. -/
def choosePke (s : State) : State :=
  let a := s.arbs[engineIx .pke]
  let has (n : Seat) : Bool := (oldestQueued (s.seat n) .pke).isSome
  match a.chosen with
  | some n => if has n then s else
      { s with arbs := vset s.arbs (engineIx .pke) { a with chosen := (arbTurn s .pke has).map (·.1) } }
  | none => { s with arbs := vset s.arbs (engineIx .pke) { a with chosen := (arbTurn s .pke has).map (·.1) } }

/-- The arbiter after the chosen seat's job started. -/
def chosenStarted (a : Arb) (n : Seat) : Arb :=
  if n = a.ptr ∧ a.used ≠ 0 then { a with used := a.used + 1, chosen := none }
  else { ptr := n, used := 1, chosen := none }

/-- Start the chosen job when it is of this operation and a block is free. -/
def runPke (o : Op) (go : Job → State → State) (s : State) : State :=
  if !mayStart s .pke then s
  else
    let s := choosePke s
    match s.arbs[engineIx .pke].chosen with
    | none => s
    | some n =>
      match oldestQueued (s.seat n) .pke with
      | none => s
      | some i =>
        let x := (s.seat n).entries[i]
        let alg := fld (x.args.toList.getD 0 0) 16 8
        if x.op = o && blockReady s o alg then
          let s := { s with arbs := vmod s.arbs (engineIx .pke) (fun a => chosenStarted a n) }
          let (j, s) := startEntry n i s
          choosePke (go j s)
        else s

/-- Give a started job its blocks: the governing part first, the other part the next free block. -/
def giveBlocks (j : Job) (s : State) : State :=
  let k := kindsOf j.op j.alg
  needBlocks j k.1 k.2 s

/-- The job has its input, or needs none: its blocks compute until CELL_UNIT_DONE ends the last unit. -/
def compute (id : Nat) (s : State) : State :=
  match s.job? id with
  | none => s
  | some j => submitParts id (setJob { j with stage := .engine } s)

/-- A PKE job starts: offline, the checks of orders 1 to 4, the blocks, then the input. -/
def startPke (j : Job) (s : State) : State :=
  if s.core.pkeOffline then failJob j .fault s
  else
    match firstFail [
      (!(j.op == .pkeCurveLoad || j.op == .pkeCurveClear) || isHmb j.seat, .denied),
      (pkeArgsOk s j, .badArgument),
      (pkeRightsOk s j, .denied),
      (pkeStateOk s j, .state)] with
    | some st => refuseJob j st s
    | none =>
      let k := kindsOf j.op j.alg
      if k.1 && kindGone s false || k.2 && kindGone s true then failJob j .retired s
      else
        let s := giveBlocks j s
        match s.job? j.id with
        | none => s
        | some j => if j.inLen = 0 || j.op == .pkePublic then compute j.id s else fetchJob j (j.w 1) j.inLen s

/-- PKE_SIGN (R275 to R281). -/
def execPkeSign (s : State) : Host.Outcome State Fault Refusal := .next (runPke .pkeSign startPke s)
/-- PKE_VERIFY (R280). -/
def execPkeVerify (s : State) : Host.Outcome State Fault Refusal := .next (runPke .pkeVerify startPke s)
/-- PKE_HYBRID_SIGN (R286). -/
def execPkeHybridSign (s : State) : Host.Outcome State Fault Refusal := .next (runPke .pkeHybridSign startPke s)
/-- PKE_HYBRID_VERIFY (R286). -/
def execPkeHybridVerify (s : State) : Host.Outcome State Fault Refusal := .next (runPke .pkeHybridVerify startPke s)
/-- PKE_ECDH (R275). -/
def execPkeEcdh (s : State) : Host.Outcome State Fault Refusal := .next (runPke .pkeEcdh startPke s)
/-- PKE_KEM_ENCAPS (R275). -/
def execPkeKemEncaps (s : State) : Host.Outcome State Fault Refusal := .next (runPke .pkeKemEncaps startPke s)
/-- PKE_KEM_DECAPS (R275). -/
def execPkeKemDecaps (s : State) : Host.Outcome State Fault Refusal := .next (runPke .pkeKemDecaps startPke s)
/-- PKE_PUBLIC (R275). -/
def execPkePublic (s : State) : Host.Outcome State Fault Refusal := .next (runPke .pkePublic startPke s)
/-- PKE_RSA_SIGN (R292). -/
def execPkeRsaSign (s : State) : Host.Outcome State Fault Refusal := .next (runPke .pkeRsaSign startPke s)
/-- PKE_RSA_VERIFY (R275). -/
def execPkeRsaVerify (s : State) : Host.Outcome State Fault Refusal := .next (runPke .pkeRsaVerify startPke s)

/-- A curve slot changed. -/
def modCurve (i : Fin 8) (f : CurveSlot → CurveSlot) (s : State) : State :=
  { s with pke := { s.pke with curves := vmod s.pke.curves i f } }

/-- The slot a curve command names. -/
def Job.curveIx (j : Job) : Fin 8 := Fin.ofNat 8 (j.alg - 8)

/-- PKE_CURVE_LOAD starts: the slot is CHECKING while it runs (R295). -/
def startCurveLoad (j : Job) (s : State) : State :=
  let free := s.pke.curves[j.curveIx].st == .empty
  let s := startPke j s
  match s.job? j.id with
  | some x => if free && x.stage == .fetch then modCurve j.curveIx (fun c => { c with st := .checking }) s else s
  | none => s

/-- PKE_CURVE_LOAD (R295). -/
def execPkeCurveLoad (s : State) : Host.Outcome State Fault Refusal := .next (runPke .pkeCurveLoad startCurveLoad s)

/-- PKE_CURVE_CLEAR starts: CLEARING until no started job uses the slot (R296). -/
def startCurveClear (j : Job) (s : State) : State :=
  if s.core.pkeOffline then failJob j .fault s
  else
    match firstFail [
      (isHmb j.seat, .denied), (pkeArgsOk s j, .badArgument), (pkeRightsOk s j, .denied),
      (pkeStateOk s j, .state)] with
    | some st => refuseJob j st s
    | none => settle (modCurve j.curveIx (fun c => { c with st := .clearing, clearJob := some j.id }) s)

/-- PKE_CURVE_CLEAR (R296). -/
def execPkeCurveClear (s : State) : Host.Outcome State Fault Refusal := .next (runPke .pkeCurveClear startCurveClear s)

/-- HYBRID_SECOND_PART (R286): the oldest part that waits takes a free block of its kind. -/
def secondPart (s : State) : State :=
  let fits (j : Job) (lat : Bool) : Bool :=
    (if lat then j.lt == .waiting else j.bn == .waiting) && (freeBlock s lat).isSome
  match s.jobs.find? (fun j => fits j true || fits j false) with
  | none => s
  | some j =>
    let lat := fits j true
    match freeBlock s lat with
    | none => s
    | some b =>
      let s := takeBlock j.id lat b s
      if j.stage = .engine then submitUnit { owner := .pke j.id b } s else s

/-- HYBRID_SECOND_PART. -/
def execHybridSecondPart (s : State) : Host.Outcome State Fault Refusal :=
  .next (if ctrlUp s && !engInReset s .pke then secondPart s else s)

/-! ## The input read (order 2 on content, order 6) -/

/-- The RSA private key inside a wrapped key. -/
structure RsaKey where
  k : Nat
  e : Nat
  n : Nat
  p : Nat
  q : Nat
  deriving DecidableEq, Repr

/-- Read the plaintext of a wrapped RSA key (R276); none when malformed. -/
def rsaKeyOf (b : Bytes) : Option RsaKey :=
  let k := getLe b 0 2
  let el := getLe b 2 1
  if k < 256 || 1024 < k || k % 2 != 0 || el < 3 || 32 < el || b.length != 3 + el + k + 5 * (k / 2) then none
  else some { k := k, e := beNat (slice b 3 el), n := beNat (slice b (3 + el) k),
              p := beNat (slice b (3 + el + k) (k / 2)), q := beNat (slice b (3 + el + k + k / 2) (k / 2)) }

/-- The parts of an RSA verification input: k, e, n, signature, digest. -/
structure RsaPublic where
  k : Nat
  e : Nat
  n : Nat
  sig : Nat
  digest : Bytes
  deriving DecidableEq, Repr

/-- Read an RSA verification input. -/
def rsaPublicOf (hash : Nat) (b : Bytes) : Option RsaPublic :=
  let k := getLe b 0 2
  let el := getLe b (2 + k) 1
  if k < 256 || 1024 < k || el < 3 || 32 < el || b.length != 2 + k + 1 + el + k + hashLen hash then none
  else some { k := k, n := beNat (slice b 2 k), e := beNat (slice b (3 + k) el),
              sig := beNat (slice b (3 + k + el) k), digest := b.drop (3 + 2 * k + el) }

/-- The wrapped key of an RSA signature opened (order 6). -/
def rsaUnwrap (s : State) (j : Job) (b : Bytes) : Option Bytes :=
  let body := b.length - hashLen (j.f 6 0 2)
  let key := (s.slot (keyIx j)).content
  Config.gcmOpen key (b.take 12) (ascii "LIMCY-RSA") (slice b 12 (body - 28)) (slice b (body - 16) 16)

/-- ML-DSA message input: its context and message are well laid out. -/
def mldsaShape (mu : Bool) (b : Bytes) : Bool :=
  mu || (decide (1 + getLe b 0 1 ≤ b.length) && decide (b.length ≤ 1 + getLe b 0 1 + 65536))

/-- The parameter block is well laid out (Table 9-13). -/
def curveShape (b : Bytes) : Bool :=
  let l := getLe b 2 1
  b.take 2 == [0x43#8, 0x01#8] && decide (24 ≤ l) && decide (l ≤ 72) && getLe b 4 4 == 0 && b.length == 25 + 6 * l

/-- Layout that only the content shows (order 2). -/
def contentOk (s : State) (j : Job) (b : Bytes) : Bool :=
  let c := curveOf s j.alg
  match j.op with
  | .pkeSign => algKind j.alg != .mldsa || mldsaShape j.mu b
  | .pkeVerify =>
    match algKind j.alg with
    | .ec => pointShape c (b.take (1 + 2 * c.len))
    | .mldsa => mldsaShape j.mu (b.drop 7219)
    | _ => true
  | .pkeHybridVerify => pointShape p384 (b.take 97)
  | .pkeEcdh => pointShape c b
  | .pkeRsaVerify => (rsaPublicOf (j.f 6 0 2) b).isSome
  | .pkeCurveLoad => curveShape b
  | _ => true

/-- The input has been read: content layout, the wrapped key, then the computation. -/
def pkeInput (j : Job) (b : Bytes) (s : State) : State :=
  if !contentOk s j b then failJob j .badArgument s
  else if j.op = .pkeRsaSign then
    match rsaUnwrap s j b with
    | none => failJob j .badArgument s
    | some p =>
      match rsaKeyOf p with
      | none => failJob j .badArgument s
      | some r =>
        if j.room < r.k then failJob j .badArgument s
        else compute j.id (setJob { j with got := b, out := p } s)
  else compute j.id (setJob { j with got := b } s)

/-! ## Validation (Table 9-7) -/

/-- r and s of a signature lie in [1, n - 1]. -/
def sigInRange (c : CurveParams) (sig : Bytes) : Bool :=
  let r := beNat (sig.take (orderLen c))
  let t := beNat (sig.drop (orderLen c))
  decide (1 ≤ r) && decide (r < c.n) && decide (1 ≤ t) && decide (t < c.n)

/-- The RSA checks on a public key: top byte of n, n odd, e odd with 2^16 < e < 2^256. -/
def rsaRange (k n e : Nat) : Bool :=
  decide (2 ^ (8 * (k - 1)) ≤ n) && n % 2 == 1 && e % 2 == 1 && decide (2 ^ 16 < e) && decide (e < 2 ^ 256)

/-- An encoded Edwards point: checks 2 to 4. -/
def edFault (a : Nat) (pt : Bytes) : Option Status :=
  if !edBelowP a pt || edSmallOrder a pt then some .pkeRange
  else if !edDecodes a pt then some .pkeNotOnCurve
  else none

/-- The status of the first failing check, or none (R280). -/
def validation (s : State) (j : Job) : Option Status :=
  let b := j.got
  let a := j.alg
  let c := curveOf s a
  let lp := 1 + 2 * c.len
  match j.op with
  | .pkeVerify =>
    match algKind a with
    | .ec => if !sigInRange c (slice b lp (2 * orderLen c)) then some .pkeRange else pointFault c (b.take lp)
    | .ed =>
      let sig := slice b (edKeyLen a) (edSigLen a)
      if !decide (leNat (sig.drop (edSigLen a / 2)) < edOrder a) then some .pkeRange
      else edFault a (b.take (edKeyLen a))
    | _ => none
  | .pkeHybridVerify =>
    if !sigInRange p384 (slice b 2689 96) then some .pkeRange else pointFault p384 (b.take 97)
  | .pkeEcdh => pointFault c b
  | .pkeKemEncaps => if Config.mlkemKeyOk b then none else some .pkeRange
  | .pkeRsaVerify =>
    match rsaPublicOf (j.f 6 0 2) b with
    | none => some .pkeRange
    | some r => if rsaRange r.k r.n r.e && decide (2 ≤ r.sig) && decide (r.sig + 2 ≤ r.n) then none else some .pkeRange
  | .pkeRsaSign =>
    match rsaKeyOf j.out with
    | none => some .pkeRange
    | some r => if rsaRange r.k r.n r.e && r.n == r.p * r.q && r.p % 2 == 1 && r.q % 2 == 1 then none else some .pkeRange
  | _ => none

/-! ## Curve checks (Table 9-14) -/

/-- The parameters a block spells. -/
def paramsOf (b : Bytes) : CurveParams :=
  let l := getLe b 2 1
  let f (k : Nat) : Nat := beNat (slice b (24 + k * l) l)
  { len := l, h := getLe b 3 1, p := f 0, a := f 1, b := f 2, gx := f 3, gy := f 4, n := beNat (slice b (24 + 5 * l) (l + 1)) }

/-- |h n - (p + 1)| ≤ 2 √p. -/
def hasseOk (c : CurveParams) : Bool :=
  let x := c.h * c.n
  let y := c.p + 1
  decide ((x - y) * (x - y) + (y - x) * (y - x) ≤ 4 * c.p)

/-- The checks, the two primality tests with the draws they take. -/
def curveChecks (c : CurveParams) (d : Nat) : List Bool :=
  let bl := bitLength c.p
  [decide (192 ≤ bl) && decide (bl ≤ 571) && c.len == (bl + 7) / 8,
   Config.isPrime d c.p,
   decide (c.a < c.p) && decide (c.b < c.p) && (4 * c.a * c.a * c.a + 27 * c.b * c.b) % c.p != 0,
   Config.isPrime (d + 1) c.n,
   decide (1 ≤ c.h) && decide (c.h ≤ 8) && hasseOk c,
   c.n != c.p,
   decide (c.gx < c.p) && decide (c.gy < c.p) && !(c.gx == 0 && c.gy == 0) && onCurve c c.gx c.gy,
   (ecMul c c.n (ecGen c)).isNone,
   (List.range 20).all (fun k => powMod c.p (k + 1) c.n != 1 % c.n)]

/-- Number of the first failing check, or 0. -/
def firstBadCheck (cs : List Bool) : Nat :=
  match cs.findIdx? (fun ok => !ok) with
  | some i => i + 1
  | none => 0

/-- PKE_CURVE_LOAD ends (R295). -/
def endCurveLoad (j : Job) (s : State) : State :=
  let c := paramsOf j.got
  let bad := firstBadCheck (curveChecks c s.draws)
  let s := { s with draws := s.draws + 2 }
  let d := Config.sha3_384 j.got
  if bad = 0 then
    let s := modCurve j.curveIx (fun x => { x with st := .loaded, params := c, digest := d }) s
    let dw := bvBytes d
    decideJob j .ok (wordsOf (0 :: (List.range 6).map (fun i => word (getLe dw (8 * i) 8)))) s
  else decideJob j .pkeCurveRejected (wordsOf [word bad]) (modCurve j.curveIx (fun _ => {}) s)

/-! ## Results (Tables 9-4, 9-5) -/

/-- Number of the block a part ran on. -/
def blockNo : PkePart → Nat
  | .running b | .finished b => b.val
  | _ => 0

/-- W3 of a single-block command. -/
def blockWord (j : Job) : Nat := if j.bn = .unused then blockNo j.lt else blockNo j.bn

/-- W3 of a hybrid command: lattice block, big-number block. -/
def hybridWord (j : Job) : Nat := blockNo j.lt + 8 * blockNo j.bn

/-- The representative input of ML-DSA: μ itself under MU, else context and message (assumption entry 5 on the mark of
μ). -/
def mldsaMessage (mu : Bool) (b : Bytes) : Bytes :=
  if mu then 0xFF#8 :: b else mldsaInput (slice b 1 (getLe b 0 1)) (b.drop (1 + getLe b 0 1))

/-- One count of PKE_COUNTS. -/
def countReject (s : State) : State := { s with pke := { s.pke with validReject := satInc s.pke.validReject } }
def countVerifyFail (s : State) : State := { s with pke := { s.pke with verifyFail := satInc s.pke.verifyFail } }
def countAborted (s : State) : State := { s with pke := { s.pke with aborted := satInc s.pke.aborted } }

/-- A signature did not verify. -/
def verifyFailed (j : Job) (s : State) : State := failJob j .pkeVerifyFail (countVerifyFail s)

/-- Content of the key slot H names. -/
def keyBytes (s : State) (j : Job) : Bytes := (s.slot (keyIx j)).content

/-- A key a started job uses has been erased (R192, R205). -/
def keysGone (s : State) (j : Job) : Bool :=
  (usesKey j.op && !(s.slot (keyIx j)).used) || (j.op == .pkeHybridSign && !(s.slot (key2Ix j)).used)

/-- An ML-DSA signature ends: 256 attempts are the limit (R284). -/
def mldsaEnd (j : Job) (sig : Bytes) (attempts : Nat) (pre : Bytes) (w3 : Nat) (s : State) : State :=
  if 256 < attempts then failJob j .transient s
  else
    let out := pre ++ padTo 4627 sig
    storeJob j (j.w 3) out .ok (wordsOf [word out.length, word attempts, word w3]) s

/-- PKE_SIGN ends. -/
def endSign (j : Job) (s : State) : State :=
  let a := j.alg
  let key := keyBytes s j
  match algKind a with
  | .ec =>
    let c := curveOf s a
    let (sig, s) := ecdsaDraw c (scalarFrom c a key) j.got ecdsaTries s
    storeJob j (j.w 3) sig .ok (wordsOf [word sig.length, 0, word (blockWord j)]) s
  | .ed =>
    let sig := padTo (edSigLen a) (Config.eddsaSign (BitVec.ofNat 8 a) key j.got)
    storeJob j (j.w 3) sig .ok (wordsOf [word sig.length, 0, word (blockWord j)]) s
  | _ =>
    let (rnd, s) := drawBytes 32 s
    let r := Config.mldsaSign key (mldsaMessage j.mu j.got) rnd
    mldsaEnd j r.1 r.2 [] (blockWord j) s

/-- PKE_VERIFY ends. -/
def endVerify (j : Job) (s : State) : State :=
  let a := j.alg
  let b := j.got
  let c := curveOf s a
  let lp := 1 + 2 * c.len
  let ln := orderLen c
  let good : Bool := match algKind a with
    | .ec => ecdsaHolds c (pointOf c (b.take lp)) (b.drop (lp + 2 * ln)) (beNat (slice b lp ln)) (beNat (slice b (lp + ln) ln))
    | .ed => Config.eddsaVerify (BitVec.ofNat 8 a) (b.take (edKeyLen a)) (b.drop (edKeyLen a + edSigLen a))
        (slice b (edKeyLen a) (edSigLen a))
    | _ => Config.mldsaVerify (b.take 2592) (mldsaMessage j.mu (b.drop 7219)) (slice b 2592 4627)
  if good then decideJob j .ok (wordsOf [0, 0, word (blockWord j)]) s else verifyFailed j s

/-- PKE_HYBRID_SIGN ends. -/
def endHybridSign (j : Job) (s : State) : State :=
  let ml := (s.slot (key2Ix j)).content
  let (sig, s) := ecdsaDraw p384 (scalarFrom p384 2 (keyBytes s j)) (bvBytes (Config.sha384 j.got)) ecdsaTries s
  let (rnd, s) := drawBytes 32 s
  let r := Config.mldsaSign ml (mldsaInput [] j.got) rnd
  mldsaEnd j r.1 r.2 (padTo 96 sig) (hybridWord j) s

/-- PKE_HYBRID_VERIFY ends. -/
def endHybridVerify (j : Job) (s : State) : State :=
  let b := j.got
  let msg := b.drop 7412
  let ec := ecdsaVerify p384 (b.take 97) (bvBytes (Config.sha384 msg)) (slice b 2689 96)
  let ml := Config.mldsaVerify (slice b 97 2592) (mldsaInput [] msg) (slice b 2785 4627)
  if ec && ml then decideJob j .ok (wordsOf [3, 0, word (hybridWord j)]) s else verifyFailed j s

/-- PKE_ECDH ends: a new slot with X, or SHA3-512 of a longer X. -/
def endEcdh (j : Job) (s : State) : State :=
  let c := curveOf s j.alg
  let x := ecdhX c (scalarFrom c j.alg (keyBytes s j)) j.got
  createSlot j (cuOf (j.w 5)) (if 64 < c.len then bvBytes (Config.sha3_512 x) else x) 3 s

/-- PKE_KEM_ENCAPS ends: the ciphertext is written, then the slot is made. -/
def endEncaps (j : Job) (s : State) : State :=
  let (m, s) := drawBytes 32 s
  let r := Config.mlkemEncaps j.got m
  storeJob { j with out := padTo 32 r.2 } (j.w 3) (padTo 1568 r.1) .ok noWords s

/-- The ciphertext of an encapsulation is written. -/
def encapsStored (j : Job) (s : State) : State :=
  if quotaFree s j.seat then
    let (h, s) := newSlot j.seat (cuOf (j.w 5)) j.out 3 s
    decideJob j .ok (wordsOf [word h, 1568]) s
  else refuseJob j .state s

/-- PKE_PUBLIC ends. -/
def endPublic (j : Job) (s : State) : State :=
  let a := j.alg
  let key := keyBytes s j
  let c := curveOf s a
  let out := match algKind a with
    | .ec => ecPublic c (scalarFrom c a key)
    | .ed => padTo (edKeyLen a) (Config.eddsaPublic (BitVec.ofNat 8 a) key)
    | .mldsa => padTo 2592 (Config.mldsaPublic key)
    | _ => padTo 1568 (Config.mlkemPublic key)
  storeJob j (j.w 3) out .ok (wordsOf [word out.length]) s

/-- PKE_RSA_SIGN ends; the salt of RSA-PSS is drawn (R277). -/
def endRsaSign (j : Job) (s : State) : State :=
  let hl := hashLen (j.f 6 0 2)
  let digest := j.got.drop (j.got.length - hl)
  let k := getLe j.out 0 2
  let (salt, s) := if j.alg = 0x21 then drawBytes hl s else ([], s)
  let sig := padTo k (Config.rsaSign (BitVec.ofNat 8 j.alg) (BitVec.ofNat 2 (j.f 6 0 2)) j.out digest salt)
  storeJob j (j.w 3) sig .ok (wordsOf [word k]) s

/-- PKE_RSA_VERIFY ends. -/
def endRsaVerify (j : Job) (s : State) : State :=
  match rsaPublicOf (j.f 6 0 2) j.got with
  | none => failJob j .badArgument s
  | some r =>
    if Config.rsaPadOk (BitVec.ofNat 8 j.alg) (BitVec.ofNat 2 (j.f 6 0 2)) (powMod r.sig r.e r.n) r.digest then
      decideJob j .ok noWords s
    else verifyFailed j s

/-- Every part of a PKE job has ended: validation decides first, then the computation (R281). -/
def endPke (j : Job) (s : State) : State :=
  match validation s j with
  | some st => failJob j st (countReject s)
  | none =>
    if keysGone s j then refuseJob j .state s
    else match j.op with
    | .pkeSign => endSign j s
    | .pkeVerify => endVerify j s
    | .pkeHybridSign => endHybridSign j s
    | .pkeHybridVerify => endHybridVerify j s
    | .pkeEcdh => endEcdh j s
    | .pkeKemEncaps => endEncaps j s
    | .pkeKemDecaps => createSlot j (cuOf (j.w 5)) (padTo 32 (Config.mlkemDecaps (keyBytes s j) j.got)) 3 s
    | .pkePublic => endPublic j s
    | .pkeRsaSign => endRsaSign j s
    | .pkeRsaVerify => endRsaVerify j s
    | .pkeCurveLoad => endCurveLoad j s
    | _ => s

/-! ## Registers (R302) -/

/-- PKE_STATUS (Table 9-18). -/
def pkeStatus (s : State) : Word :=
  let busy (b : Fin 6) : Nat := bit s.pke.blocks[b].isSome
  word (bit s.core.pkeOffline * 2 ^ 15 + bit s.boot.mcLoaded * 2 ^ 14 + bit s.pke.romOnly * 2 ^ 13
    + busy 5 * 2 ^ 5 + busy 4 * 2 ^ 4 + busy 3 * 2 ^ 3 + busy 2 * 2 ^ 2 + busy 1 * 2 + busy 0)

/-- PKE_CELLS. -/
def pkeCells (s : State) : Word :=
  let k (b : Fin 6) : Nat := healthyCount s (blockCells b)
  word (k 5 * 2 ^ 36 + k 4 * 2 ^ 32 + k 3 * 2 ^ 12 + k 2 * 2 ^ 8 + k 1 * 2 ^ 4 + k 0)

/-- PKE_COUNTS (Table 9-19). -/
def pkeCounts (p : Pke) : Word :=
  word (p.validReject.toNat * 2 ^ 48 + p.aborted.toNat * 2 ^ 32 + p.cellRetry.toNat * 2 ^ 16 + p.verifyFail.toNat)

/-- A read of PKE_COUNTS clears it (R14). -/
def clearPkeCounts (s : State) : State :=
  { s with pke := { s.pke with validReject := 0, aborted := 0, cellRetry := 0, verifyFail := 0 } }

/-- Code of a curve slot's state. -/
def CurveState.code : CurveState → Nat
  | .empty => 0 | .checking => 1 | .loaded => 2 | .clearing => 3

/-- PKE_CURVEn (Table 9-20). -/
def curveWord (c : CurveSlot) : Word :=
  let shown := if c.st = .loaded ∨ c.st = .clearing then
      fld (c.digest.truncate 64) 0 32 * 2 ^ 32 + c.params.h * 2 ^ 20 + bitLength c.params.p
    else 0
  word (shown + c.st.code * 2 ^ 16)

/-- Value of a PKE register (Table 9-17). -/
def readPke (off : Nat) (s : State) : Word :=
  match off with
  | 0x00 => pkeStatus s
  | 0x08 => pkeCells s
  | 0x10 => if s.boot.mcLoaded then s.boot.mcVersion else 0
  | 0x18 => pkeCounts s.pke
  | _ => if 0x20 ≤ off ∧ off < 0x60 then curveWord s.pke.curves[Fin.ofNat 8 ((off - 0x20) / 8)] else 0

/-- The block whose memory an operand window address lies in (Table 9-21). -/
def windowBlock (off : Nat) : Option (Fin 6) :=
  if off < 0x40000 then some (Fin.ofNat 6 (off / 0x10000))
  else if off < 0x80000 then some (Fin.ofNat 6 (4 + (off - 0x40000) / 0x20000))
  else none

/-- n bytes of the operand window: zero for a block that runs a job and for the reserved part. -/
def windowRead (off n : Nat) (s : State) : Nat :=
  match windowBlock off with
  | some b => if s.pke.blocks[b].isSome then 0 else leNat (memRead 0 s.pke.window off n)
  | none => 0

/-- A write of the operand window: ignored for a block that runs a job and in the reserved part. -/
def windowWrite (off : Nat) (data : Bytes) (s : State) : State :=
  match windowBlock off with
  | some b => if s.pke.blocks[b].isSome then s
    else { s with pke := { s.pke with window := memWrite 0 s.pke.window off data } }
  | none => s

end Sys2Proof.Machine
end

