-- ==== Sys2Proof/Machine/LifeCycle.lean ====
section
/-! DEFINITION. Life cycle, roles and debug (chapter 06): credentials, LC_TRANSITION with the erasure of user secrets,
the debug levels, and the resume of an interrupted transition. The commands that burn fuses are given their rows with
the OTP command path. -/

namespace Sys2Proof.Machine

/-! ## Credentials (R196 to R198) -/

/-- Lengths of a credential buffer for 1 to 3 certificates (R197). -/
def credLenOk (n : Nat) : Bool := n == 14852 || n == 22288 || n == 29724

/-- Certificate i of a credential buffer. -/
def certAt (b : Bytes) (i : Nat) : Bytes := slice b (2693 + 7436 * i) 7436

/-- A certificate is laid out as Table 6-7 states. -/
def certLayout (c : Bytes) : Bool :=
  c.length == 7436 && getLe c 0 1 == 1 && getLe c 20 4 == 0 && getLe c 24 1 == 4
    && (getLe c 1 1 == 3 || getLe c 2 2 == 0)

/-- A credential buffer is laid out as R197 states. -/
def credLayout (b : Bytes) : Bool :=
  let n := getLe b 2 1
  getLe b 0 1 == 0xC7 && getLe b 1 1 == 1 && getLe b 3 1 == 0 && decide (1 ≤ n) && decide (n ≤ 3)
    && b.length == 2693 + 7436 * n + 4723 && getLe b 4 1 == 4 && (List.range n).all (fun i => certLayout (certAt b i))

/-- The certificates of a buffer. -/
def credCerts (b : Bytes) : List Bytes := (List.range (getLe b 2 1)).map (certAt b)

/-- The last certificate. -/
def credLeaf (b : Bytes) : Bytes := certAt b (getLe b 2 1 - 1)

/-- Serial of the last certificate. -/
def leafSerial (b : Bytes) : Word := word (getLe (credLeaf b) 4 8)

/-- Every certificate verifies dual under its issuer and is bound to any device or to this one. -/
def chainOk (ser : Bytes) : Bytes × Bytes → List Bytes → Bool
  | _, [] => true
  | issuer, c :: cs =>
    dualVerify issuer.1 issuer.2 (c.take 2713) (c.drop 2713)
      && (slice c 12 8 == List.replicate 8 0 || slice c 12 8 == ser)
      && chainOk ser (slice c 24 97, slice c 121 2592) cs

/-- The chain of a buffer and the proof over a message by its last subject. -/
def credSigned (s : State) (b msg : Bytes) : Bool :=
  let leaf := credLeaf b
  chainOk (wordBytes (serial s)) (slice b 4 97, slice b 101 2592) (credCerts b)
    && dualVerify (slice leaf 24 97) (slice leaf 121 2592) msg (b.drop (b.length - 4723))

/-- Anchor digest: SHA3-384 over both anchor keys (R196). -/
def anchorDigest (b : Bytes) : BitVec 384 := Config.sha3_384 (slice b 4 2689)

/-! ## Anchors (Table 6-5), judged on live reads -/

/-- Live value of a fuse word. -/
def liveWord (s : State) (a : Nat) : Word := (resolve a (otpLive s a)).1

/-- Bytes of consecutive live words. -/
def liveBytes (s : State) (a n : Nat) : Bytes := ((List.range n).map (fun i => wordBytes (liveWord s (a + i)))).flatten

/-- The digest is fused in six words, all of them non-zero. -/
def fusedDigest (s : State) (a : Nat) (d : BitVec 384) : Bool :=
  (List.range 6).all (fun i => liveWord s (a + i) != 0) && liveBytes s a 6 == bvBytes d

/-- An anchor admitted as maker. -/
def makerAnchor (s : State) (d : BitVec 384) : Bool :=
  let r3 := regionState s 3
  let rom := d == Config.romMakerDigest && (s.lc.state == lcBlank || (s.lc.state == lcTest && r3 != .digestLocked))
  let fused := r3 == .digestLocked && liveBytes s 0x1B0 6 == bvBytes d
  r3 != .sealedIncomplete && r3 != .altered && (rom || fused)

/-- An anchor admitted as installer: slot 0 or slot 1 of region 5. -/
def installerAnchor (s : State) (d : BitVec 384) : Bool :=
  regionState s 5 != .altered && (fusedDigest s 0x280 d || fusedDigest s 0x288 d)

/-- A word of slot 0 is consistent with its 8 bytes of a digest (R201). -/
def claimWordOk (s : State) (d : BitVec 384) (i : Nat) : Bool :=
  (otpLive s (0x280 + i)).1 &&& ~~~(codeword (word (getLe (bvBytes d) (8 * i) 8))) == 0

/-- Every word of slot 0 that reads non-zero is consistent with a digest. -/
def claimConsistent (s : State) (d : BitVec 384) : Bool :=
  (List.range 6).all (fun i => liveWord s (0x280 + i) == 0 || claimWordOk s d i)

/-- Some word of slot 0 reads zero or is marginal: the claim is not complete. -/
def claimOpen (s : State) : Bool :=
  (List.range 6).any (fun i => liveWord s (0x280 + i) == 0 || marginal (0x280 + i) (otpLive s (0x280 + i)))

/-- An anchor admitted as claimant. -/
def claimantAnchor (s : State) (d : BitVec 384) : Bool :=
  s.lc.state == lcIntegration && claimOpen s && claimConsistent s d

/-- The role a chain proves (R198), apart from its signatures. -/
def credRole (s : State) (b : Bytes) : Role :=
  let roles := (credCerts b).map (fun c => getLe c 1 1)
  let d := anchorDigest b
  if roles.all (· == 1) && makerAnchor s d then .maker
  else if roles.all (· == 2) && installerAnchor s d then .installer
  else if roles.dropLast.all (· == 2) && roles.getLast? == some 3 && installerAnchor s d
      && decide (ctrLive s 16 ≤ getLe (credLeaf b) 2 2) then .operator
  else if roles.all (· == 2) && claimantAnchor s d then .claimant
  else .none

/-! ## LC_AUTH_BEGIN, LC_AUTH_PROVE, LC_AUTH_END -/

/-- A nonce that has not expired (R199). -/
def nonceLive (s : State) (n : Option Nonce) : Bool :=
  match n with
  | some x => decide (lbeat s < x.beat.toNat + 2 ^ 24)
  | none => false

/-- LC_AUTH_BEGIN starts. -/
def startAuthBegin (j : Job) (s : State) : State :=
  match firstFail [(isHmb j.seat, .denied), (zeroFrom (j.w 0) 1, .badArgument)] with
  | some st => refuseJob j st s
  | none =>
    let (x, s) := drawBytes 32 s
    let nonce : Nonce := { value := bytesBv 256 x, beat := s.beat.lbeat }
    let s := modAuth j.seat (fun a =>
      if j.f 0 0 1 = 0 then { a with roleNonce := some nonce } else { a with consentNonce := some nonce }) s
    decideJob j .ok (wordsOf [word (getLe x 0 8), word (getLe x 8 8), word (getLe x 16 8), word (getLe x 24 8), serial s]) s

/-- LC_AUTH_BEGIN (R199, R212). -/
def execLcAuthBegin (s : State) : Host.Outcome State Fault Refusal := .next (runJob .lcAuthBegin true startAuthBegin s)

/-- PKE can do dual checks: not offline, a healthy block of each kind (Table 6-15 order 4). -/
def dualServes (s : State) : Bool := !s.core.pkeOffline && !kindGone s false && !kindGone s true

/-- LC_AUTH_PROVE starts: past order 1 the role held ends (R199). -/
def startAuthProve (j : Job) (s : State) : State :=
  if !isHmb j.seat then refuseJob j .denied s
  else
    let s := endRole j.seat 2 s
    let nonce := (authOf s j.seat).roleNonce
    match firstFail [
      (zeroFrom (j.w 1) 32 && credLenOk (j.f 1 0 32), .badArgument),
      (nonceLive s nonce && dualServes s, .state)] with
    | some st => refuseJob j st s
    | none =>
      let value : Bytes := match nonce with
        | some x => bvBytes x.value
        | none => []
      fetchJob { j with out := value } (j.w 0) (j.f 1 0 32) s

/-- LC_AUTH_PROVE (R198). -/
def execLcAuthProve (s : State) : Host.Outcome State Fault Refusal := .next (runJob .lcAuthProve true startAuthProve s)

/-- The buffer of a proof has been read: its layout, then the nonce is consumed and the dual checks run. -/
def proveFetched (j : Job) (b : Bytes) (s : State) : State :=
  if !credLayout b then failJob j .badArgument s
  else nestedPke { j with got := b } (modAuth j.seat (fun a => { a with roleNonce := none }) s)

/-- A credential or consent failed (R198). -/
def credFailed (j : Job) (s : State) : State :=
  let e : EventRec := {
    code := 0x0702, seat := stampOf j.seat, status := statusCode .denied, opcode := opcodeOf j.op,
    object := leafSerial j.got }
  failJob j .denied (record e s)

/-- The proof message: 0x50, the seat, the nonce, the device serial. -/
def proofMessage (j : Job) (s : State) : Bytes := [0x50#8, stampOf j.seat] ++ j.out ++ wordBytes (serial s)

/-- The dual checks have ended: the role is held, or ST_DENIED covers every failed check. A seat that was reset
meanwhile holds no role. -/
def proveDone (j : Job) (s : State) : State :=
  let role := credRole s j.got
  let j := { j with bn := .unused, lt := .unused }
  if role != .none && credSigned s j.got (proofMessage j s) then
    let lapse := word (lbeat s + 2 ^ s.boot.cfg.credExp)
    let held : RoleHeld := {
      role := role, lapse := lapse, epoch := BitVec.ofNat 16 (getLe (credLeaf j.got) 2 2),
      serial := leafSerial j.got, anchor := anchorDigest j.got }
    let s := if j.detached then s else modAuth j.seat (fun a => { a with held := held }) s
    decideJob j .ok (wordsOf [word role.code, lapse, leafSerial j.got]) s
  else credFailed j s

/-- LC_AUTH_END starts. -/
def startAuthEnd (j : Job) (s : State) : State :=
  if !isHmb j.seat then refuseJob j .denied s else decideJob j .ok noWords (endRole j.seat 2 s)

/-- LC_AUTH_END (R199). -/
def execLcAuthEnd (s : State) : Host.Outcome State Fault Refusal := .next (runJob .lcAuthEnd true startAuthEnd s)

/-! ## Erasure of user secrets (R192, Table 6-4) -/

/-- A life-cycle record in the heartwood's reserved area: SEQ waits for its write (R416). -/
def lcHeart (kind : BitVec 16) (detail : Bytes) (s : State) : State := (hwWrite kind (stampNow s) detail none 0 s).1

/-- Type 0x0110: an erasure step is verified. -/
def stepVerified (step last : Nat) (s : State) : State := lcHeart 0x0110 (leBytes 1 step ++ leBytes 2 last) s

/-- Nothing of step 2 is left to erase. -/
def keysErased (s : State) : Bool :=
  (indices 256).all (fun i => i.val == 9 || !(s.slot i).used)
    && (indices 272).all (fun i => s.dig.msgs[i].st == .free || s.dig.msgs[i].st == .failed) && s.pke.window.isEmpty

/-- Step 2: the key slots, the DIG contexts with their context key, and PKE operand memory. Derived keys are gone for
the rest of the start; a fresh slot 9 is drawn at once. -/
def eraseKeys (s : State) : State :=
  let s := failAllMsgs .state (zeroizeStore s)
  let s := { s with pke := { s.pke with window := [] },
                    keys := { s.keys with rootLoaded := false, l0Done := false, l1Done := false } }
  stepVerified 2 0 (freshContextKey s)

/-- Step 3: operation 0x02 to all six ports; its verification is kd_ack from each of them. -/
def clearLinks (s : State) : State :=
  (indices 6).foldl (fun s k => clearPort k s) { s with lc := { s.lc with kdWait := 0x3F, step := 3 } }

/-- Words of step 4 in their order: the first of each region, then the rest. -/
def eraseWords : List Nat :=
  [0x300, 0x380] ++ (List.range 127).map (fun i => 0x301 + i) ++ (List.range 127).map (fun i => 0x381 + i)

/-- Burns of step 4: all 72 bits of each word that does not read all ones. -/
def eraseBurns (s : State) : List WordBurn :=
  (eraseWords.filter (fun a => !allOnes (otpLive s a))).map (fun a => { addr := a, want := BitVec.allOnes 72 })

/-- Regions 6 and 7 read all ones. -/
def regionsErased (s : State) : Bool := eraseWords.all (fun a => allOnes (otpLive s a))

/-- Step 5: every sector of the secret area of the flash. -/
def eraseSecrets (s : State) : State := flashErase secretBase secretSize s

/-- Step 5 where the work already done is verified and skipped (R191, R194). -/
def verifySecrets (s : State) : State := if flashBlank s secretBase secretSize then s else eraseSecrets s

/-! ## LC_TRANSITION (R189 to R193) -/

/-- No partition exists. -/
def noPartition (s : State) : Bool := (indices 64).all (fun n => !partExists s n)

/-- Prerequisites of a target (Table 6-3). -/
def prerequisites (s : State) (t : Nat) : Bool :=
  let bad (r : Nat) : Bool := regionState s r == .sealedIncomplete || regionState s r == .altered
  match t with
  | 2 => regionState s 2 == .wlock && regionState s 3 == .digestLocked && regionState s 4 == .wlockRlock
      && !([2, 3, 4, 14, 15].any bad) && s.lc.level != 3
  | 3 => (regionState s 5 == .wlock || regionState s 5 == .digestLocked)
      && (List.range 32).all (fun r => regionState s r != .altered) && s.boot.cfgSource == 1
  | 4 => noPartition s && s.lc.level != 3
  | 5 => noPartition s
  | _ => true

/-- The role has the right to the target from the state in force (Tables 6-3, 6-8). -/
def transitionRight (s : State) (role : Role) (t : Nat) : Bool :=
  let lc := s.lc.state
  match role with
  | .maker => t == 1 || t == 2 || (t == 5 && (lc == lcTest || lc == lcReturned))
  | .installer => t == 3 || t == 4 || (t == 5 && (lc == lcIntegration || lc == lcFielded || lc == lcReturned))
  | _ => false

/-- The state in force admits the target: it is the one before it and complete; Scrapped is always admitted from Test
to Returned (R188, R189, R191). -/
def transitionFrom (s : State) (t : Nat) : Bool :=
  let lc := s.lc.state.toNat
  if t = 5 then decide (1 ≤ lc) && decide (lc ≤ 4)
  else lc + 1 == t && !s.lc.incomplete && !s.lc.nextValid
    && (match s.lc.committed with
        | some c => c.toNat == t
        | none => true)

/-- Another life-cycle job that erases or burns is in progress. -/
def lcBusy (s : State) (id : Nat) : Bool :=
  s.jobs.any (fun j => j.id != id && (j.op == .lcTransition || (j.op == .lcDebugOpen && j.num == 3))
    && (match j.stage with | .ready _ _ => false | _ => true))

/-- Bits of field k that read one at the high margin. -/
def fieldCount (s : State) (k : Nat) : Nat := popCount 16 (fld (dataOf (otpLive s (fieldPlace k).1).2) (fieldPlace k).2 16)

/-- The burn of a field, bit by bit. -/
def fieldBurn (k : Nat) : WordBurn :=
  { addr := (fieldPlace k).1, want := BitVec.ofNat 72 (0xFFFF * 2 ^ (fieldPlace k).2) }

/-- A burn of a life-cycle job; OTP_CMD shows no opcode for it (Table 5-9). -/
def lcBurn (j : Job) (todo : List WordBurn) (single : Bool) (s : State) : State :=
  queueBurn { owner := .job j.id, seat := stampOf j.seat, todo := todo, single := single } s

/-- Step 3 of R190 and then step 4: the record of the start, and the field. The job keeps seat and leaf serial in got,
the last OTP word erased in num. -/
def burnField (j : Job) (s : State) : State :=
  let t := j.f 0 0 3
  let s := lcHeart 0x0100 (leBytes 1 t ++ j.got) s
  lcBurn j [fieldBurn t] true { s with lc := { s.lc with step := 6, addr := BitVec.ofNat 12 (fieldPlace t).1 } }

/-- Erasure step 4 begins: regions 6 and 7. -/
def burnErasure (j : Job) (s : State) : State :=
  lcBurn j (eraseBurns s) false { s with lc := { s.lc with step := 4, addr := 0x300 } }

/-- Work before the first field bit: erasure for Returned and Scrapped. Towards Scrapped and in a continued transition
step 2 is skipped when it is already verified. -/
def beginTransition (j : Job) (s : State) : State :=
  if j.f 0 0 3 < 4 then burnField j s
  else
    let skip := (j.f 0 0 3 == 5 || s.lc.committed.isSome) && keysErased s
    let s := { s with lc := { s.lc with step := 2 } }
    clearLinks (if skip then stepVerified 2 0 s else eraseKeys s)

/-- LC_TRANSITION starts (R190 step 1). -/
def startTransition (j : Job) (s : State) : State :=
  let t := j.f 0 0 3
  let again := s.lc.committed == some (BitVec.ofNat 3 t)
  match firstFail [
    (isHmb j.seat, .denied),
    (zeroFrom (j.w 0) 3 && decide (1 ≤ t) && decide (t ≤ 5) && j.w 1 == serial s, .badArgument),
    (transitionRight s (roleOf s j.seat) t, .denied),
    (transitionFrom s t && (again || prerequisites s t) && !lcBusy s j.id, .state),
    (vppOk s s.core.vpp, .otpSupply)] with
  | some st => refuseJob j st s
  | none =>
    let j := { j with got := stampOf j.seat :: wordBytes (authOf s j.seat).held.serial }
    let s := { s with lc := { s.lc with
      hold := true, step := 1, target := BitVec.ofNat 3 t, addr := 0, bits := BitVec.ofNat 5 (fieldCount s t) } }
    beginTransition j (setJob j s)

/-- Result words of LC_TRANSITION. -/
def transitionWords (j : Job) (s : State) : Words := wordsOf [word s.lc.step.toNat, word s.lc.bits.toNat, word j.num]

/-- Every port has acknowledged the clear: step 4 of the erasure. -/
def transitionCleared (j : Job) (s : State) : State := burnErasure j (stepVerified 3 0 s)

/-- The burn of regions 6 and 7 has ended (step 4), then the flash (step 5) and the field. -/
def erasureBurned (j : Job) (e : BurnEnd) (s : State) : State :=
  let s := refreshRegion 7 (refreshRegion 6 s)
  if e.status ≠ .ok then
    let j := { j with num := s.lc.addr.toNat }
    decideJob j e.status (transitionWords j s) { s with lc := { s.lc with hold := s.lc.committed.isSome } }
  else
    let j := { j with num := 0x3FF }
    let s := setJob j (stepVerified 4 0x3FF { s with lc := { s.lc with addr := 0x3FF, step := 5 } })
    burnField j (stepVerified 5 0x3FF (if s.lc.committed.isSome then verifySecrets s else eraseSecrets s))

/-- The burn of the field has ended (R190 steps 4 and 5, R191). -/
def fieldBurned (j : Job) (e : BurnEnd) (s : State) : State :=
  let t := j.f 0 0 3
  let s := { s with lc := { s.lc with bits := BitVec.ofNat 5 (fieldCount s t) } }
  if e.status = .ok then
    let s := lcHeart 0x0101 (leBytes 1 t ++ j.got) s
    let s := { s with lc := { s.lc with
      step := 7, next := BitVec.ofNat 3 t, nextValid := true, hold := s.lc.committed.isSome, committed := none } }
    decideJob j .ok (transitionWords j s) s
  else
    let begun := decide (0 < e.most) || fieldAny (otpLive s) t
    let s := if begun then { s with lc := { s.lc with committed := some (BitVec.ofNat 3 t) } }
      else { s with lc := { s.lc with hold := s.lc.committed.isSome } }
    decideJob j e.status (transitionWords j s) s

/-- A burn of LC_TRANSITION has ended. -/
def transitionBurned (j : Job) (e : BurnEnd) (s : State) : State :=
  if s.lc.step = 4 then erasureBurned j e s else fieldBurned j e s

/-! ## Debug levels (R203 to R206) -/

/-- The seat may name the level (Table 6-14). -/
def levelSeat (n : Seat) (level : Nat) : Bool := if level = 1 then decide (n.val < 64) else isHmb n

/-- The partition of a seat's own, 0 for other seats. -/
def ownPart (n : Seat) : Part := (partOf n).getD 0

/-- The state admits opening a level (order 4). -/
def debugState (s : State) (j : Job) : Bool :=
  match j.f 0 0 2 with
  | 1 => profAdmitted s && !s.part.recs[ownPart j.seat].conf
  | 2 => operAdmitted s && s.lc.level == 0
  | _ => (s.lc.state == lcTest || s.lc.state == lcReturned) && !s.lc.incomplete && (fuse s 0x004).getLsbD 0
      && noPartition s && s.lc.level != 3 && !s.lc.hold && !lcBusy s j.id
      && (s.lc.state != lcReturned || (nonceLive s (authOf s j.seat).consentNonce && dualServes s))

/-- The role may open a level (order 3). -/
def debugRight (s : State) (n : Seat) (level : Nat) : Bool :=
  match level with
  | 1 => true
  | 2 => operatorRight s n
  | _ => roleOf s n == .maker

/-- Erasure steps 2 and 3 before maker debug opens (R205). Partition creation is refused from here on (Table 6-21). -/
def beginMaker (j : Job) (s : State) : State :=
  let j := { j with stage := .engine, num := 3, bn := .unused, lt := .unused,
                    got := stampOf j.seat :: wordBytes (authOf s j.seat).held.serial }
  let step := s.lc.step
  let s := clearLinks (eraseKeys (setJob j { s with lc := { s.lc with hold := true } }))
  settle { s with lc := { s.lc with step := step } }

/-- LC_DEBUG_OPEN starts. -/
def startDebugOpen (j : Job) (s : State) : State :=
  let level := j.f 0 0 2
  let consent := level == 3 && s.lc.state == lcReturned
  match firstFail [
    (levelSeat j.seat level, .denied),
    (zeroFrom (j.w 0) 2 && level != 0 && zeroFrom (j.w 2) 32 && (!consent || credLenOk (j.f 2 0 32)), .badArgument),
    (debugRight s j.seat level, .denied),
    (debugState s j, .state)] with
  | some st => refuseJob j st s
  | none =>
    if level = 1 then
      let n := ownPart j.seat
      let s := if s.lc.prof.getLsbD n.val then s
        else debugRecord 1 (BitVec.ofNat 8 n.val) 1 (stampOf j.seat) 0
          (advanceG n { s with lc := { s.lc with prof := s.lc.prof ||| BitVec.ofNat 64 (2 ^ n.val) } })
      decideJob j .ok (wordsOf [1]) s
    else if level = 2 then
      decideJob j .ok (wordsOf [2]) (debugRecord 2 0xFF 1 (stampOf j.seat) 0 (setLevel 2 (stampOf j.seat) s))
    else if consent then
      let value : Bytes := match (authOf s j.seat).consentNonce with
        | some x => bvBytes x.value
        | none => []
      fetchJob { j with out := value, num := 3 } (j.w 1) (j.f 2 0 32) s
    else beginMaker j s

/-- LC_DEBUG_OPEN (R205). -/
def execLcDebugOpen (s : State) : Host.Outcome State Fault Refusal := .next (runJob .lcDebugOpen true startDebugOpen s)

/-- The consent has been read: its layout, then the nonce is consumed and the dual checks run. -/
def consentFetched (j : Job) (b : Bytes) (s : State) : State :=
  if !credLayout b then failJob j .badArgument s
  else nestedPke { j with got := b } (modAuth j.seat (fun a => { a with consentNonce := none }) s)

/-- The consent message (R206). -/
def consentMessage (j : Job) (s : State) : Bytes := [0x43#8, 0x03#8] ++ j.out ++ wordBytes (serial s)

/-- The dual checks of a consent have ended. The conditions of order 4 must still hold. -/
def consentDone (j : Job) (s : State) : State :=
  if credRole s j.got == .installer && credSigned s j.got (consentMessage j s) then
    if noPartition s && s.lc.level != 3 && !s.lc.hold then beginMaker j s
    else refuseJob { j with bn := .unused, lt := .unused } .state s
  else credFailed { j with bn := .unused, lt := .unused } s

/-- Every port has acknowledged: the root-slot registers are cleared, operator debug closes, and maker debug is open
until the chip reset (R205). -/
def makerCleared (j : Job) (s : State) : State :=
  let s := stepVerified 3 0 s
  let s := { s with keys := { s.keys with root0 := [], root1 := [], held := true },
                    lc := { s.lc with hold := s.lc.committed.isSome } }
  let s := setLevel 3 (stampOf j.seat) (closeOper (stampOf j.seat) 0 s)
  decideJob j .ok (wordsOf [3]) (hwNote 0x0080 j.got (debugRecord 3 0xFF 1 (stampOf j.seat) 0 s))

/-- A key delivery clear of a port is acknowledged; with the last of six the erasure that waits goes on. -/
def clearAcked (k : Port) (s : State) : State :=
  let left := s.lc.kdWait &&& ~~~(BitVec.ofNat 6 (2 ^ k.val))
  let was := s.lc.kdWait
  let s := { s with lc := { s.lc with kdWait := left } }
  if was = 0 ∨ left ≠ 0 then s
  else
    match s.jobs.find? (fun j => j.stage == .engine && (j.op == .lcTransition || (j.op == .lcDebugOpen && j.num == 3))) with
    | some j => if j.op = .lcTransition then transitionCleared j s else makerCleared j s
    | none => s

/-- LC_DEBUG_CLOSE starts. -/
def startDebugClose (j : Job) (s : State) : State :=
  let level := j.f 0 0 2
  match firstFail [
    (levelSeat j.seat level, .denied),
    (zeroFrom (j.w 0) 2 && level != 0, .badArgument),
    (level != 2 || operatorRight s j.seat, .denied),
    (if level = 1 then s.lc.prof.getLsbD (ownPart j.seat).val else level == 2 && s.lc.level == 2, .state)] with
  | some st => refuseJob j st s
  | none =>
    let s := if level = 1 then closeProf (ownPart j.seat) (stampOf j.seat) 1 s else closeOper (stampOf j.seat) 1 s
    decideJob j .ok noWords s

/-- LC_DEBUG_CLOSE (R205). -/
def execLcDebugClose (s : State) : Host.Outcome State Fault Refusal := .next (runJob .lcDebugClose true startDebugClose s)

/-- LC_DEBUG_POLICY starts: the maker adds bit 0 in Test, the installer bits 1 and 2 in Integration and Fielded. -/
def startDebugPolicy (j : Job) (s : State) : State :=
  let role := roleOf s j.seat
  let lc := s.lc.state
  match firstFail [
    (isHmb j.seat, .denied),
    (zeroFrom (j.w 0) 3, .badArgument),
    ((role == .maker && j.f 0 1 2 == 0) || (role == .installer && j.f 0 0 1 == 0), .denied),
    (if role == .maker then lc == lcTest else lc == lcIntegration || lc == lcFielded, .state),
    (vppOk s s.core.vpp, .otpSupply)] with
  | some st => refuseJob j st s
  | none => lcBurn j [{ addr := 0x004, want := (j.w 0).zeroExtend 72 }] false s

/-- LC_DEBUG_POLICY ends: the resolved policy as it now reads. -/
def policyBurned (j : Job) (e : BurnEnd) (s : State) : State :=
  decideJob j e.status (wordsOf [liveWord s 0x004 &&& 7]) s

/-! ## Claims (R201) -/

/-- After a burn into slot 0: claimants whose digest is not consistent lapse, and all of them once the claim is
complete. -/
def settleClaims (s : State) : State :=
  [host, mgmt, bmc].foldl (fun s n =>
    let h := (authOf s n).held
    let complete := (List.range 6).all (fun i => otpLive s (0x280 + i) ==
      (codeword (word (getLe (bvBytes h.anchor) (8 * i) 8)), codeword (word (getLe (bvBytes h.anchor) (8 * i) 8))))
    if h.role = .claimant && (!claimConsistent s h.anchor || complete || !claimOpen s) then endRole n 2 s else s) s

/-- Operators whose certificate epoch counter 16 has passed lapse (R200). -/
def settleOperators (s : State) : State :=
  [host, mgmt, bmc].foldl (fun s n =>
    let h := (authOf s n).held
    if h.role = .operator && decide (h.epoch.toNat < ctrLive s 16) then endRole n 2 s else s) s

/-! ## Resuming an interrupted transition (R194) -/

/-- Type 0x0102: field, outcome (1 complete, 2 blocked, 3 failed), resume-mark bit burned. -/
def resumeNote (k outcome mark : Nat) (s : State) : State :=
  lcHeart 0x0102 (leBytes 1 k ++ leBytes 1 outcome ++ leBytes 1 mark) s

/-- The resume stops: LC_PROGRESS shows it blocked. -/
def resumeBlocked (k outcome mark : Nat) (s : State) : State :=
  resumeNote k outcome mark { s with lc := { s.lc with step := 8 } }

/-- The resume mark: the lowest bit of the field's mark word not yet one. -/
def resumeMark (k : Nat) (ps : List Pulse) (s : State) : State × List Pulse × Nat :=
  let a := 0x00F + k
  let v := dataOf (otpLive s a).2
  match (List.range 64).find? (fun i => !v.getLsbD i) with
  | none => (startNote 0x0902 a s, ps, 0xFF)
  | some i =>
    let r := burnNow [{ addr := a, want := BitVec.ofNat 72 (2 ^ i) }] true ps s
    (r.1, r.2.1, i)

/-- Erasure verified afresh inside a start; true when every step holds. -/
def resumeErasure (acks : BitVec 6) (ps : List Pulse) (s : State) : State × List Pulse × Bool :=
  let s := stepVerified 2 0 { s with lc := { s.lc with step := 2 } }
  let s := (indices 6).foldl (fun s k => emit (.keyMessage k clearMsg) s) { s with lc := { s.lc with step := 3 } }
  if acks ≠ 0x3F then (s, ps, false)
  else
    let s := { stepVerified 3 0 s with lc := { (stepVerified 3 0 s).lc with step := 4, addr := 0x300 } }
    let r := burnNow (eraseBurns s) false ps s
    let s := refreshRegion 7 (refreshRegion 6 r.1)
    if !regionsErased s then (s, r.2.1, false)
    else
      let s := stepVerified 4 0x3FF { s with lc := { s.lc with addr := 0x3FF, step := 5 } }
      (stepVerified 5 0x3FF (verifySecrets s), r.2.1, true)

/-- The field's remaining bits. -/
def resumeBits (k mark : Nat) (ps : List Pulse) (s : State) : State × List Pulse :=
  let s := { s with lc := { s.lc with step := 6, addr := BitVec.ofNat 12 (fieldPlace k).1 } }
  let r := burnNow [fieldBurn k] true ps s
  let s := { r.1 with lc := { r.1.lc with bits := BitVec.ofNat 5 (fieldCount r.1 k) } }
  if r.2.2 = .ok then (resumeNote k 1 mark { s with lc := { s.lc with step := 7, bits := 16 } }, r.2.1)
  else (resumeBlocked k 3 mark s, r.2.1)

/-- Resume at step 2 of the start sequence. For Fielded the prerequisites are judged at step 3: the mark burned is
kept for it. -/
def resumeField (acks : BitVec 6) (ps : List Pulse) (s : State) : State × List Pulse × Nat :=
  if !s.lc.incomplete then (s, ps, 0xFF)
  else
    let k := s.lc.state.toNat
    let (s, ps, mark) := resumeMark k ps s
    let s := { s with lc := { s.lc with
      resumed := true, step := 1, target := s.lc.state, bits := BitVec.ofNat 5 (fieldCount s k) } }
    if k = 3 then (s, ps, mark)
    else
      let (s, ps, ok) := if 4 ≤ k then resumeErasure acks ps s else (s, ps, true)
      if !ok || !prerequisites s k then (resumeBlocked k 2 mark s, ps, mark)
      else
        let r := resumeBits k mark ps s
        (r.1, r.2, mark)

/-- Fielded's resume, once the configuration record has been judged. -/
def resumeFielded (mark : Nat) (ps : List Pulse) (s : State) : State × List Pulse :=
  if s.lc.incomplete && s.lc.state == lcFielded then
    if prerequisites s 3 then resumeBits 3 mark ps s else (resumeBlocked 3 2 mark s, ps)
  else (s, ps)

end Sys2Proof.Machine
end

