-- ==== Sys2Proof/Machine/Mailbox.lean ====
section
/-! DEFINITION. Mailboxes (R126 to R132): posts, reads, emptying, waiting notices and the drop at a departure. -/

namespace Sys2Proof.Machine

/-- Receiver reachability (Table 3-16). -/
inductive Reach where
  | ready | sleeping | absent
  deriving DecidableEq, Repr

/-- The management cores are released and running. -/
def mgmtRunning (s : State) : Bool := s.pins.mgmtRelease && s.pins.rstMgmtN

/-- Reachability of a receiver (Table 3-16). -/
def reach (s : State) (n : Seat) : Reach :=
  if n.val < 64 then
    if !seatExists s n then .absent else if s.recd.creset.phase = 0 then .ready else .sleeping
  else if n = mgmt then
    if mgmtRunning s then .ready
    else if !s.core.startDone || s.boot.everReleased then .sleeping
    else .absent
  else if n = bmc then (if s.i3cAddressed then .ready else .sleeping)
  else .ready

/-- Mailbox m. -/
def State.box (s : State) (m : Mbx) : Mailbox := s.mbx[m]

/-- Change a mailbox. -/
def State.modBox (s : State) (m : Mbx) (f : Mailbox → Mailbox) : State := { s with mbx := vmod s.mbx m f }

/-- The status of a post (Table 3-15). -/
def postStatusOf (s : State) (m : Mbx) (data : Word) : Status :=
  let recv := fld data 0 7
  if 66 < recv then .badArgument
  else if (s.box m).full then .busy
  else
    match reach s (seatNo recv) with
    | .absent => .state
    | .sleeping => if data.getLsbD 8 then .state else .pending
    | .ready => .ok

/-- The notice a post stores. -/
def noticeOf (sender : Seat) (ptr data : Word) (waiting : Bool) : Mailbox :=
  { ptr := ptr, length := BitVec.ofNat 32 (fld data 32 32), tag := BitVec.ofNat 16 (fld data 16 16),
    sender := BitVec.ofNat 7 sender.val, receiver := BitVec.ofNat 7 (fld data 0 7), full := true,
    waiting := waiting, dropped := false }

/-- A write of MBX_POST by a seat (R128). -/
def postNotice (m : Mbx) (n : Seat) (data : Word) (s : State) : State :=
  let st := postStatusOf s m data
  let ptr := (s.seat n).postPtr
  let s := s.modSeat n (fun p => { p with postStatus := word (m.val * 2 ^ 16 + (statusCode st).toNat) })
  match st with
  | .pending => s.modBox m (fun _ => noticeOf n ptr data true)
  | .ok => raiseSeat (seatNo (fld data 0 7)) irqNotice (s.modBox m (fun _ => noticeOf n ptr data false))
  | .state => recordLimited (.post n m)
      { code := 0x0F01, seat := stampOf n, part := partByte n, status := statusCode .state, object := word m.val } s
  | _ => s

/-- A seat is the receiver of a pending notice (R127). -/
def isReceiver (s : State) (m : Mbx) (n : Seat) : Bool :=
  let b := s.box m
  b.full && !b.waiting && b.receiver.toNat == n.val

/-- Bit m mod 64 of a sender's emptied register, if that seat still exists (R130). -/
def markEmptied (m : Mbx) (sender : Seat) (s : State) : State :=
  if !seatExists s sender then s
  else if m.val < 64 then s.modSeat sender (fun p => { p with emptied0 := p.emptied0 ||| word (2 ^ m.val) })
  else raiseSeat sender irqEmptied
    (s.modSeat sender (fun p => { p with emptied1 := p.emptied1 ||| word (2 ^ (m.val - 64)) }))

/-- The notice leaves the mailbox and its sender learns of it. -/
def emptyBox (m : Mbx) (s : State) : State :=
  let b := s.box m
  markEmptied m (seatNo b.sender.toNat) (s.modBox m (fun _ => {}))

/-- The receiver's 64-bit read of MBX_INFO of a mailbox of 0 to 63 empties it (R130). -/
def infoReadEffect (m : Mbx) (n : Seat) (s : State) : State :=
  if m.val < 64 && isReceiver s m n then emptyBox m s else s

/-- A write of MBX_STATE with EMPTY = 1 by the receiver of a mailbox of 64 to 127 (R130). -/
def stateWriteEffect (m : Mbx) (n : Seat) (data : Word) (s : State) : State :=
  if 64 ≤ m.val && data.getLsbD 63 && isReceiver s m n then emptyBox m s else s

/-- Waiting notices whose receiver is ready become pending (R129). -/
def wakeNotices (s : State) : State :=
  (indices 128).foldl (fun s m =>
    let b := s.box m
    let recv := seatNo b.receiver.toNat
    if b.full && b.waiting && reach s recv == .ready then
      raiseSeat recv irqNotice (s.modBox m (fun b => { b with waiting := false }))
    else s) s

/-- Partition seat n departs: mailboxes addressed to it are emptied and marked dropped (R132). -/
def dropBoxes (n : Seat) (s : State) : State :=
  (indices 128).foldl (fun s m =>
    let b := s.box m
    if b.full && b.receiver.toNat == n.val then
      let s := s.modBox m (fun b => { sender := b.sender, receiver := b.receiver, dropped := true })
      let sender := seatNo b.sender.toNat
      if seatExists s sender then raiseFault sender faultNotice s else s
    else s) s

/-- MBX_INFO as a word. -/
def infoWord (b : Mailbox) : Word :=
  word (b.length.toNat * 2 ^ 32 + b.tag.toNat * 2 ^ 16 + b.sender.toNat * 2 ^ 7 + b.receiver.toNat)

/-- MBX_STATE for a seat (R127): all fields to the sender and receiver of the held or dropped notice. -/
def stateWord (s : State) (m : Mbx) (n : Seat) : Word :=
  let b := s.box m
  let cls := bit (decide (64 ≤ m.val))
  let party := (b.full || b.dropped) && (b.sender.toNat == n.val || b.receiver.toNat == n.val)
  let open' := bit b.full * 2 ^ 15 + cls * 2 ^ 14
  word (if party then
    bit b.dropped * 2 ^ 17 + bit b.waiting * 2 ^ 16 + open' + b.sender.toNat * 2 ^ 7 + b.receiver.toNat
  else open')

/-- Value of register k of mailbox m for a seat (Table 3-14): 0 PTR, 1 INFO, 3 STATE; POST reads zero. -/
def readBox (m : Mbx) (k : Nat) (n : Seat) (s : State) : Word :=
  match k with
  | 0 => if isReceiver s m n then (s.box m).ptr else 0
  | 1 => if isReceiver s m n then infoWord (s.box m) else 0
  | 3 => stateWord s m n
  | _ => 0

/-- SEAT_MBX_PEND0 and 1 (R131). -/
def pendWord (s : State) (n : Seat) (upper : Bool) : Word :=
  let base := if upper then 64 else 0
  word ((List.range 64).foldl (fun a i => if isReceiver s (Fin.ofNat 128 (base + i)) n then a + 2 ^ i else a) 0)

end Sys2Proof.Machine
end

