-- ==== Sys2Proof/Machine/Records.lean ====
section
/-! DEFINITION. The recorders (chapter 13): the heartwood's scan, replay, writes and chain check, and the REC commands
but for the dump. -/

namespace Sys2Proof.Machine

/-! ## Reading heartwood records (Table 13-7) -/

/-- The 64 bytes of a stored record. -/
def hwRaw (v : BitVec 512) : Bytes := bvBytes v

/-- The CRC of a record holds. -/
def hwCrcOk (v : BitVec 512) : Bool := (crc32c ((hwRaw v).take 60)).toNat == getLe (hwRaw v) 60 4

/-- Predecessor index. -/
def hwPred (v : BitVec 512) : Nat := getLe (hwRaw v) 2 2
/-- Type. -/
def hwType (v : BitVec 512) : Nat := getLe (hwRaw v) 4 2
/-- Start number. -/
def hwStart (v : BitVec 512) : Nat := getLe (hwRaw v) 20 4
/-- Byte k of the detail. -/
def hwDetail (v : BitVec 512) (k : Nat) : Nat := getLe (hwRaw v) (24 + k) 1
/-- The chain field. -/
def hwChain (v : BitVec 512) : Bytes := slice (hwRaw v) 44 16

/-- A heartwood as stored: index and record. -/
abbrev Heartwood := List (Nat × BitVec 512)

/-- The records with a valid CRC. -/
def hwValid (h : Heartwood) : Heartwood := h.filter (fun e => hwCrcOk e.2)

/-- The valid record that no other valid record names as predecessor: the end of the chain (R418). -/
def hwTail (h : Heartwood) : Option (Nat × BitVec 512) :=
  let v := hwValid h
  v.find? (fun e => !v.any (fun f => f.1 != e.1 && hwPred f.2 == e.1))

/-- The chain from a record back to the first one, newest first. -/
def chainBack (h : Heartwood) : Nat → Nat → List (Nat × BitVec 512)
  | 0, _ => []
  | fuel + 1, ix =>
    match (hwValid h).find? (fun e => e.1 == ix) with
    | none => []
    | some e => e :: chainBack h fuel (hwPred e.2)

/-- The records in the order of the chain, oldest first (R415). -/
def chainOrder (h : Heartwood) : List (Nat × BitVec 512) :=
  match hwTail h with
  | none => []
  | some e => (chainBack h h.length e.1).reverse

/-- First blank index of an area. -/
def firstBlank (h : Heartwood) (base cap : Nat) : Nat :=
  match (List.range cap).find? (fun i => memGet 0 h (base + i) == 0) with
  | some i => i
  | none => cap

/-- The torn record of an area: non-blank, bad CRC, immediately before the first blank (R418). -/
def tornOf (h : Heartwood) (base cap : Nat) : Option Nat :=
  let k := firstBlank h base cap
  if 0 < k && !hwCrcOk (memGet 0 h (base + k - 1)) then some (base + k - 1) else none

/-- A break of the chain at a record: its predecessor is missing or its chain digest differs. -/
def hwBroken (h : Heartwood) (e : Nat × BitVec 512) : Bool :=
  if hwPred e.2 = 0xFFFF then hwChain e.2 != List.replicate 16 0
  else
    match (hwValid h).find? (fun f => f.1 == hwPred e.2) with
    | none => true
    | some f => hwChain e.2 != (bvBytes (Config.sha3_256 (0x68#8 :: bvBytes f.2))).take 16

/-- Replace a torn record with a type 0x00B0 record (R418). -/
def repairTorn (ix : Nat) (s : State) : State :=
  let v := bytesBv 512 (hwBytes ix (hwTail s.recd.heartwood) 0x00B0 s.lc.state (stampNow s) s.recd.start (leBytes 2 ix))
  { s with recd := { s.recd with heartwood := memSet 0 s.recd.heartwood ix v, tornRepaired := true } }

/-- Rebuild the retirement map from the records in chain order (R399). -/
def replayMap (s : State) : State :=
  (chainOrder s.recd.heartwood).foldl (fun s e =>
    let c : Cell := Fin.ofNat 92 (hwDetail e.2 0)
    if hwType e.2 = 0x0010 then s.modCell c (fun x => { x with retired := true })
    else if hwType e.2 = 0x0011 then s.modCell c (fun x => { x with retired := false })
    else s) s

/-- The torn record found at an index, repaired under the start number it belongs to (R418). -/
def repairFound (o : Option Nat) (s : State) : State :=
  match o with
  | none => s
  | some ix =>
    let t := repairTorn ix { s with recd := { s.recd with start := s.recd.start + 1 } }
    { t with recd := { t.recd with start := s.recd.start } }

/-- The scan and the replay after por_aon_n (R399, R418). -/
def hwPowerOn (s : State) : State :=
  let h := s.recd.heartwood
  let top := (hwValid h).foldl (fun a e => max a (hwStart e.2)) 0
  let s := { s with recd := { s.recd with start := BitVec.ofNat 32 top } }
  let s := repairFound (tornOf s.recd.heartwood 0 15872) s
  let s := repairFound (tornOf s.recd.heartwood 15872 512) s
  let h := s.recd.heartwood
  let g := firstBlank h 0 15872
  let r := firstBlank h 15872 512
  let s := { s with recd := { s.recd with
    genNext := g, resNext := r, genFull := decide (g = 15872), resFull := decide (r = 512), last := hwTail h } }
  let s := replayMap s
  { s with recd := { s.recd with replayDone := true } }

/-- HEARTWOOD_WRITE (R416): the next queued record is written, after this many failed read-backs. -/
def execHeartwoodWrite (failedReadBacks : Nat) (s : State) : Host.Outcome State Fault Refusal :=
  .next (match s.recd.queue with
    | [] => s
    | h :: hs => if s.pins.porAonN then
        (hwWrite h.kind h.stamp h.detail h.cell failedReadBacks { s with recd := { s.recd with queue := hs } }).1
      else s)

/-- HEARTWOOD_CHAIN_CHECK (R418): the background check of every chain digest ends. -/
def execHeartwoodChainCheck (s : State) : Host.Outcome State Fault Refusal :=
  let h := s.recd.heartwood
  let broken := (hwValid h).filter (hwBroken h)
  .next (if s.recd.replayDone && !s.recd.chainDone then
    broken.foldl (fun s e => hwCondition 2 (hwNote 0x00B1 (leBytes 2 e.1) s))
      { s with recd := { s.recd with chainDone := true, chainOk := broken.isEmpty } }
  else s)

/-! ## REC commands (Tables 13-9, 13-10) -/

/-- A buffer starts at a multiple of 64 bytes (assumption entry 20). -/
def aligned64 (a : Word) : Bool := a.toNat % 64 == 0

/-- The maker role is held on a seat. -/
def isMaker (s : State) (n : Seat) : Bool := roleOf s n == .maker

/-- Bytes of the event records at some indices; an index at or above COUNT copies as zero (R412). -/
def eventCopy (s : State) (first count : Nat) : Bytes :=
  ((List.range count).map (fun i =>
    match s.recd.recs[first + i]? with
    | some e => eventBytes e
    | none => List.replicate 64 0)).flatten

/-- REC_READ starts. -/
def startRecRead (j : Job) (s : State) : State :=
  let first := j.f 0 0 13
  let count := j.f 2 0 13
  match firstFail [
    (isHmb j.seat, .denied),
    (zeroFrom (j.w 0) 13 && zeroFrom (j.w 2) 13 && decide (1 ≤ count) && decide (first + count ≤ 4096)
      && aligned64 (j.w 1), .badArgument),
    (operatorRight s j.seat || (isMaker s j.seat && (s.lc.state == lcBlank || s.lc.state == lcScrapped)), .denied)] with
  | some st => refuseJob j st s
  | none => storeJob j (j.w 1) (eventCopy s first count) .ok (wordsOf [word count, s.recd.headSeq.zeroExtend 64]) s

/-- REC_READ (R412). -/
def execRecRead (s : State) : Host.Outcome State Fault Refusal := .next (runJob .recRead true startRecRead s)

/-- REC restarts recording at a seat's command (R413). -/
def clearRecorder (n : Seat) (s : State) : State :=
  let lost := s.recd.lost
  let s := { s with recd := { s.recd with recs := [], firstSeq := nextSeq s.recd.headSeq, lost := 0 } }
  record { code := 0x1002, seat := stampOf n, opcode := opcodeOf .recClear, detail := leBytes 2 lost.toNat } s

/-- REC_CLEAR starts. -/
def startRecClear (j : Job) (s : State) : State :=
  match firstFail [
    (isHmb j.seat, .denied),
    (zeroFrom (j.w 0) 32, .badArgument),
    (operatorRight s j.seat, .denied),
    (s.lc.state != lcScrapped && (j.w 0).toNat == s.recd.headSeq.toNat, .state)] with
  | some st => refuseJob j st s
  | none =>
    let s := clearRecorder j.seat s
    decideJob j .ok (wordsOf [s.recd.firstSeq.zeroExtend 64]) s

/-- REC_CLEAR (R413). -/
def execRecClear (s : State) : Host.Outcome State Fault Refusal := .next (runJob .recClear true startRecClear s)

/-- The right to read the heartwood (R419). -/
def mayReadHeartwood (s : State) (n : Seat) : Bool :=
  let lc := s.lc.state
  match roleOf s n with
  | .installer | .operator => lc == lcIntegration || lc == lcFielded
  | .maker => lc == lcBlank || lc == lcTest || lc == lcReturned || lc == lcScrapped
  | _ => false

/-- Raw bytes of heartwood records. -/
def hwCopy (s : State) (first count : Nat) : Bytes :=
  ((List.range count).map (fun i => hwRaw (memGet 0 s.recd.heartwood (first + i)))).flatten

/-- REC_HW_READ starts. -/
def startRecHwRead (j : Job) (s : State) : State :=
  let first := j.f 0 0 14
  let count := j.f 2 0 15
  match firstFail [
    (isHmb j.seat, .denied),
    (zeroFrom (j.w 0) 14 && zeroFrom (j.w 2) 15 && decide (1 ≤ count) && decide (first + count ≤ 16384)
      && aligned64 (j.w 1), .badArgument),
    (mayReadHeartwood s j.seat, .denied)] with
  | some st => refuseJob j st s
  | none => storeJob j (j.w 1) (hwCopy s first count) .ok
      (wordsOf [word count, word (s.recd.resNext * 2 ^ 16 + s.recd.genNext)]) s

/-- REC_HW_READ (R419). -/
def execRecHwRead (s : State) : Host.Outcome State Fault Refusal := .next (runJob .recHwRead true startRecHwRead s)

/-- REC_RETEST starts (R401): the suite of the cell runs until KNOWN_ANSWER_TEST_DONE. -/
def startRetest (j : Job) (s : State) : State :=
  let c : Cell := Fin.ofNat 92 (j.f 0 0 7)
  match firstFail [
    (isHmb j.seat, .denied),
    (zeroFrom (j.w 0) 7 && decide (j.f 0 0 7 < 92), .badArgument),
    (operatorRight s j.seat, .denied),
    (s.lc.state != lcScrapped && s.cells[c].retired && s.cells[c].retest.isNone
      && !engOffline s (cellEngine c) && !engInReset s (cellEngine c)
      && (cellEngine c != .ing || s.core.power == .full), .state)] with
  | some st => refuseJob j st s
  | none => s.modCell c (fun x => { x with retest := some j.id })

/-- REC_RETEST (R401). -/
def execRecRetest (s : State) : Host.Outcome State Fault Refusal := .next (runJob .recRetest true startRetest s)

/-- A re-test suite ends (R401 steps 3 and 4). -/
def endRetest (c : Cell) (id : Nat) (failed : BitVec 8) (s : State) : State :=
  let s := s.modCell c (fun x => { x with retest := none })
  match s.job? id with
  | none => s
  | some j =>
    if failed = 0 then
      let s := s.modCell c (fun x => { x with retired := false, consecutive := 0, testDue := false })
      let s := record { code := 0x0202, seat := stampOf j.seat, opcode := opcodeOf j.op, object := word c.val } s
      let detail := leBytes 1 c.val ++ [stampOf j.seat] ++ wordBytes (authOf s j.seat).held.serial
      decideJob j .ok (wordsOf [0]) (placeWaiting (hwQueue 0x0011 detail (some c) s))
    else
      let e : EventRec :=
        { code := 0x0203, seat := stampOf j.seat, opcode := opcodeOf j.op, object := word c.val, detail := [failed] }
      let s := record e s
      decideJob j .retired (wordsOf [failed.zeroExtend 64]) s

/-- Re-tests of an engine's cells end with ST_FAULT at its fault; the bits stay set (Table 13-16). -/
def failRetests (e : Engine) (s : State) : State :=
  (engineCells e).foldl (fun s c =>
    match s.cells[c].retest with
    | none => s
    | some id =>
      let s := s.modCell c (fun x => { x with retest := none })
      match s.job? id with
      | none => s
      | some j => finishJob j .fault noWords s) s

/-! ## Registers (R422) -/

/-- REC_STATUS (Table 13-13). -/
def recStatus (r : Recorder) : Word :=
  word (r.headSeq.toNat * 2 ^ 32 + r.lost.toNat * 2 ^ 16 + bit (decide (4096 ≤ r.recs.length)) * 2 ^ 15 + r.recs.length)

/-- MAP_VOLATILE (Table 13-14). -/
def mapVolatile (s : State) : Bool := (indices 92).any (fun c => s.cells[c].volatileMap)

/-- REC_HW_STATUS (Table 13-14). -/
def recHwStatus (s : State) : Word :=
  let r := s.recd
  word (r.genNext * 2 ^ 48 + r.resNext * 2 ^ 32 + r.dropped.toNat * 2 ^ 24 + bit r.replayDone * 2 ^ 7
    + bit r.chainDone * 2 ^ 6 + bit r.chainOk * 2 ^ 5 + bit r.genFull * 2 ^ 4 + bit r.resFull * 2 ^ 3
    + bit (mapVolatile s) * 2 ^ 2 + bit r.tornRepaired * 2 + bit r.writeErr)

/-- REC_CRESET (Table 13-15). -/
def recCreset (c : CReset) : Word :=
  word (c.count.toNat * 2 ^ 32 + bit c.rto * 2 ^ 4 + bit c.qto * 2 ^ 3 + c.phase.toNat)

/-- Value of a REC register by its offset in the block, for seats 64 to 66 (Table 13-12). -/
def readRec (off : Nat) (s : State) : Word :=
  match off with
  | 0x00 => recStatus s.recd
  | 0x08 => s.recd.firstSeq.zeroExtend 64
  | 0x10 => recHwStatus s
  | 0x18 => s.recd.start.zeroExtend 64
  | 0x20 => word (mapBits s)
  | 0x28 => word (mapBits s / 2 ^ 64)
  | 0x60 => recCreset s.recd.creset
  | 0x68 => s.recd.creset.lastBeat
  | _ => if 0x30 ≤ off ∧ off < 0x60 then word ((mapDigest s).toNat / 2 ^ (8 * (off - 0x30))) else 0

end Sys2Proof.Machine
end

