-- ==== Sys2Proof/Machine/Ing.lean ====
section
/-! DEFINITION. The Ingest Engine (chapter 11): load plans, envelopes, model keys, chunks on the stream lanes, the
measurement tree, the resident sweep and quarantine, and the ING registers. -/

namespace Sys2Proof.Machine

/-! ## Plans (R329 to R333) -/

/-- Chunks of a plan. -/
def Plan.chunks (p : Plan) : Nat := (p.extents.map (·.2)).sum

/-- HBM address of chunk j (R330): the first extent whose cumulative count exceeds j. -/
def chunkAddr : List (Nat × Nat) → Nat → Nat
  | [], _ => 0
  | (a, c) :: es, j => if j < c then a + 4096 * j else chunkAddr es (j - c)

/-- A run of pages from lo to hi lies in sealed entries of n. -/
def pagesCovered (es : List FbEntry) (lo hi : Nat) : Bool :=
  decide (hi < es.foldl (fun at' e =>
    if entrySealed e && entryBase e ≤ at' && at' ≤ entryLast e then entryLast e + 1 else at') lo)

/-- Every chunk of some extents lies in sealed entries of n of a table (R331). -/
def extentsSealed (t : FbTable) (n : Part) (xs : List (Nat × Nat)) : Bool :=
  xs.all (fun x => pagesCovered (entriesOf t n) (x.1 / 4096) (x.1 / 4096 + x.2 - 1))

/-- Two extents share a chunk address. -/
def extentsMeet (x y : Nat × Nat) : Bool := x.1 < y.1 + 4096 * y.2 && y.1 < x.1 + 4096 * x.2

/-- No two extents of a list share an address. -/
def extentsApart : List (Nat × Nat) → Bool
  | [] => true
  | x :: xs => xs.all (fun y => !extentsMeet x y) && extentsApart xs

/-- Extents of a plan buffer (Table 11-2). -/
def planExtents (b : Bytes) : List (Nat × Nat) :=
  (List.range (getLe b 2 2)).map (fun e => (getLe b (8 + 16 * e) 8, getLe b (16 + 16 * e) 4))

/-- The layout of a plan buffer (R330). -/
def planLaidOut (b : Bytes) : Bool :=
  let m := getLe b 2 2
  b.take 2 == [0x50#8, 0x01#8] && decide (1 ≤ m) && decide (m ≤ 64) && b.length == 8 + 16 * m && getLe b 4 4 == 0
    && (List.range m).all (fun e => getLe b (20 + 16 * e) 4 == 0)
    && (planExtents b).all (fun x => x.1 % 4096 == 0 && decide (x.1 < 2 ^ 41) && decide (1 ≤ x.2))

/-- The most chunks of a shard: 1,536 GB. -/
def mostChunks : Nat := 0x165A0BC0

/-- R331 for the extents of a new plan of n. -/
def planAdmitted (s : State) (n : Part) (xs : List (Nat × Nat)) : Bool :=
  let total := (xs.map (·.2)).sum
  decide (1 ≤ total) && decide (total ≤ mostChunks) && extentsSealed s.part.active n xs && extentsApart xs
    && (indices 256).all (fun i => s.ing.plans[i].st == .free
        || s.ing.plans[i].extents.all (fun y => xs.all (fun x => !extentsMeet x y)))

/-- Partition n is quarantined (R356). -/
def quarantined (s : State) (n : Part) : Bool := s.ing.quar.getLsbD n.val

/-- A plan becomes FREE; freeing a RESIDENT one takes its root from the evidence and advances G (R333). -/
def freePlan (i : PlanIx) (s : State) : State :=
  let p := s.ing.plans[i]
  let s := s.modPlan i (fun _ => {})
  if p.st = .resident then advanceG p.part s else s

/-! ## The measurement tree (R343, R344) -/

/-- Leaf i. -/
def leafDigest (i : Nat) (plain : Bytes) : BitVec 256 := Config.sha3_256 (0#8 :: leBytes 4 i ++ plain)

/-- Node j of level h over its children. -/
def nodeDigest (h j : Nat) (cs : List (BitVec 256)) : BitVec 256 :=
  Config.sha3_256 (1#8 :: leBytes 1 h ++ leBytes 4 j ++ leBytes 1 cs.length ++ (cs.map bvBytes).flatten)

/-- The pending digests of a level. -/
def pendingAt (f : List (List (BitVec 256))) (h : Nat) : List (BitVec 256) := f.getD h []

/-- Replace the pending digests of a level. -/
def setPending (f : List (List (BitVec 256))) (h : Nat) (ds : List (BitVec 256)) : List (List (BitVec 256)) :=
  (List.range (max f.length (h + 1))).map (fun k => if k = h then ds else pendingAt f k)

/-- A digest of index i enters level h; a full group of 16 closes into its node. -/
def treePush : Nat → Nat → Nat → BitVec 256 → List (List (BitVec 256)) → List (List (BitVec 256))
  | 0, _, _, _, f => f
  | fuel + 1, h, i, d, f =>
    let ds := pendingAt f h ++ [d]
    if ds.length = 16 then treePush fuel (h + 1) (i / 16) (nodeDigest (h + 1) (i / 16) ds) (setPending f h [])
    else setPending f h ds

/-- The next leaf enters the frontier. -/
def enterLeaf (i : Nat) (d : BitVec 256) (f : List (List (BitVec 256))) : List (List (BitVec 256)) := treePush 10 0 i d f

/-- Number of the top level over C leaves. -/
def topLevel : Nat → Nat → Nat
  | 0, _ => 0
  | fuel + 1, c => if c ≤ 1 then 0 else 1 + topLevel fuel ((c + 15) / 16)

/-- Close the partial nodes from a level upwards and take T: the count of the level is c. -/
def closeTree : Nat → Nat → Nat → List (List (BitVec 256)) → BitVec 256
  | 0, h, _, f => (pendingAt f h).headD 0
  | fuel + 1, h, c, f =>
    if c ≤ 1 then (pendingAt f h).headD 0
    else
      let ds := pendingAt f h
      let up := (c + 15) / 16
      closeTree fuel (h + 1) up
        (if ds.isEmpty then f else setPending f (h + 1) (pendingAt f (h + 1) ++ [nodeDigest (h + 1) (up - 1) ds]))

/-- The root (Table 11-5). -/
def treeRoot (model : Bytes) (shard : Nat) (c : Nat) (f : List (List (BitVec 256))) : BitVec 256 :=
  Config.sha3_256 (2#8 :: padTo 32 model ++ leBytes 4 shard ++ leBytes 4 c ++ leBytes 1 (topLevel 10 c)
    ++ bvBytes (closeTree 10 0 c f))

/-! ## Envelope fields (Table 11-3) -/

def envModel (b : Bytes) : Bytes := slice b 8 32
def envShard (b : Bytes) : Nat := getLe b 40 4
def envChunks (b : Bytes) : Nat := getLe b 44 4
def envGrove (b : Bytes) : Bytes := slice b 48 48
def envExpRoot (b : Bytes) : Bool := (b.getD 5 0).getLsbD 0
def envKeyBlock (b : Bytes) : Bytes := slice b 912 1773
/-- Digest of the owner's keys. -/
def envOwner (b : Bytes) : BitVec 384 := Config.sha3_384 (slice b 2685 2689)

/-- The format of an envelope, with C as the plan has it (R349 step 2). -/
def envelopeOk (b : Bytes) (chunks : Nat) : Bool :=
  b.take 5 == [0x4C#8, 0x57#8, 0x45#8, 0x4E#8, 0x01#8] && getLe b 5 1 / 2 == 0 && getLe b 6 2 == 0
    && decide (1 ≤ envChunks b) && decide (envChunks b ≤ mostChunks) && decide (getLe b 96 4 ≤ 65535)
    && getLe b 100 4 == 0 && (envExpRoot b || leNat (slice b 112 32) == 0)
    && getLe b 912 1 == 4 && getLe b 2685 1 == 4 && envChunks b == chunks

/-- The DevID digest (R335). -/
def devIdDigest (s : State) : Bytes := bvBytes (Config.sha3_384 (ecPublicOf s 2 ++ mlPublicOf s 3))

/-- The grove root that a proof gives for a member's DevID digest (R335). -/
def groveRoot (dev : Bytes) (position : Nat) (proof : Nat → Bytes) : BitVec 384 :=
  (List.range 16).foldl (fun x k =>
    Config.sha3_384 (0x48#8 :: (if position.testBit k then proof k ++ bvBytes x else bvBytes x ++ proof k)))
    (Config.sha3_384 (0x47#8 :: dev))

/-- The device is on the grove of an envelope. -/
def onGrove (s : State) (b : Bytes) : Bool :=
  bvBytes (groveRoot (devIdDigest s) (getLe b 96 4) (fun k => slice b (144 + 48 * k) 48)) == envGrove b

/-- KEK of R228 with the device KEM pair. -/
def kekOf (s : State) (ctEc ctMl : Bytes) : Bytes :=
  let ml := slotBytes s 25
  let ssEc := ecdhX p384 (p384Scalar (slotBytes s 24)) ctEc
  kdf (padTo 48 ssEc ++ padTo 32 (Config.mlkemDecaps ml ctMl)) "KEM"
    (ctEc ++ ctMl ++ ecPublicOf s 24 ++ padTo 1568 (Config.mlkemPublic ml)) 32

/-! ## Model keys (R338, R339) -/

/-- The entry of n for a key block, at the present generation. -/
def modelEntry (s : State) (n : Part) (keyBlock : Bytes) : Option ModelKey :=
  s.keys.models[n].find? (fun e => e.digest == Config.sha3_256 keyBlock && e.gen == s.part.recs[n].g)

/-- An entry of n is used or made: it becomes the most recently used, and a fifth one drops the oldest. -/
def useModelKey (n : Part) (e : ModelKey) (s : State) : State :=
  let rest := s.keys.models[n].filter (fun x => x.digest != e.digest)
  { s with keys := { s.keys with models := vset s.keys.models n ((e :: rest).take 4) } }

/-! ## Loads -/

/-- The load of a job. -/
def loadOf (s : State) (job : Nat) : Option Load := s.ing.loads.find? (fun l => l.job == job)

/-- Put back a changed load. -/
def setLoad (l : Load) (s : State) : State :=
  { s with ing := { s.ing with loads := s.ing.loads.map (fun x => if x.job = l.job then l else x) } }

/-- The seat whose stamp a load's requests carry. -/
def loadSeat (s : State) (l : Load) : BitVec 8 :=
  match s.job? l.job with
  | some j => stampOf j.seat
  | none => 0xFF

/-- A load leaves ING: its chunks and units are dropped and its lane is free. -/
def dropLoad (job : Nat) (s : State) : State :=
  placeWaiting (dropUnits (ownerJob job)
    { s with ing := { s.ing with loads := s.ing.loads.filter (fun l => l.job != job) } })

/-- The plan of a load fails with a cause (R349). -/
def failPlan (i : PlanIx) (cause : BitVec 8) (s : State) : State :=
  s.modPlan i (fun p => { p with st := .failed, lastCause := cause, fail := cause })

/-- A load fails: its plan is FAILED with the cause and the job ends with the status (Table 11-9). -/
def failLoad (l : Load) (cause : BitVec 8) (st : Status) (s : State) : State :=
  let s := dropLoad l.job (failPlan l.plan cause s)
  match s.job? l.job with
  | some j => finishJob j st noWords s
  | none => s

/-- The stream request of Table 11-4. -/
def streamRequest (op : Nat) (l : Load) : Bytes :=
  padTo 64 ([0x52#8, BitVec.ofNat 8 op] ++ leBytes 2 l.tag.toNat ++ leBytes 1 l.lane.val ++ [0, 0, 0]
    ++ leBytes 4 l.accepted ++ leBytes 4 (envChunks l.env - l.accepted) ++ padTo 32 (envModel l.env)
    ++ leBytes 4 (envShard l.env))

/-- Write a stream request to the doorbell of a load with its seat's stamp (R340). -/
def ringSource (op : Nat) (l : Load) (s : State) : State :=
  issue { write := true, obo := loadSeat s l, addr := l.doorbell, len := 64, data := streamRequest op l,
          owner := .stream l.job } s

/-- Write a cancel when the load has a stream tag. -/
def cancelStream (l : Load) (s : State) : State := if l.phase = .streaming then ringSource 2 l s else s

/-- The next stream tag after the counter: not 0 and not that of an open job (R340). -/
def nextTag (g : Ing) : BitVec 16 :=
  match (List.range 20).find? (fun k =>
      let t := g.tagCounter + BitVec.ofNat 16 (k + 1)
      t != 0 && !g.loads.any (fun l => l.phase == .streaming && l.tag == t)) with
  | some k => g.tagCounter + BitVec.ofNat 16 (k + 1)
  | none => g.tagCounter + 1

/-- Allocate a tag and send the request from the expected index (R340). -/
def sendStream (l : Load) (s : State) : State :=
  let t := nextTag s.ing
  let l := { l with tag := t, phase := .streaming, lastBeat := s.beat.lbeat }
  ringSource 1 l (setLoad l { s with ing := { s.ing with tagCounter := t } })

/-- A chunk is missing (R342): cancel, a new tag and a re-request, at most three from one index. -/
def missingChunk (l : Load) (s : State) : State :=
  if l.rereqs = 3 then failLoad l 0x09 .fault s
  else
    let s := ringSource 2 l s
    let s := { s with ing := { s.ing with rereq := satInc s.ing.rereq } }
    sendStream { l with rereqs := l.rereqs + 1, rereqTotal := satInc l.rereqTotal } s

/-- Cause 0x0D: quarantine, abort, teardown or seat reset stops a load (R351, R356, Table 11-16). -/
def stopLoad (l : Load) (s : State) : State := failLoad l 0x0D .aborted (cancelStream l s)

/-- A swap takes an extent of a LOADING plan (Table 11-16): the plan is freed and its job ends. -/
def loseLoad (l : Load) (s : State) : State :=
  let s := freePlan l.plan (dropLoad l.job (cancelStream l s))
  match s.job? l.job with
  | some j => finishJob j .fault noWords s
  | none => s

/-- Every started load of n stops. -/
def stopLoads (n : Part) (s : State) : State :=
  (s.ing.loads.filter (fun l => l.part = n)).foldl (fun s l => stopLoad l s) s

/-- Plans of n with an address outside the sealed entries of a table are freed at the swap beat (R333). -/
def freePlansOutside (t : FbTable) (s : State) : State :=
  (indices 256).foldl (fun s i =>
    let p := s.ing.plans[i]
    if p.st = .free || extentsSealed t p.part p.extents then s
    else
      match s.ing.loads.find? (fun l => l.plan == i) with
      | some l => loseLoad l s
      | none => freePlan i s) s

/-- Teardown of n (Table 11-16): its loads, plans, keys and quarantine bit go. -/
def clearIngest (n : Part) (s : State) : State :=
  let s := stopLoads n s
  let s := (indices 256).foldl (fun s i =>
    if s.ing.plans[i].st ≠ .free ∧ s.ing.plans[i].part = n then s.modPlan i (fun _ => {}) else s) s
  zeroModelKeys n { s with ing := { s.ing with quar := s.ing.quar &&& ~~~(BitVec.ofNat 64 (2 ^ n.val)) } }

/-! ## Jobs: arbitration and checks (R346, R350) -/

/-- A stream lane no load holds. -/
def freeLane (s : State) : Option Lane := (indices 16).find? (fun k => !s.ing.loads.any (fun l => l.lane == k))

/-- The oldest queued ING job of a seat is an ING_LOAD. -/
def loadNext (s : State) (n : Seat) : Bool :=
  match oldestQueued (s.seat n) .ing with
  | some i => (s.seat n).entries[i].op == .ingLoad
  | none => false

/-- The seat whose chosen ING_LOAD waits for a stream lane (R346). -/
def loadWaits (s : State) : Option Seat :=
  match s.arbs[engineIx .ing].chosen with
  | some n => if loadNext s n then some n else none
  | none => none

/-- Start the oldest ING job of a seat if it is of this operation. -/
def startIng (o : Op) (n : Seat) (a : Arb) (go : Job → State → State) (s : State) : State :=
  match oldestQueued (s.seat n) .ing with
  | none => s
  | some i =>
    if (s.seat n).entries[i].op = o then
      let (j, s) := startEntry n i { s with arbs := vset s.arbs (engineIx .ing) a }
      go j s
    else s

/-- Start of an ING job (R346): a chosen ING_LOAD without a free lane waits and no later one passes it, while other
commands start at their seats' turns. -/
def runIng (o : Op) (go : Job → State → State) (s : State) : State :=
  if !mayStart s .ing then s
  else
    let a := s.arbs[engineIx .ing]
    let has (n : Seat) : Bool := (oldestQueued (s.seat n) .ing).isSome
    let others (s : State) (a : Arb) : State :=
      match arbPick a (fun n => weightOf s n .ing) (fun n => has n && !loadNext s n) with
      | none => s
      | some (n, a') => startIng o n { a' with chosen := a.chosen } go s
    match loadWaits s with
    | some n =>
      if o = .ingLoad then
        (if (freeLane s).isSome then startIng o n { a with chosen := none } go s else s)
      else others s a
    | none =>
      match arbPick a (fun n => weightOf s n .ing) has with
      | none => s
      | some (n, a') =>
        if loadNext s n && (freeLane s).isNone then
          let a := { a' with chosen := some n }
          others { s with arbs := vset s.arbs (engineIx .ing) a } a
        else startIng o n { a' with chosen := none } go s

/-- The partition an ING job concerns: the seat's own, or the argument's (R348). -/
def ingPart (j : Job) : Part := if h : j.seat.val < 64 then ⟨j.seat.val, h⟩ else Fin.ofNat 64 (j.f 0 0 6)

/-- The plan W0 names. -/
def Job.plan (j : Job) : PlanIx := Fin.ofNat 256 (j.f 0 0 8)

/-- For seats 0 to 63, the plan is FREE or of the own partition. -/
def planMine (s : State) (j : Job) : Bool :=
  64 ≤ j.seat.val || s.ing.plans[j.plan].st == .free || s.ing.plans[j.plan].part.val == j.seat.val

/-- A partition seat or seat 65. -/
def partOrMgmt (n : Seat) : Bool := n.val < 64 || n == mgmt

/-- Life-cycle states in which partitions exist (Table 6-13). -/
def partLc (s : State) : Bool :=
  let lc := s.lc.state
  lc == lcTest || lc == lcIntegration || lc == lcFielded || lc == lcReturned

/-- Power and life cycle of order 5. -/
def ingStateOk (s : State) : Bool := s.core.power == .full && partLc s

/-- The checks that every ING command shares, in their order (Table 11-7). -/
def ingChecks (s : State) (seats args right state : Bool) : Option Status :=
  firstFail [(!s.core.strmQuar, .fault), (seats, .denied), (args, .badArgument), (right, .denied),
    (ingStateOk s && state, .state)]

/-- ING_PLAN starts. -/
def startPlan (j : Job) (s : State) : State :=
  let len := j.f 2 0 11
  let n := ingPart j
  match ingChecks s (partOrMgmt j.seat)
    (zeroFrom (j.w 0) 6 && zeroFrom (j.w 2) 11 && decide (24 ≤ len) && decide (len ≤ 1032) && len % 16 == 8) true
    (partExists s n && !quarantined s n && (indices 256).any (fun i => s.ing.plans[i].st == .free)) with
  | some st => refuseJob j st s
  | none => fetchJob j (j.w 1) len s

/-- ING_PLAN (R331). -/
def execIngPlan (s : State) : Host.Outcome State Fault Refusal := .next (runIng .ingPlan startPlan s)

/-- The plan buffer has been read: the lowest FREE record takes the plan, if R330 and R331 hold. -/
def planFetched (j : Job) (b : Bytes) (s : State) : State :=
  let n := ingPart j
  let xs := planExtents b
  if !planLaidOut b || !partExists s n || quarantined s n || !planAdmitted s n xs then failJob j .badArgument s
  else
    match (indices 256).find? (fun i => s.ing.plans[i].st == .free) with
    | none => refuseJob j .state s
    | some i =>
      let d := Config.sha3_256 b
      let s := s.modPlan i (fun _ => { st := .ready, part := n, extents := xs, digest := d })
      let dw (k : Nat) : Word := word (getLe (bvBytes d) (8 * k) 8)
      decideJob j .ok (wordsOf [word i.val, word (xs.map (·.2)).sum, dw 0, dw 1, dw 2, dw 3]) s

/-- ING_PLAN_FREE starts. -/
def startPlanFree (j : Job) (s : State) : State :=
  let st := s.ing.plans[j.plan].st
  match ingChecks s (partOrMgmt j.seat) (zeroFrom (j.w 0) 8 && planMine s j) true
    (st == .ready || st == .failed || st == .resident) with
  | some st => refuseJob j st s
  | none => decideJob j .ok noWords (freePlan j.plan s)

/-- ING_PLAN_FREE (R333). -/
def execIngPlanFree (s : State) : Host.Outcome State Fault Refusal := .next (runIng .ingPlanFree startPlanFree s)

/-- Sweep result codes (Table 11-8). -/
def SweepResult.code : SweepResult → Nat
  | .none => 0 | .matched => 1 | .mismatch => 2 | .readError => 3

/-- Plan state codes (Table 11-1). -/
def PlanState.code : PlanState → Nat
  | .free => 0 | .ready => 1 | .loading => 2 | .resident => 3 | .failed => 4

/-- The sweep cannot run now (R347, R355). -/
def sweepPaused (s : State) : Bool :=
  !s.core.strmQuar && (s.core.power != .full || healthyCount s keccakCells == 0)

/-- The shard record (Table 11-8). -/
def shardRecord (s : State) (i : PlanIx) : Bytes :=
  let p := s.ing.plans[i]
  let res := p.st == .resident
  let flags := p.sweep.code + bit s.core.strmQuar * 8 + bit (sweepPaused s) * 16
  [0x53#8, 0x01#8] ++ leBytes 1 i.val ++ leBytes 1 p.part.val ++ leBytes 1 p.st.code ++ leBytes 1 flags
    ++ [p.lastCause, 0] ++ leBytes 4 p.chunks ++ leBytes 4 (if res then p.shard.toNat else 0)
    ++ (if res then padTo 32 p.model else List.replicate 32 0)
    ++ (if res then bvBytes p.root else List.replicate 32 0) ++ bvBytes p.digest
    ++ (if res then bvBytes p.owner else List.replicate 48 0) ++ stampBytes p.stamp ++ stampBytes p.sweepStamp
    ++ leBytes 4 p.passes.toNat ++ [0, 0, 0, 0]

/-- ING_SHARD_INFO starts. -/
def startShardInfo (j : Job) (s : State) : State :=
  match ingChecks s (j.seat.val < 64 || isHmb j.seat) (zeroFrom (j.w 0) 8 && planMine s j) true
    (s.ing.plans[j.plan].st != .free) with
  | some st => refuseJob j st s
  | none => storeJob j (j.w 1) (shardRecord s j.plan) .ok (wordsOf [192]) s

/-- ING_SHARD_INFO (R352). -/
def execIngShardInfo (s : State) : Host.Outcome State Fault Refusal := .next (runIng .ingShardInfo startShardInfo s)

/-- ING_SWEEP_SET starts. -/
def startSweepSet (j : Job) (s : State) : State :=
  let r := j.f 0 0 7
  match ingChecks s (isHmb j.seat) (zeroFrom (j.w 0) 7 && decide (1 ≤ r) && decide (r ≤ 64))
    (operatorRight s j.seat) true with
  | some st => refuseJob j st s
  | none => decideJob j .ok (wordsOf [word r]) { s with ing := { s.ing with rate := BitVec.ofNat 8 r } }

/-- ING_SWEEP_SET (R355). -/
def execIngSweepSet (s : State) : Host.Outcome State Fault Refusal := .next (runIng .ingSweepSet startSweepSet s)

/-- ING_KEY_DROP starts. -/
def startKeyDrop (j : Job) (s : State) : State :=
  let n := ingPart j
  match ingChecks s (partOrMgmt j.seat) (zeroFrom (j.w 0) 6) true (partExists s n) with
  | some st => refuseJob j st s
  | none => decideJob j .ok (wordsOf [word s.keys.models[n].length]) (zeroModelKeys n s)

/-- ING_KEY_DROP (R339). -/
def execIngKeyDrop (s : State) : Host.Outcome State Fault Refusal := .next (runIng .ingKeyDrop startKeyDrop s)

/-! ## ING_LOAD: the envelope phase (R349 steps 1 to 5) -/

/-- ING_LOAD starts: its lane is reserved, its plan is LOADING, the envelope is read. -/
def startLoad (j : Job) (s : State) : State :=
  let p := s.ing.plans[j.plan]
  match ingChecks s (partOrMgmt j.seat) (zeroFrom (j.w 0) 8 && fld (j.w 2) 0 6 == 0 && planMine s j) true
    ((p.st == .ready || p.st == .failed) && partExists s p.part && !quarantined s p.part) with
  | some st => refuseJob j st s
  | none =>
    match freeLane s with
    | none => s
    | some k =>
      let l : Load := { job := j.id, plan := j.plan, part := p.part, lane := k, doorbell := j.w 2 }
      let s := s.modPlan j.plan (fun p => { p with st := .loading })
      if healthyCount s aesCells = 0 || healthyCount s keccakCells = 0 then
        failLoad l 0x0C .retired { s with ing := { s.ing with loads := s.ing.loads ++ [l] } }
      else fetchJob j (j.w 1) 10097 { s with ing := { s.ing with loads := s.ing.loads ++ [l] } }

/-- ING_LOAD (R349). -/
def execIngLoad (s : State) : Host.Outcome State Fault Refusal := .next (runIng .ingLoad startLoad s)

/-- PKE or DIG cannot serve a step of a load (cause 0x04). -/
def keyEnginesOut (s : State) : Bool := pkeOut s || digOut s

/-- Fields of a load that a step changes. -/
def advanceLoad (job : Nat) (f : Load → Load) (s : State) : State :=
  match loadOf s job with
  | some l => setLoad (f l) s
  | none => s

/-- The model key is in hand: the stream request (step 6). -/
def haveModelKey (l : Load) (key : Bytes) (s : State) : State := sendStream { l with key := key } s

/-- Step 5 (R338): the entry of this key block, or the token and the unwrap. -/
def findModelKey (j : Job) (l : Load) (s : State) : State :=
  match modelEntry s l.part (envKeyBlock l.env) with
  | some e => haveModelKey l e.key (useModelKey l.part e s)
  | none =>
    let known := s.part.recs[l.part].tokens.any (fun t =>
      bvBytes t.1 == slice l.env 2577 48 && t.2 == s.part.recs[l.part].g)
    if keyEnginesOut s || !known then failLoad l 0x04 .state s
    else
      match pointFault p384 (slice l.env 912 97) with
      | some st => failLoad l 0x05 st s
      | none => nestedPke j (setLoad { l with phase := .unwrap } s)

/-- The envelope has been read (step 2), and its signature goes to PKE (step 3). -/
def envelopeFetched (j : Job) (b : Bytes) (s : State) : State :=
  match loadOf s j.id with
  | none => s
  | some l =>
    let l := { l with env := b }
    if !envelopeOk b s.ing.plans[l.plan].chunks then failLoad l 0x01 .badArgument s
    else if pkeOut s then failLoad l 0x04 .state s
    else nestedPke j (setLoad { l with phase := .signature } s)

/-- The entry of a key just unwrapped is stored, unless G has advanced since its token was judged: that advance
zeroized every entry of n (R339). -/
def storeModelKey (l : Load) (mk : Bytes) (s : State) : State :=
  let r := s.part.recs[l.part]
  if r.tokens.any (fun t => bvBytes t.1 == slice l.env 2577 48 && t.2 != r.g) then s
  else useModelKey l.part { digest := Config.sha3_256 (envKeyBlock l.env), key := mk, gen := r.g } s

/-- The unwrap's PKE work is done: KEK, WK and MK (R338). -/
def unwrapModelKey (l : Load) (s : State) : State :=
  let b := l.env
  let kek := kekOf s (slice b 912 97) (slice b 1009 1568)
  let wk := kdf kek "BIND" (slice b 2577 48 ++ leBytes 1 l.part.val ++ envModel b ++ envGrove b) 32
  match Config.gcmOpen wk (slice b 2625 12) [] (slice b 2637 32) (slice b 2669 16) with
  | none => failLoad l 0x06 .denied s
  | some mk => haveModelKey l mk (storeModelKey l mk s)

/-- A load gives back the blocks its signature or unwrapping took. -/
def freeBlocks (j : Job) (s : State) : State := settle (setJob { j with bn := .unused, lt := .unused } s)

/-- The PKE work of a load's step is done. -/
def loadPkeDone (j : Job) (s : State) : State :=
  match loadOf s j.id with
  | none => s
  | some l =>
    match l.phase with
    | .signature =>
      if !dualVerify (slice l.env 2685 97) (slice l.env 2782 2592) (l.env.take 5374) (l.env.drop 5374) then
        failLoad l 0x02 .pkeVerifyFail s
      else
        let s := freeBlocks j s
        if !s.keys.rootLoaded || s.keys.held then failLoad l 0x04 .state s
        else if !onGrove s l.env then failLoad l 0x03 .ingGrove s
        else findModelKey { j with bn := .unused, lt := .unused } l s
    | .unwrap => unwrapModelKey l (freeBlocks j s)
    | _ => s

/-! ## Chunks (R76 to R79, R341, R342) -/

/-- Chunks of a load still without an AES-GCM lane: what its stream lane's two buffers hold (R77). -/
def buffered (s : State) (job : Nat) : Nat :=
  (s.units.filter (fun u => match u.owner with | .chunk k _ => k == job | _ => false)).length

/-- A chunk of a load. -/
def chunkOf (l : Load) (i : Nat) : Option Chunk := l.chunks.find? (fun c => c.index == i)

/-- Put back a changed chunk. -/
def setChunk (c : Chunk) (l : Load) : Load := { l with chunks := l.chunks.map (fun x => if x.index = c.index then c else x) }

/-- Hand leaf units to the Keccak lanes for the chunks whose leaf is the next or one of the window of four (R344). -/
def submitLeaves (l : Load) (s : State) : State :=
  let inWork (i : Nat) : Bool := s.units.any (fun u => u.owner == .leaf l.job i)
    || (indices 92).any (fun c => match s.cells[c].work with | some u => u.owner == .leaf l.job i | none => false)
  (l.chunks.filter (fun c => c.stage != .decrypting && c.leaf.isNone && decide (c.index ≤ l.leaves + 4)
    && !inWork c.index)).foldl (fun s c => submitUnit { owner := .leaf l.job c.index } s) s

/-- The last chunk is complete: the root decides (R345). -/
def closeLoad (l : Load) (s : State) : State :=
  let b := l.env
  let root := treeRoot (envModel b) (envShard b) (envChunks b) l.frontier
  if envExpRoot b && bvBytes root != slice b 112 32 then failLoad l 0x08 .ingTag s
  else
    let s := s.modPlan l.plan (fun p => { p with st := .resident, root := root, model := envModel b, shard := BitVec.ofNat 32 (envShard b), owner := envOwner b, stamp := stampNow s, lastCause := 0 })
    let s := dropLoad l.job (carryG l.part s)
    let rw (k : Nat) : Word := word (getLe (bvBytes root) (8 * k) 8)
    match s.job? l.job with
    | some j => finishJob j .ok (wordsOf [rw 0, rw 1, rw 2, rw 3, word (envChunks b), word l.rereqTotal.toNat,
        word l.plan.val]) s
    | none => s

/-- Leaves enter the frontier in order, complete chunks leave, and the load may end (R344). -/
def foldChunks (job : Nat) (s : State) : State :=
  match loadOf s job with
  | none => s
  | some l =>
    let l := (List.range l.chunks.length).foldl (fun (l : Load) _ =>
      match (chunkOf l l.leaves).bind (·.leaf) with
      | some d => { l with frontier := enterLeaf l.leaves d l.frontier, leaves := l.leaves + 1 }
      | none => l) l
    let l := { l with chunks := l.chunks.filter (fun c => !(c.stage == .landed && decide (c.index < l.leaves))) }
    let s := setLoad l s
    if l.leaves = envChunks l.env ∧ l.chunks = [] ∧ l.phase = .streaming then closeLoad l s else submitLeaves l s

/-- The plaintext of a chunk as AES-256-GCM gives it, if its tag verifies (R341). -/
def chunkPlain (l : Load) (c : Chunk) : Option Bytes :=
  Config.gcmOpen l.key (slice l.env 104 8 ++ leBytes 4 c.index) (envModel l.env ++ leBytes 4 (envShard l.env))
    (c.cipher.take 4096) (slice c.cipher 4096 16)

/-- A chunk's tag failed on two lanes, or on the only one: the load fails. -/
def tagFailed (l : Load) (s : State) : State :=
  failLoad l 0x07 .ingTag { s with ing := { s.ing with tagFail := satInc s.ing.tagFail } }

/-- A lane verified a chunk: its 64 writes go through the HBM lane of that number (R346, R79). -/
def writeChunk (l : Load) (c : Chunk) (cell : Cell) (plain : Bytes) (s : State) : State :=
  let lane : Lane := Fin.ofNat 16 (cell.val - 44)
  let addr := chunkAddr s.ing.plans[l.plan].extents c.index
  let plain := padTo 4096 plain
  let s := setLoad (setChunk { c with stage := .writing, plain := plain } l) s
  let s := (List.range 64).foldl (fun s k =>
    emit (.hbmWrite lane (addr + 64 * k) l.part (slice plain (64 * k) 64)) s) s
  submitLeaves (setChunk { c with stage := .writing, plain := plain } l)
    { s with ing := { s.ing with hbm := s.ing.hbm ++ [{ lane := lane, job := l.job, index := c.index, addr := addr }] } }

/-- An AES-GCM lane has finished a chunk. The tag's verdict is that of the function of the standard, unless the lane
computed it wrongly (assumption entry 24). A first failure is looked at once more on another healthy lane. -/
def chunkDone (job i : Nat) (cell : Cell) (wrong : Bool) (s : State) : State :=
  match loadOf s job with
  | none => s
  | some l =>
    match chunkOf l i with
    | none => s
    | some c =>
      match chunkPlain l c, wrong with
      | some plain, false => writeChunk l c cell plain s
      | _, _ =>
        if healthyCount s aesCells ≤ 1 then tagFailed l s else submitUnit { owner := .chunkAgain job i cell } s

/-- The second look at a chunk has ended on another lane: true when it verified the tag. -/
def chunkAgainDone (job i : Nat) (cell : Cell) (wrong : Bool) (s : State) : State × Bool :=
  match loadOf s job with
  | none => (s, false)
  | some l =>
    match chunkOf l i with
    | none => (s, false)
    | some c =>
      match chunkPlain l c, wrong with
      | some plain, false => (writeChunk l c cell plain s, true)
      | _, _ => (tagFailed l s, false)

/-- A Keccak lane has finished a leaf of a load, with the nodes the leaf closes. -/
def leafDone (job i : Nat) (s : State) : State :=
  match loadOf s job with
  | none => s
  | some l =>
    match chunkOf l i with
    | none => s
    | some c => foldChunks job (setLoad (setChunk { c with leaf := some (leafDigest i c.plain) } l) s)

/-- STRM takes and gives data: Full, not quarantined, ING not in reset. -/
def strmRuns (s : State) : Bool :=
  ctrlUp s && s.core.power == .full && !s.core.strmQuar && !engInReset s .ing

/-- A chunk that R76 drops: counted, the first one of a job recorded, and missing for its job (R342). -/
def dropChunk (tag : BitVec 16) (s : State) : State :=
  let s := { s with ing := { s.ing with dropped := satInc s.ing.dropped } }
  match s.ing.loads.find? (fun l => l.phase == .streaming && l.tag == tag) with
  | none => s
  | some l =>
    let s := if l.dropSeen then s else
      record { code := 0x0D03, seat := loadSeat s l, part := BitVec.ofNat 8 l.part.val, object := word l.plan.val } s
    let l := { l with dropSeen := true }
    if l.accepted < envChunks l.env then missingChunk l (setLoad l s) else setLoad l s

/-- A chunk arrives. -/
def takeChunk (tag : BitVec 16) (first : Bool) (beats : Nat) (data : Bytes) (s : State) : State :=
  match s.ing.loads.find? (fun l => l.phase == .streaming && l.tag == tag) with
  | none => dropChunk tag s
  | some l =>
    if beats ≠ 257 || !first || envChunks l.env ≤ l.accepted then dropChunk tag s
    else if 2 ≤ buffered s l.job then s
    else
      let c : Chunk := { index := l.accepted, cipher := padTo 4112 data }
      let l := { l with accepted := l.accepted + 1, rereqs := 0, lastBeat := s.beat.lbeat, chunks := l.chunks ++ [c] }
      submitUnit { owner := .chunk l.job c.index } (setLoad l s)

/-- STREAM_CHUNK (R76, R77): with both buffers of the load full no chunk can arrive. -/
def execStreamChunk (_lane : Lane) (tag : BitVec 16) (first : Bool) (beats : Nat) (data : Bytes) (s : State) :
    Host.Outcome State Fault Refusal :=
  .next (if strmRuns s then takeChunk tag first beats data s else s)

/-- The oldest outstanding writes of an HBM lane. -/
def hbmFront (s : State) (k : Lane) : Option HbmWait := s.ing.hbm.find? (fun w => w.lane == k)

/-- One write less is outstanding in the oldest entry of a lane. -/
def hbmStep (k : Lane) : List HbmWait → List HbmWait
  | [] => []
  | w :: ws => if w.lane = k then (if w.left ≤ 1 then ws else { w with left := w.left - 1 } :: ws) else w :: hbmStep k ws

/-- HBM_WRITE_ACK (R79): a chunk lands with its 64th good completion; an error fails its load. -/
def hbmAck (k : Lane) (err : Bool) (s : State) : State :=
  match hbmFront s k with
  | none => s
  | some w =>
    let s := { s with ing := { s.ing with hbm := hbmStep k s.ing.hbm } }
    match loadOf s w.job with
    | none => s
    | some l =>
      match chunkOf l w.index with
      | none => s
      | some c =>
        if err then
          failLoad l 0x0A .fault (record { code := 0x0D03, seat := loadSeat s l, part := BitVec.ofNat 8 l.part.val,
                                           object := word (w.addr + 64 * (64 - w.left)) } s)
        else if w.left ≤ 1 then foldChunks l.job (setLoad (setChunk { c with stage := .landed } l) s)
        else s

/-- HBM_WRITE_ACK. -/
def execHbmWriteAck (k : Lane) (err : Bool) (s : State) : Host.Outcome State Fault Refusal :=
  .next (if ctrlUp s then hbmAck k err s else s)

/-- INGEST_CHUNK_TIMEOUT (R342): no beat of the job for 2^20 beats while chunks remain. -/
def execIngestChunkTimeout (tag : BitVec 16) (s : State) : Host.Outcome State Fault Refusal :=
  .next (match s.ing.loads.find? (fun l => l.phase == .streaming && l.tag == tag) with
    | some l =>
      if strmRuns s && decide (l.accepted < envChunks l.env) && decide (l.lastBeat.toNat + 2 ^ 20 ≤ lbeat s) then
        missingChunk l s
      else s
    | none => s)

/-- A load cannot go on for want of cells (cause 0x0C). -/
def loadOutOfCells (job : Nat) (st : Status) (s : State) : State :=
  match loadOf s job with
  | some l => failLoad l 0x0C st s
  | none => s

/-! ## The resident sweep (R353 to R355) -/

/-- The plan the next pass visits. -/
def sweepNext (s : State) : Option PlanIx :=
  let start := s.ing.sweepPlan.val + (if s.ing.again then 0 else 1)
  ((List.range 256).map (fun k => (Fin.ofNat 256 (start + k) : PlanIx))).find?
    (fun i => s.ing.plans[i].st == .resident)

/-- The sweep may read: Full, STRM running, a healthy Keccak lane (R347, R355). -/
def sweepRuns (s : State) : Bool := strmRuns s && healthyCount s keccakCells != 0

/-- A pass is abandoned; the next one restarts at chunk 0 of the same plan (R354). -/
def abandonPass (s : State) : State :=
  match s.ing.pass with
  | none => s
  | some p =>
    dropUnits (fun o => o == .sweepLeaf)
      { s with ing := { s.ing with pass := none, again := true, stale := s.ing.stale + (p.issued - p.received) } }

/-- The pass whose plan has left RESIDENT is abandoned. -/
def checkPass (s : State) : State :=
  match s.ing.pass with
  | some p => if s.ing.plans[p.plan].st = .resident then s else abandonPass s
  | none => s

/-- Read one chunk of the pass if the credit allows (R148). -/
def sweepRead (s : State) : State :=
  match s.ing.pass with
  | none => s
  | some p =>
    let plan := s.ing.plans[p.plan]
    if s.ing.credit < 4096 || plan.chunks ≤ p.issued then s
    else emit (.sweepRead (chunkAddr plan.extents p.issued))
      { s with ing := { s.ing with credit := s.ing.credit - 4096, pass := some { p with issued := p.issued + 1 } } }

/-- Begin a pass when none runs and a plan is RESIDENT. -/
def beginPass (s : State) : State :=
  match s.ing.pass, sweepNext s with
  | none, some i => { s with ing := { s.ing with pass := some { plan := i }, sweepPlan := i, again := false } }
  | _, _ => s

/-- Credit of a beat: rate × period in force, capped at 64 KiB (R148). -/
def addCredit (s : State) : State :=
  { s with ing := { s.ing with credit := min 65536 (s.ing.credit + s.ing.rate.toNat * periodInForce s / 256) },
           beat := { s.beat with lastCredit := lbeat s } }

/-- SWEEP_CREDIT (R148): once per beat; reads follow while the credit holds 4 KiB. -/
def execSweepCredit (s : State) : Host.Outcome State Fault Refusal :=
  .next (
    if ctrlUp s && s.beat.lastCredit != lbeat s then
      let s := checkPass (addCredit s)
      if sweepRuns s then (List.range 16).foldl (fun s _ => sweepRead s) (beginPass s) else s
    else s)

/-- Quarantine of the partition of a plan (R356). -/
def quarantine (i : PlanIx) (s : State) : State :=
  let p := s.ing.plans[i]
  let n := p.part
  let s := { s with ing := { s.ing with quar := s.ing.quar ||| BitVec.ofNat 64 (2 ^ n.val) } }
  let s := advanceG n (stopLoads n s)
  let s := record { code := 0x0D03, part := BitVec.ofNat 8 n.val, status := statusCode .ingSweepMismatch,
                    object := word i.val, detail := leBytes 1 p.sweep.code ++ stampBytes p.sweepStamp } s
  raiseCore irqQuar (hwNote 0x00A0 (leBytes 1 n.val ++ leBytes 1 i.val ++ leBytes 1 p.sweep.code) s)

/-- A pass ends with a result and its stamp (R353). -/
def endPass (p : Pass) (r : SweepResult) (s : State) : State :=
  let stamp := stampNow s
  let s := { dropUnits (fun o => o == .sweepLeaf) s with
    ing := { s.ing with pass := none, stale := s.ing.stale + (p.issued - p.received) } }
  let s := s.modPlan p.plan (fun x => { x with sweep := r, sweepStamp := stamp, passes := if r = .readError then x.passes else satInc x.passes })
  if r = .matched then s else quarantine p.plan s

/-- Hand the next chunk of the pass to a Keccak lane, one at a time. -/
def submitSweep (s : State) : State :=
  let busy := s.units.any (fun u => u.owner == .sweepLeaf)
    || (indices 92).any (fun c => match s.cells[c].work with | some u => u.owner == .sweepLeaf | none => false)
  match s.ing.pass with
  | some p => if p.data.isEmpty || busy then s else submitUnit { owner := .sweepLeaf } s
  | none => s

/-- SWEEP_READ_DATA (R353): a chunk returns in request order. -/
def sweepData (chunk : Bytes) (s : State) : State :=
  if s.ing.stale ≠ 0 then { s with ing := { s.ing with stale := s.ing.stale - 1 } }
  else
    match (checkPass s).ing.pass with
    | none => checkPass s
    | some p =>
      if p.issued ≤ p.received then s
      else submitSweep { s with ing := { s.ing with
        pass := some { p with received := p.received + 1, data := p.data ++ [padTo 4096 chunk] } } }

/-- SWEEP_READ_DATA. -/
def execSweepReadData (chunk : Bytes) (s : State) : Host.Outcome State Fault Refusal :=
  .next (if strmRuns s then sweepData chunk s else s)

/-- hr_err on a sweep read (R80). -/
def sweepError (s : State) : State :=
  if s.ing.stale ≠ 0 then { s with ing := { s.ing with stale := s.ing.stale - 1 } }
  else
    match (checkPass s).ing.pass with
    | none => checkPass s
    | some p => if p.issued ≤ p.received then s else endPass { p with received := p.received + 1 } .readError s

/-- SWEEP_READ_ERROR. -/
def execSweepReadError (s : State) : Host.Outcome State Fault Refusal := .next (if strmRuns s then sweepError s else s)

/-- A Keccak lane has finished a leaf of the pass; the last one brings the comparison (R353 steps 2 to 4). -/
def sweepLeafDone (s : State) : State :=
  match (checkPass s).ing.pass with
  | none => checkPass s
  | some p =>
    match p.data with
    | [] => s
    | b :: rest =>
      let p : Pass := { p with data := rest, frontier := enterLeaf p.leaves (leafDigest p.leaves b) p.frontier, leaves := p.leaves + 1 }
      let s := { s with ing := { s.ing with pass := some p } }
      let plan := s.ing.plans[p.plan]
      if p.leaves < plan.chunks then submitSweep s
      else
        endPass p (if treeRoot plan.model plan.shard.toNat plan.chunks p.frontier = plan.root then .matched
          else .mismatch) s

/-! ## Power, quarantine and engine faults (R39, R347, Table 11-16) -/

/-- Every load fails: an engine fault of ING, or quarantine of STRM (cause 0x0E). -/
def failAllLoads (s : State) : State := s.ing.loads.foldl (fun s l => failLoad l 0x0E .fault s) s

/-- Loads whose kind of lane is gone fail, and the pass of a sweep without Keccak lanes is abandoned (R347). -/
def lanesGone (s : State) : State :=
  let aes := healthyCount s aesCells = 0
  let kec := healthyCount s keccakCells = 0
  let s := if aes || kec then s.ing.loads.foldl (fun s l => failLoad l 0x0C .retired s) s else s
  if kec then abandonPass s else s

/-! ## Registers (R357) -/

/-- ING_STATUS.SWEEP. -/
def sweepCode (s : State) : Nat :=
  if s.core.strmQuar then 3
  else if !(indices 256).any (fun i => s.ing.plans[i].st == .resident) then 0
  else if sweepPaused s then 2 else 1

/-- ING_STATUS (Table 11-13). -/
def ingStatus (s : State) : Word :=
  let busy := s.ing.loads.foldl (fun a l => a + 2 ^ l.lane.val) 0
  let plans := ((indices 256).filter (fun i => s.ing.plans[i].st ≠ .free)).length
  let keys := (s.keys.models.toList.map (·.length)).sum
  word (busy * 2 ^ 48 + plans * 2 ^ 32 + s.ing.loads.length * 2 ^ 22 + keys * 2 ^ 13
    + bit (s.core.power == .full && !s.core.strmQuar) * 4 + sweepCode s)

/-- Bits of healthy cells of a kind. -/
def okBits (s : State) (lo n : Nat) : Nat :=
  (List.range n).foldl (fun a k => if healthy s (Fin.ofNat 92 (lo + k)) then a + 2 ^ k else a) 0

/-- ING_CELLS: set at each transition from Control to Full. -/
def ingCells (s : State) : Word :=
  if s.ing.cellsSet then
    word ((if s.core.power = .full then ingestCeiling s / 10 else 0) * 2 ^ 48 + okBits s 60 24 * 2 ^ 16 + okBits s 44 16)
  else 0

/-- ING_SWEEP. -/
def ingSweep (s : State) : Word :=
  let chunk := match s.ing.pass with
    | some p => p.issued
    | none => 0
  word (s.ing.rate.toNat * 2 ^ 56 + s.ing.sweepPlan.val * 2 ^ 48 + chunk * 2 ^ 8)

/-- ING_DROP. -/
def ingDrop (g : Ing) : Word := word (g.dropped.toNat * 2 ^ 32 + g.tagFail.toNat * 2 ^ 16 + g.rereq.toNat)

/-- A read of ING_DROP clears it (R14). -/
def clearIngDrop (s : State) : State := { s with ing := { s.ing with dropped := 0, tagFail := 0, rereq := 0 } }

/-- ING_PLANn (Table 11-15). -/
def planWord (p : Plan) : Word :=
  if p.st = .free then 0
  else word (p.part.val * 2 ^ 58 + p.st.code * 2 ^ 55 + p.sweep.code * 2 ^ 52 + p.fail.toNat * 2 ^ 40 + p.chunks)

/-- Value of an ING register for a seat (Tables 11-12 to 11-15). -/
def readIng (n : Seat) (off : Nat) (s : State) : Word :=
  match off with
  | 0x00 => ingStatus s
  | 0x08 => ingCells s
  | 0x10 => if isHmb n then ingSweep s else 0
  | 0x18 => if isHmb n then ingDrop s.ing else 0
  | 0x20 => if isHmb n then s.ing.quar else if n.val < 64 then s.ing.quar &&& word (2 ^ n.val) else 0
  | _ =>
    if 0x800 ≤ off ∧ off < 0x1000 then
      let p := s.ing.plans[(Fin.ofNat 256 ((off - 0x800) / 8) : PlanIx)]
      if isHmb n || p.part.val == n.val then planWord p else 0
    else 0

end Sys2Proof.Machine
end

