-- ==== Sys2Proof/Machine/SeatReset.lean ====
section
/-! DEFINITION. Stopping a started job (R123) and the reset of a seat (R124, R125). -/

namespace Sys2Proof.Machine

/-- A started job that a SEAT_ABORT stops now: abortable by its chapter, its outcome not decided, a PKE job not yet
writing its output, a PART_SWAP not yet armed (R123, R291, R376). -/
def canAbort (s : State) (j : Job) : Bool :=
  abortable j.op
    && (match j.stage with
        | .ready _ _ => false
        | .store _ _ => j.cls != .pke
        | _ => true)
    && !(match s.part.swap with
         | some w => w.job == some j.id && w.phase == .armed
         | none => false)

/-- The engine stops a job at its next step boundary and zeroizes its working state; the job itself is left to the
caller. A POWER_SET leaves its transition running. -/
def stopWork (j : Job) (s : State) : State :=
  let s := placeWaiting (dropUnits (ownerJob j.id) s)
  match j.cls with
  | .pke => countAborted s
  | .dig =>
    match jobMsg s j with
    | some i => if (s.msg i).st = .running then s.modMsg i (fun m => { m with st := .opened }) else s
    | none => s
  | .ing => s
  | .ctrl =>
    match j.op with
    | .partSwap =>
      match s.part.swap with
      | some w => if w.job = some j.id then { s with part := { s.part with swap := none } } else s
      | none => s
    | .powerSet =>
      { s with core := { s.core with toFull := s.core.toFull.map (fun t => if t.job = some j.id then { t with job := none } else t) } }
    | _ => s

/-- The result words of an aborted job: zero, but for the bytes a dump has copied (R123, R406). -/
def abortWords (j : Job) : Words := if j.op = .recDumpRead then wordsOf [word j.num] else noWords

/-- A started abortable job ends with ST_ABORTED; a load also cancels its stream and fails its plan (R351). -/
def abortJob (j : Job) (s : State) : State :=
  match loadOf s j.id with
  | some l => stopLoad l s
  | none => pumpContexts (finishJob j .aborted (abortWords j) (stopWork j s))

/-- A started job at the reset of its seat: stopped as by SEAT_ABORT, or run on detached (R124). A word being read is
read to its end, with nothing posted. -/
def detachJob (j : Job) (s : State) : State :=
  let j' := { j with detached := true }
  if canAbort s j && j.op != .otpRead then abortJob j' (setJob j' s)
  else
    match j.stage with
    | .ready _ _ => settle (removeJob j.id s)
    | _ => setJob j' s

/-- What Table 3-13 zeroes in a page, and the capture of BEAT_NOW_INFO (Table 4-10). -/
def blankPage (p : SeatPage) : SeatPage :=
  { p with args := noWords, accept := 0, fault := 0, irqStatus := 0, irqEn := 0, postPtr := 0, postStatus := 0,
           emptied0 := 0, emptied1 := 0, entries := Vector.replicate 32 {}, nowInfo := 0 }

/-- A staging session of a seat ends (R265). -/
def endStage (n : Seat) (s : State) : State :=
  match s.boot.stage with
  | some g => if g.seat = n then { s with boot := { s.boot with stage := none, pldm := none } } else s
  | none => s

/-- Seat reset (R124, R125, Table 3-13), with what other chapters end at it: role and nonces (R199), profiling
(Table 6-11), staging and build sessions (R265, R366), DIG messages (Table 10-7). It is done in one step
(assumption entry 15). -/
def resetSeat (n : Seat) (s : State) : State :=
  let s := (s.jobs.filter (fun j => j.seat = n && !j.detached)).foldl (fun s j => detachJob j s) s
  let s := clearSeatDig n (s.modSeat n blankPage)
  let s := modAuth n (fun a => { a with roleNonce := none, consentNonce := none }) (endRole n 2 s)
  let s := match partOf n with
    | some p => closeProf p 0xFF 4 s
    | none => s
  let s := endStage n s
  if s.part.session = some n then endBuild s else s

end Sys2Proof.Machine
end

