-- ==== Sys2Proof/Machine/Boot.lean ====
section
/-! DEFINITION. Secure start (chapter 08): the configuration record, microcode packages, images and slots, the slot
decision, the release and the live swap of management firmware. -/

namespace Sys2Proof.Machine

/-! ## Configuration record (R247, R248) -/

/-- Length of the signature block. -/
def blockLen (b : Bytes) : Nat := getLe b 256 4

/-- Length of a record with its signature block. -/
def recordLen (b : Bytes) : Nat := 260 + blockLen b

/-- The signature block of a record. -/
def sigBlock (b : Bytes) : Bytes := slice b 260 (blockLen b)

/-- Every byte of a range is zero. -/
def zeroBytes (b : Bytes) (i n : Nat) : Bool := (slice b i n).all (· == 0)

/-- Magic, version, reserved bytes and lengths are as Tables 8-3 and 8-4 state. -/
def recordLayout (b : Bytes) : Bool :=
  let g := sigBlock b
  let n := getLe g 0 1
  b.take 4 == [0x4C#8, 0x54#8, 0x43#8, 0x52#8] && getLe b 4 1 == 1 && getLe b 5 1 == 0 && getLe b 51 1 == 0
    && zeroBytes b 114 142
    && decide (n ≤ 2) && blockLen b == 2693 + 7436 * n + 4723 && g.length == blockLen b && zeroBytes g 1 3
    && getLe g 4 1 == 4

/-- Record version. -/
def recordVersion (b : Bytes) : Nat := getLe b 6 2

/-- The version is in its range and at least counter 1. -/
def recordVersionOk (s : State) (b : Bytes) : Bool :=
  decide (1 ≤ recordVersion b) && decide (recordVersion b ≤ 2047) && decide (ctrLive s 1 ≤ recordVersion b)

/-- The certificates of a signature block. -/
def blockCerts (g : Bytes) : List Bytes := (List.range (getLe g 0 1)).map (certAt g)

/-- Anchor, bindings and signatures of a record hold. -/
def recordSigned (s : State) (b : Bytes) : Bool :=
  let g := sigBlock b
  let cs := blockCerts g
  let anchor := (slice g 4 97, slice g 101 2592)
  let signer : Bytes × Bytes := match cs.getLast? with
    | some c => (slice c 24 97, slice c 121 2592)
    | none => anchor
  let ser := wordBytes (serial s)
  installerAnchor s (anchorDigest g) && cs.all (fun c => certLayout c && getLe c 1 1 == 2)
    && chainOk ser anchor cs
    && dualVerify signer.1 signer.2 (b.take 260) (g.drop (g.length - 4723))
    && (slice b 8 8 == List.replicate 8 0 || slice b 8 8 == ser)

/-- A copy is valid (R248). -/
def recordValid (s : State) (b : Bytes) : Bool := recordLayout b && recordSigned s b && recordVersionOk s b

/-- The bytes of a record copy, with its signature block. -/
def readRecord (s : State) (copy1 : Bool) : Bytes :=
  let head := flashRead s (recordArea copy1) 260
  if blockLen head ≤ 22288 then flashRead s (recordArea copy1) (recordLen head) else head

/-- A field: its value, or its default when it is 0 or outside its range; then it is recorded too. -/
def fieldOr (b : Bytes) (i n : Nat) (ok : Nat → Bool) (d : Nat) : Nat :=
  let v := getLe b i n
  if v ≠ 0 && ok v then v else d

/-- Ranges of the fields that have one: offset, length, lowest, highest. -/
def recordRanges : List (Nat × Nat × Nat × Nat) :=
  [(40, 4, 0x1F400, 0xFA0000), (44, 1, 2, 3), (45, 1, 6, 16), (46, 1, 32, 40), (47, 1, 20, 36), (48, 2, 1, 600),
   (50, 1, 1, 3), (60, 2, 1782, 1818), (62, 2, 1782, 1818), (112, 2, 1, 64)] ++ (List.range 20).map (fun i => (64 + i, 1, 1, 8))

/-- A value lies in a range. -/
def inRange (lo hi v : Nat) : Bool := decide (lo ≤ v) && decide (v ≤ hi)

/-- A field of recordRanges. -/
def rangedField (b : Bytes) (i d : Nat) : Nat :=
  match recordRanges.find? (fun r => r.1 == i) with
  | some r => fieldOr b i r.2.1 (inRange r.2.2.1 r.2.2.2) d
  | none => d

/-- Offsets whose non-zero value is replaced by its default. -/
def badFields (b : Bytes) : List Nat :=
  (recordRanges.filter (fun r => getLe b r.1 r.2.1 != 0 && !inRange r.2.2.1 r.2.2.2 (getLe b r.1 r.2.1))).map (·.1)
    ++ (if getLe b 32 8 % 0x80000 = 0 then [] else [32])

/-- Event code of a replaced field: the group of the chapter that its row names (R410, assumption entry 30). -/
def defaultedCode (i : Nat) : BitVec 16 :=
  if i = 40 ∨ i = 45 ∨ i = 46 then 0x0A04
  else if i = 60 ∨ i = 62 then 0x0804
  else if i = 47 ∨ i = 50 then 0x0904
  else if i = 32 then 0x0C04
  else if i = 112 then 0x0D04
  else 0x0B04

/-- The configuration a record gives (Table 8-3). -/
def parseRecord (b : Bytes) : CfgRecord :=
  let d : CfgRecord := {}
  let base := getLe b 32 8
  { version := BitVec.ofNat 16 (recordVersion b), installId := slice b 16 16,
    exchangeBase := if base % 0x80000 = 0 then word base else 0,
    nominal := BitVec.ofNat 32 (rangedField b 40 0x3E800),
    powerFull := rangedField b 44 3 == 3,
    hbExp := rangedField b 45 10, ckExp := rangedField b 46 36, credExp := rangedField b 47 30,
    trialS := BitVec.ofNat 16 (rangedField b 48 30),
    denyOper := rangedField b 50 0 % 2 == 1, denyProf := rangedField b 50 0 / 2 % 2 == 1,
    modeNamed := BitVec.ofNat 32 (getLe b 52 4), modeDigest := BitVec.ofNat 32 (getLe b 56 4),
    vppLow := BitVec.ofNat 16 (rangedField b 60 1782), vppHigh := BitVec.ofNat 16 (rangedField b 62 1818),
    weights := Vector.ofFn (fun (i : Fin 20) => rangedField b (64 + i.val) 1),
    thresholds := Vector.ofFn (fun (i : Fin 14) => fieldOr b (84 + 2 * i.val) 2 (fun _ => true) d.thresholds[i]),
    sweepRate := BitVec.ofNat 8 (rangedField b 112 8) }

/-- Some installer anchor is admitted. -/
def anyAnchor (s : State) : Bool :=
  regionState s 5 != .altered && ((List.range 6).all (fun i => liveWord s (0x280 + i) != 0)
    || (List.range 6).all (fun i => liveWord s (0x288 + i) != 0))

/-- The configuration in force reaches the units that use it. -/
def applyConfig (s : State) : State :=
  let c := s.boot.cfg
  let weight (n : Nat) (q : Fin 4) : Nat := c.weights[Fin.ofNat 20 (4 * seatGroup (seatNo n) + q.val)]
  let s := { s with beat := restartSchedule { s.beat with nominal := c.nominal, hbExp := c.hbExp, ckExp := c.ckExp },
                    ing := { s.ing with rate := c.sweepRate }, boot := { s.boot with trialS := c.trialS } }
  setPolicy { s with seats := s.seats.mapFinIdx (fun n p _ => { p with weights := Vector.ofFn (weight n) }) }

/-- Step 3: both copies are read and the valid one with the higher version is used, copy 0 on a tie (R248). -/
def chooseRecord (s : State) : State :=
  let b0 := readRecord s false
  let b1 := readRecord s true
  let v0 := flashUsable s && recordValid s b0
  let v1 := flashUsable s && recordValid s b1
  let take1 := v1 && (!v0 || decide (recordVersion b0 < recordVersion b1))
  if !(v0 || v1) then
    { s with boot := { s.boot with cfg := {}, cfgSource := if anyAnchor s then 2 else 0, cfgCopy := false, cfgDigest := none } }
  else
    let b := if take1 then b1 else b0
    let s := (badFields b).foldl (fun s i => startNote (defaultedCode i) i s) s
    { s with boot := { s.boot with
      cfg := parseRecord b, cfgSource := 1, cfgCopy := take1, cfgDigest := some (Config.sha3_384 b) } }

/-! ## Microcode packages (R252, R298, R299) -/

/-- A digest of a key set equals a fused key-set digest that is not all zero. -/
def keySetOk (s : State) (keys : Bytes) (a : Nat) : Bool :=
  let d := fuseBytes s a 6
  d.any (· != 0) && bvBytes (Config.sha3_384 keys) == d

/-- Fields of a package header (Table 9-15). -/
def packageFields (b : Bytes) : Bool :=
  let m := getLe b 12 4
  let len := getLe b 8 4
  b.take 4 == [0x4C#8, 0x4D#8, 0x43#8, 0x50#8] && getLe b 4 1 == 1 && getLe b 5 1 == 0
    && decide (1 ≤ m) && decide (m ≤ 64) && decide (8192 + 16 * m ≤ len) && decide (len ≤ 0x100000)
    && getLe b 24 1 == 2 && decide (getLe b 25 1 ≤ Config.romEdition.toNat) && zeroBytes b 26 6
    && getLe b 80 1 == 4 && zeroBytes b 7492 700

/-- SVN0 of a package. -/
def packageSvn (b : Bytes) : Nat := getLe b 6 2

/-- SVN0 is in its range and at least counter 0. -/
def packageSvnOk (s : State) (b : Bytes) : Bool := decide (packageSvn b ≤ 2047) && decide (ctrLive s 0 ≤ packageSvn b)

/-- Signer and signatures of a package header. -/
def packageSigned (s : State) (b : Bytes) : Bool :=
  keySetOk s (slice b 80 2689) 0x180 && dualVerify (slice b 80 97) (slice b 177 2592) (b.take 2769) (slice b 2769 4723)

/-- An entry of the program table (Table 9-16). -/
structure Program where
  ident : BitVec 16
  target : Nat
  offset : Nat
  length : Nat
  deriving DecidableEq, Repr

/-- The program table of a package. -/
def programsOf (b : Bytes) : List Program :=
  (List.range (getLe b 12 4)).map (fun k =>
    let o := 8192 + 16 * k
    { ident := BitVec.ofNat 16 (getLe b o 2), target := getLe b (o + 2) 1, offset := getLe b (o + 4) 4,
      length := getLe b (o + 8) 4 })

/-- Reserved bytes of the table, targets, places, overlaps, stores and the identifiers the ROM edition requires. -/
def programsOk (b : Bytes) : Bool :=
  let ps := programsOf b
  let m := getLe b 12 4
  let len := getLe b 8 4
  let total (t : Nat) : Nat := ((ps.filter (fun p => p.target == t)).map (·.length)).sum
  let apart (p q : Program) : Bool := decide (p.offset + p.length ≤ q.offset) || decide (q.offset + q.length ≤ p.offset)
  (List.range m).all (fun k => getLe b (8192 + 16 * k + 3) 1 == 0 && zeroBytes b (8192 + 16 * k + 12) 4)
    && ps.all (fun p => decide (1 ≤ p.target) && decide (p.target ≤ 3) && decide (8192 + 16 * m ≤ p.offset)
        && decide (p.offset + p.length ≤ len))
    && (ps.zipIdx.all (fun p => ps.zipIdx.all (fun q => p.2 == q.2 || apart p.1 q.1)))
    && decide (total 1 ≤ 0x18000) && decide (total 2 ≤ 0x10000) && decide (total 3 ≤ 0x8000)
    && Config.romProgramIds.all (fun i => ps.any (fun p => p.ident == i))

/-- The digest of a package's body equals its header's. -/
def packageBodyOk (b : Bytes) : Bool := bvBytes (Config.sha3_384 (b.drop 8192)) == slice b 32 48

/-- The bytes of a package copy. -/
def readPackage (s : State) (copy1 : Bool) : Bytes :=
  let head := flashRead s (microcodeArea copy1) 8192
  if getLe head 8 4 ≤ 0x100000 then flashRead s (microcodeArea copy1) (max 8192 (getLe head 8 4)) else head

/-- A copy qualifies by its header (R299 step 2, R252). -/
def packageQualifies (s : State) (b : Bytes) : Bool :=
  flashUsable s && packageFields b && packageSigned s b && packageSvnOk s b

/-- PKE and DIG have cells of every kind for the ROM programs and the known-answer suite (R299 steps 2, 3, 5). -/
def suiteRuns (s : State) : Bool :=
  healthyCount s (cellRange 0 32) != 0 && healthyCount s (cellRange 32 8) != 0 && healthyCount s (cellRange 40 4) != 0

/-- A qualifying copy passes steps 3 to 5 of R299. -/
def packageLoads (b : Bytes) (suiteFails : Bool) : Bool := packageBodyOk b && programsOk b && !suiteFails

/-- Step 4: the qualifying copy with the higher SVN0, copy 0 on a tie; the other one when it is rejected. -/
def loadMicrocode (rejects : BitVec 2) (s : State) : State :=
  let b0 := readPackage s false
  let b1 := readPackage s true
  let q0 := packageQualifies s b0
  let q1 := packageQualifies s b1
  let ok0 := q0 && suiteRuns s && packageLoads b0 (rejects.getLsbD 0)
  let ok1 := q1 && suiteRuns s && packageLoads b1 (rejects.getLsbD 1)
  let first1 := q1 && (!q0 || decide (packageSvn b0 < packageSvn b1))
  let take1 := ok1 && (first1 || !ok0)
  if !(ok0 || ok1) then s
  else
    let b := if take1 then b1 else b0
    let svn := BitVec.ofNat 16 (packageSvn b)
    { s with boot := { s.boot with mcLoaded := true, mcCopy := take1, svn0 := svn, mcVersion := word (getLe b 16 8),
                                   mcMeas := Config.sha3_384 b },
             pke := { s.pke with romOnly := false, store := b, storeDigest := Config.sha3_384 b } }

/-! ## Slots and images (R253 to R256) -/

/-- State word of a slot (R255). -/
def slotWord (s : State) (b : Bool) : Nat := getLe (flashRead s (slotArea b) 2) 0 2

/-- States of Table 8-8. -/
inductive SlotState where
  | empty | writing | written | trial | confirmed | retired | invalid
  deriving DecidableEq, Repr

/-- The state a state word spells. -/
def slotStateOf (w : Nat) : SlotState :=
  match w with
  | 0xFFFF => .empty | 0xFFFE => .writing | 0xFFFC => .written | 0xFFF8 => .trial | 0xFFF0 => .confirmed
  | 0xFFE0 => .retired | _ => .invalid

/-- State word of a state that is programmed. -/
def SlotState.word : SlotState → Nat
  | .writing => 0xFFFE | .written => 0xFFFC | .trial => 0xFFF8 | .confirmed => 0xFFF0 | .retired => 0xFFE0
  | .empty | .invalid => 0xFFFF

/-- BOOT_SLOTx.STATE. -/
def SlotState.code : SlotState → Nat
  | .empty => 0 | .writing => 1 | .written => 2 | .trial => 3 | .confirmed => 4 | .retired => 5 | .invalid => 6

/-- State of a slot. -/
def slotState (s : State) (b : Bool) : SlotState := slotStateOf (slotWord s b)

/-- Generation of a slot. -/
def slotGen (s : State) (b : Bool) : Nat := getLe (flashRead s (slotArea b + 4) 4) 0 4

/-- TRIES byte of a slot. -/
def slotTries (s : State) (b : Bool) : Nat := getLe (flashRead s (slotArea b + 2) 1) 0 1

/-- TRIES_USED: the low-order zero bits, at most 2. -/
def triesUsed (t : Nat) : Nat := if t % 2 = 1 then 0 else if t / 2 % 2 = 1 then 1 else 2

/-- Program a slot state. -/
def programSlot (b : Bool) (st : SlotState) (s : State) : State := flashProgram (slotArea b) (leBytes 2 st.word) s

/-- Clear the next TRIES bit. -/
def clearTry (b : Bool) (s : State) : State :=
  flashProgram (slotArea b + 2) (leBytes 1 (if triesUsed (slotTries s b) = 0 then 0xFE else 0xFC)) s

/-- Header of the image in a slot (Table 8-7). -/
def slotHeader (s : State) (b : Bool) : Bytes := flashRead s (slotArea b + 0x40000) 8192

/-- FAMILY, SVN1, body length and offset of an image header. -/
def imgFamily (h : Bytes) : Nat := getLe h 6 2
def imgSvn (h : Bytes) : Nat := getLe h 8 2
def imgLength (h : Bytes) : Nat := getLe h 12 4
def imgOffset (h : Bytes) : Nat := getLe h 24 8

/-- A header is well formed (R253). -/
def headerOk (h : Bytes) : Bool :=
  h.take 4 == [0x4C#8, 0x54#8, 0x49#8, 0x4D#8] && getLe h 4 1 == 1 && getLe h 5 1 == 0
    && decide (imgFamily h ≤ 0x000D) && decide (imgSvn h ≤ 2047) && getLe h 10 2 == 0
    && decide (imgLength h ≤ 0x02FBE000) && imgOffset h % 64 == 0 && getLe h 80 1 == 4 && zeroBytes h 7492 700

/-- The security version of an image is at least its family's counter. -/
def svnAdmitted (s : State) (h : Bytes) : Bool := decide (ctrLive s (imgFamily h + 2) ≤ imgSvn h)

/-- A slot is eligible (R256). -/
def eligible (s : State) (b : Bool) : Bool := headerOk (slotHeader s b) && svnAdmitted s (slotHeader s b)

/-- The image measurement: SHA3-384 over header bytes 0 to 2,768. -/
def imageMeasure (h : Bytes) : BitVec 384 := Config.sha3_384 (h.take 2769)

/-- Signer and signatures of an image header: key set 0 or 1. -/
def imageSigned (s : State) (h : Bytes) : Bool :=
  let keys := slice h 80 2689
  (keySetOk s keys 0x188 || keySetOk s keys 0x190)
    && dualVerify (slice h 80 97) (slice h 177 2592) (h.take 2769) (slice h 2769 4723)

/-- Body of the image in a slot. -/
def imageBody (s : State) (b : Bool) : Bytes := flashRead s (slotArea b + 0x42000) (imgLength (slotHeader s b))

/-- The body digest holds. -/
def bodyOk (s : State) (b : Bool) : Bool := bvBytes (Config.sha3_384 (imageBody s b)) == slice (slotHeader s b) 32 48

/-- Base and size of the instruction memory (words 0x702 and 0x703). -/
def imemBase (s : State) : Word := fuse s 0x702
def imemSize (s : State) : Nat := (fuse s 0x703).toNat

/-- The instruction memory is known (Table 8-6). -/
def imemKnown (s : State) : Bool :=
  regionState s 14 != .altered && !(resolve 0x702 (otpSensed s 0x702)).2 && !(resolve 0x703 (otpSensed s 0x703)).2

/-- The body fits the instruction memory. -/
def bodyFits (s : State) (h : Bytes) : Bool := decide (imgOffset h + imgLength h ≤ imemSize s)

/-- The instruction memory as an image fills it: zero outside the body. -/
def imemImage (s : State) (b : Bool) : Bytes :=
  let h := slotHeader s b
  padTo (imemSize s) (List.replicate (imgOffset h) 0 ++ imageBody s b)

/-- The checks of step 1 of R254: header, signer, signatures, room. Without PKE or DIG nothing can be verified (R55). -/
def headerLoads (s : State) (b : Bool) : Bool :=
  let h := slotHeader s b
  !pkeOut s && !digOut s && imemKnown s && headerOk h && imageSigned s h && bodyFits s h

/-- Steps 1 to 3 of R254. True when header and body verify; otherwise a memory already written is zeroed. -/
def loadImage (b : Bool) (s : State) : State × Bool :=
  if !headerLoads s b then (s, false)
  else
    let s := emit (.imemWrite (imemBase s) (imemImage s b)) s
    if bodyOk s b then (s, true)
    else (emit (.imemWrite (imemBase s) (List.replicate (imemSize s) 0)) s, false)

/-- A candidate failed: event and heartwood records (Table 13-8), with its slot, generation, family and SVN1. -/
def slotDetail (s : State) (b : Bool) : Bytes :=
  let h := slotHeader s b
  leBytes 1 (bit b) ++ leBytes 4 (slotGen s b) ++ leBytes 2 (imgFamily h) ++ leBytes 2 (imgSvn h)

/-- Event code of a condition of the flash slots: found at the start, or in service (Table 13-6). -/
def slotCode (s : State) : BitVec 16 := if s.core.startDone then 0x0B03 else 0x0B02

/-- Record a failed candidate. -/
def candidateFailed (b : Bool) (s : State) : State :=
  hwNote 0x0071 (slotDetail s b) (record { code := slotCode s, object := word (bit b) } s)

/-! ## The slot decision (R256, R257) -/

/-- A candidate of the decision. -/
structure Cand where
  slot : Bool
  sapling : Bool
  deriving DecidableEq, Repr

/-- Both slots, the higher generation first and slot A first on equal ones. -/
def slotOrder (s : State) : List Bool := if slotGen s false < slotGen s true then [true, false] else [false, true]

/-- A CONFIRMED eligible slot exists. -/
def confirmedPeer (s : State) : Bool := [false, true].any (fun b => slotState s b == .confirmed && eligible s b)

/-- TRIAL slots: candidates, or retired. -/
def decideTrial (peer : Bool) (bs : List Bool) (s : State) : List Cand × State :=
  bs.foldl (fun a b =>
    if !eligible a.2 b || !a.1.isEmpty || (peer && triesUsed (slotTries a.2 b) == 2) then (a.1, programSlot b .retired a.2)
    else (a.1 ++ [{ slot := b, sapling := true }], a.2)) ([], s)

/-- CONFIRMED slots: candidates, or retired. -/
def decideConfirmed (bs : List Bool) (s : State) : List Cand × State :=
  bs.foldl (fun a b =>
    if eligible a.2 b then (a.1 ++ [{ slot := b, sapling := false }], a.2) else (a.1, programSlot b .retired a.2)) ([], s)

/-- The candidates in order, with the header writes the decision makes. -/
def slotDecision (s : State) : List Cand × State :=
  let peer := confirmedPeer s
  let order := slotOrder s
  let of' (st : SlotState) : List Bool := order.filter (fun b => slotState s b == st)
  let tied := slotGen s false == slotGen s true && slotState s false == slotState s true
    && (slotState s false == .trial || slotState s false == .confirmed || slotState s false == .written)
  let s := if tied then record { code := slotCode s } s else s
  let t := decideTrial peer (of' .trial) s
  let c := decideConfirmed (of' .confirmed) t.2
  let cand := t.1 ++ c.1
  if cand.isEmpty then
    match (of' .written).find? (eligible c.2) with
    | some b => ([{ slot := b, sapling := true }], programSlot b .trial c.2)
    | none => ([], c.2)
  else (cand, c.2)

/-! ## Release (R64) and keys (step 7) -/

/-- The instruction memory is locked and the cores released together; a sapling with a confirmed peer starts the trial
timer (R258). -/
def releaseImage (c : Cand) (timer : Bool) (s : State) : State :=
  let s := { s with
    pins := { s.pins with imemWlock := true, rstMgmtN := true, mgmtRelease := true },
    boot := { s.boot with
      running := some c.slot, sapling := c.sapling, everReleased := true, expiredWake := false,
      trialEnd := if timer then some (s.now + s.boot.trialS.toNat * 1000 * Config.millisecond) else none } }
  wakeNotices s

/-- Measurement and versions of an image that has been verified. -/
def adoptImage (b : Bool) (s : State) : State :=
  let h := slotHeader s b
  { s with boot := { s.boot with imgMeas := imageMeasure h },
           keys := { s.keys with svn1 := BitVec.ofNat 16 (imgSvn h), family := BitVec.ofNat 16 (imgFamily h) } }

/-- No image runs. -/
def noImage (s : State) : State :=
  { s with boot := { s.boot with running := none, sapling := false, imgMeas := 0, trialEnd := none },
           keys := { s.keys with svn1 := 0, family := 0 } }

/-- Rows 2 and 8 of Table 7-2 and a new kind 0x13 certificate (R261 step 4). -/
def imageKeys (s : State) : State :=
  if s.keys.rootLoaded && s.keys.l0Done then
    let s := issueCert 0x13 (deriveLayer1 s)
    { s with keys := { s.keys with l1Done := true } }
  else s

/-- KEYS loads the root slots and derives the hierarchy; certificates are issued with the stamp of this moment (R217,
R222, R226, R227). -/
def startKeys (s : State) : State :=
  let s := { s with keys := { s.keys with svn0 := s.boot.svn0, romBound := Config.romEdition } }
  if !rootLoadable s then s
  else
    let s := { s with keys := { s.keys with
      root0 := fuseBytes s 0x200 8, root1 := fuseBytes s 0x208 8, rootLoaded := true } }
    let s := deriveLayer0 (deriveFixed s)
    let s := { s with keys := { s.keys with l0Done := true } }
    let s := [0x10, 0x12, 0x14, 0x15].foldl (fun s k => issueCert k s) s
    let area := flashRead s identityBase 10181
    if endorsementOk s area then
      { s with keys := { s.keys with
        endorsed := true, certs := (0x11, slice area 2689 7492) :: s.keys.certs.filter (fun c => c.1 != 0x11) } }
    else startNote 0x0C02 identityBase s

/-! ## Counter advances of SEQ (R245, R246, R259) -/

/-- SEQ advances counters in the state in force. -/
def countersAdvance (s : State) : Bool := s.lc.state == lcIntegration || s.lc.state == lcFielded

/-- The next counter burn that a confirmed slot is owed: its family's counter, then counter 0. -/
def owedBurn (s : State) (b : Bool) : List WordBurn :=
  if !countersAdvance s then []
  else
    let h := slotHeader s b
    let f := counterBurn s (imgFamily h + 2) (imgSvn h)
    if f.isEmpty then counterBurn s 0 s.boot.svn0.toNat else f

/-- An advance is pending for a CONFIRMED slot: the other slot is CONFIRMED as well, or the slot's own counter is below
its SVN1 (assumption entry 29). -/
def advancePending (s : State) (b : Bool) : Bool :=
  let h := slotHeader s b
  slotState s (!b) == .confirmed || (countersAdvance s && decide (ctrLive s (imgFamily h + 2) < imgSvn h))

/-- At a start: complete a pending advance, then retire the other CONFIRMED slot (R256). -/
def completeAdvance (b : Bool) (ps : List Pulse) (s : State) : State × List Pulse :=
  let r1 := burnNow (owedBurn s b) false ps s
  let r2 := burnNow (owedBurn r1.1 b) false r1.2.1 r1.1
  let s := r2.1
  if (owedBurn s b).isEmpty then
    let s := { s with boot := { s.boot with ctrPending := false } }
    (if slotState s (!b) == .confirmed then programSlot (!b) .retired s else s, r2.2.1)
  else
    (raiseCore irqBoot { s with boot := { s.boot with ctrPending := true, ctrRetryBeat := s.beat.lbeat + 0x100000 } },
     r2.2.1)

/-- At a start, for the CONFIRMED slot that loaded. -/
def settleConfirmed (b : Bool) (ps : List Pulse) (s : State) : State × List Pulse :=
  if advancePending s b then completeAdvance b ps s else (s, ps)

/-- Try the candidates in order at a start; the first that loads is adopted (R256). True when some candidate failed. -/
def tryCandidates (peer : Bool) : List Cand → List Pulse → State → State × List Pulse × Option Cand × Bool
  | [], ps, s => (s, ps, none, false)
  | c :: cs, ps, s =>
    let s := if c.sapling && peer then clearTry c.slot s else s
    match loadImage c.slot s with
    | (s, true) =>
      let s := adoptImage c.slot s
      if c.sapling then (s, ps, some c, false)
      else
        let r := settleConfirmed c.slot ps s
        (r.1, r.2, some c, false)
    | (s, false) =>
      let s := candidateFailed c.slot s
      let s := if slotState s c.slot == .confirmed then s else programSlot c.slot .retired s
      let r := tryCandidates peer cs ps s
      (r.1, r.2.1, r.2.2.1, true)

/-! ## Live swap (R261) -/

/-- Step 2: the management cores are reset with seat 65 and its key slots. -/
def holdCores (s : State) : State :=
  let s := { s with pins := { s.pins with rstMgmtN := false, imemWlock := false, mgmtRelease := false } }
  clearLayer1 (freeSeatSlots mgmt (resetSeat mgmt (noImage s)))

/-- Steps 3 to 5 for one candidate; true when it was released. -/
def swapLoad (c : Cand) (timer : Bool) (s : State) : State × Bool :=
  match loadImage c.slot s with
  | (s, true) => (releaseImage c timer (imageKeys (adoptImage c.slot s)), true)
  | (s, false) => (raiseCore irqBoot (candidateFailed c.slot s), false)

/-- The slot that did not swap in is retired if it was on trial, and the confirmed peer is loaded. -/
def swapPeer (b : Bool) (s : State) : State × Option Bool :=
  let s := if slotState s b == .trial then programSlot b .retired s else s
  if slotState s (!b) == .confirmed && eligible s (!b) then
    let r := swapLoad { slot := !b, sapling := false } false s
    (r.1, if r.2 then some (!b) else none)
  else (s, none)

/-- A whole swap to a target, and to the confirmed peer without a timer if the target fails. It is done in one step;
G of every partition advances (R337). The slot released, if any. -/
def swapTo (c : Cand) (timer : Bool) (s : State) : State × Option Bool :=
  let r := swapLoad c timer (advanceAllG (holdCores s))
  if r.2 then (r.1, some c.slot) else swapPeer c.slot r.1

/-- The slot decision applied while the cores are held in reset (R261, after SEQ's own engine reset). A counter
advance found pending is left to its retry. -/
def recoverCores (s : State) : State :=
  if s.pins.rstMgmtN || !imemKnown s then s
  else
    let peer := confirmedPeer s
    let d := slotDecision s
    let release (c : Cand) (s : State) : State × Bool :=
      let s := if c.sapling && peer then clearTry c.slot s else s
      let r := swapLoad c (c.sapling && peer) s
      if r.2 then
        (if !c.sapling && advancePending r.1 c.slot then raiseCore irqBoot { r.1 with boot := { r.1.boot with ctrPending := true, ctrRetryBeat := r.1.beat.lbeat } }
         else r.1, true)
      else (if slotState r.1 c.slot == .confirmed then r.1 else programSlot c.slot .retired r.1, false)
    (d.1.foldl (fun a c => if a.2 then a else release c a.1) (d.2, false)).1

/-! ## CONFIRM and trial expiry (R258 to R260) -/

/-- A write of BOOT_CONFIRM is ignored and recorded. -/
def confirmIgnored (n : Seat) (s : State) : State :=
  record { code := 0x0B03, seat := stampOf n, object := word 0x4020 } s

/-- A write is a valid confirmation (R259). -/
def confirmValid (n : Seat) (data : Word) (s : State) : Bool :=
  match s.boot.running with
  | none => false
  | some b =>
    n == mgmt && fld data 0 16 == 0x5A91 && fld data 32 32 == slotGen s b && s.boot.sapling && !s.boot.confirming
      && (match s.boot.trialEnd with
          | some t => decide (s.now < t)
          | none => true)

/-- Steps 3 and 4 of R259; step 3 is deferred while a counter advance is pending. -/
def finishConfirm (ok : Bool) (s : State) : State :=
  match s.boot.running with
  | none => s
  | some b =>
    let was := s.boot.confirming
    let s := if ok && slotState s (!b) == .confirmed then programSlot (!b) .retired s else s
    let newly := !ok && !s.boot.ctrPending
    let s := { s with boot := { s.boot with
      sapling := if was then false else s.boot.sapling, confirming := false, ctrPending := !ok,
      ctrRetryBeat := s.beat.lbeat + 0x100000 } }
    let s := if was then hwNote 0x0070 (slotDetail s b) s else s
    if newly then raiseCore irqBoot s else s

/-- Step 2 of R259: queue the next counter burn that is owed, or go on. -/
def confirmNext (s : State) : State :=
  match s.boot.running with
  | none => s
  | some b =>
    let todo := owedBurn s b
    if todo.isEmpty then finishConfirm true s else queueBurn { owner := .confirm, todo := todo } s

/-- A counter burn of a CONFIRM or its retry has ended. -/
def confirmBurned (e : BurnEnd) (s : State) : State :=
  let s := if e.status = .ok ∨ 0 < e.most then advanceAllG s else s
  if e.status = .ok then confirmNext s else finishConfirm false s

/-- A write of BOOT_CONFIRM by a seat (R259). -/
def confirmWrite (n : Seat) (data : Word) (s : State) : State :=
  match s.boot.running with
  | none => confirmIgnored n s
  | some b =>
    if confirmValid n data s then
      confirmNext (programSlot b .confirmed { s with boot := { s.boot with trialEnd := none, confirming := true } })
    else confirmIgnored n s

/-- SEQ returns the confirmed peer: the sapling's slot is retired (R260). -/
def trialReturn (s : State) : State :=
  match s.boot.running with
  | none => s
  | some b =>
    let s := hwNote 0x0071 (slotDetail s b) (record { code := 0x0B03, object := word (bit b) } s)
    let s := raiseCore irqBoot (programSlot b .retired { s with boot := { s.boot with trialEnd := none, expiredWake := false } })
    let p := !b
    if slotState s p == .confirmed && eligible s p then (swapTo { slot := p, sapling := false } false s).1
    else advanceAllG (holdCores s)

/-- TRIAL_TIMER_EXPIRY (R260): at the timer's end; in Watch it is latched. SEQ acts once out of its own reset. -/
def trialExpiry (s : State) : State :=
  match s.boot.trialEnd with
  | none => s
  | some t =>
    if !s.boot.sapling then s
    else if inWatch s then
      { s with now := max s.now t, boot := { s.boot with trialEnd := none, expiredWake := true } }
    else if ctrlUp s && !engInReset s .seq then trialReturn { s with now := max s.now t }
    else s

/-- TRIAL_TIMER_EXPIRY. -/
def execTrialTimerExpiry (s : State) : Host.Outcome State Fault Refusal := .next (trialExpiry s)

end Sys2Proof.Machine
end

