-- ==== Sys2Proof/Machine/Start.lean ====
section
/-! DEFINITION. The start sequence (R63, R249 to R252) and the BOOT registers (R270). -/

namespace Sys2Proof.Machine

/-- The transition from Control to Full begins: STRM is powered up (R49, R60). -/
def beginFull (job : Option Nat) (s : State) : State :=
  { s with core := { s.core with toFull := some { job := job, since := s.now } }, pins := { s.pins with pwrStrmReq := true } }

/-- Events that arose while CTRL was in retention are recorded, and their sources set (R408, R433). -/
def flushWatch (s : State) : State :=
  s.core.watchEvents.foldl (fun s e =>
    let s := match e.entry with
      | some r => writeEvent r s
      | none => s
    if e.irq = 0 then s else setBanks e.irq s) { s with core := { s.core with watchEvents := [] } }

/-- A heartwood record of this core fault exists, written or queued. -/
def faultRecorded (s : State) (cause : BitVec 8) : Bool :=
  s.recd.heartwood.any (fun e => hwCrcOk e.2 && hwType e.2 == 0x0040 && hwDetail e.2 0 == cause.toNat
      && decide (s.recd.start.toNat ≤ hwStart e.2 + 1))
    || s.recd.queue.any (fun h => h.kind == 0x0040 && h.detail.take 1 == [cause])

/-- Step 4 of R63: a latched cause is recorded, and the chip is asked to clear it (R44). -/
def readCause (s : State) : State :=
  if !s.pins.causeLatchedValid then s
  else
    let c := s.pins.causeLatched
    let s := record { code := 0x0402, object := c.zeroExtend 64 } s
    let s := if faultRecorded s c then s else hwNote 0x0041 [c] (record { code := 0x0403, object := c.zeroExtend 64 } s)
    emit .causeLatchClr { s with pins := { s.pins with causeLatched := 0, causeLatchedValid := false } }

/-- Event 0x0204: the map applied at start, with the number of retired cells. -/
def mapNote (s : State) : State :=
  record { code := 0x0204, detail := leBytes 4 ((indices 92).filter (fun c => s.cells[c].retired)).length } s

/-- START_DONE (R63 step 5, R249): type 0x0001 with the cause as it was latched, the releases, the power state. -/
def startDone (cause : BitVec 8) (valid : Bool) (s : State) : State :=
  let detail := leBytes 4 coreRev.toNat ++ [cause] ++ leBytes 1 (bit valid) ++ leBytes 1 s.boot.fail.toNat
  let s := hwNote 0x0001 detail { s with
    core := { s.core with startDone := true }, boot := { s.boot with step := 8 },
    pins := { s.pins with relDma := true, relCompute := true, rstComputeN := true } }
  if s.lc.state != lcScrapped && s.boot.cfg.powerFull then beginFull none s else s

/-- Steps 5 to 8: slot decision, image, keys, release. -/
def startImage (env : StartEnv) (ps : List Pulse) (s : State) : State :=
  if !imemKnown s then
    startKeys { s with boot := { s.boot with fail := 4 } }
  else
    let peer := confirmedPeer s
    let d := slotDecision s
    if env.initError && d.1.any (fun c => headerLoads d.2 c.slot) then coreFault 0x09 d.2
    else
      let r := tryCandidates peer d.1 ps { d.2 with boot := { d.2.boot with step := 5 } }
      let s := r.1
      match r.2.2.1 with
      | none =>
        let s := startKeys (noImage s)
        { s with boot := { s.boot with fail := 2 } }
      | some c =>
        let s := imageKeys (startKeys { s with boot := { s.boot with fail := if r.2.2.2 then 3 else 0 } })
        releaseImage c (c.sapling && peer) s

/-- The start sequence after the fuse sense (Table 8-5). -/
def startSequence (env : StartEnv) (s : State) : State :=
  let cause := s.pins.causeLatched
  let valid := s.pins.causeLatchedValid
  let s := { s with pins := { s.pins with relFabric := true, relMem := true, relLink := true },
                    keys := { s.keys with drbgOk := true } }
  let s := freshContextKey (mapNote (flushWatch (readCause s)))
  let (s, ps, mark) := resumeField env.kdAcks env.pulses s
  let s := { s with boot := { s.boot with step := 2 } }
  if s.lc.state = lcScrapped then startDone cause valid s
  else
    let s := { s with boot := { s.boot with sfdp := some env.sfdp, octal := env.sfdp.octal } }
    let s := if flashUsable s then s else startNote 0x0B02 0 s
    let s := if env.sfdp.octal then s else startNote 0x0B02 1 s
    let s := freshLinks (applyConfig (chooseRecord s))
    let (s, ps) := resumeFielded mark ps s
    let failed := env.cellsFailed.filter (fun c => cellEngine c == .pke || cellEngine c == .dig)
    let s := retireCells (failed.filter (healthy s)) 2 { s with boot := { s.boot with step := 3 } }
    let s := loadMicrocode env.suiteRejects s
    if !s.boot.mcLoaded then startDone cause valid { s with boot := { s.boot with fail := 1 } }
    else
      let s := startImage env ps s
      if s.core.fatal then s else startDone cause valid s

/-- START_SEQUENCE (R249): once per start, after the fuse sense. -/
def execStartSequence (env : StartEnv) (s : State) : Host.Outcome State Fault Refusal :=
  .next (if ctrlUp s && s.otp.sensed && !s.core.startDone then startSequence env s else s)

/-! ## Registers (R270) -/

/-- Code of the handover state word (R262, Table 8-18). -/
def handoverCode (w : Nat) : Nat :=
  match w with
  | 0xFFFE => 1 | 0xFFFC => 2 | 0xFFF8 => 3 | _ => 0

/-- State word of the handover area. -/
def handoverWord (s : State) : Nat := getLe (flashRead s handoverBase 2) 0 2

/-- BOOT_STATUS (Table 8-18). The handover state is shown once the flash has been read in this start. -/
def bootStatus (s : State) : Word :=
  let b := s.boot
  let run := match b.running with
    | none => 0
    | some false => 1
    | some true => 2
  let ho := if 3 ≤ b.step.toNat && b.sfdp.isSome then handoverCode (handoverWord s) else 0
  word (b.step.toNat * 2 ^ 60 + b.fail.toNat * 2 ^ 56 + run * 2 ^ 14 + bit b.sapling * 2 ^ 13 + bit b.confirming * 2 ^ 12
    + bit b.ctrPending * 2 ^ 11 + bit b.expiredWake * 2 ^ 10 + ho * 2 ^ 8)

/-- BOOT_SLOTx (Table 8-19): the slot headers once step 5 of the start has read them. -/
def bootSlot (s : State) (x : Bool) : Word :=
  if s.boot.step.toNat < 5 || s.boot.sfdp.isNone || s.boot.fail == 1 || s.boot.fail == 4 then 0
  else
    let h := slotHeader s x
    let shown := if headerOk h then imgSvn h * 2 ^ 16 + imgFamily h * 2 ^ 12 + 2 ^ 7 else 0
    word (slotGen s x * 2 ^ 32 + shown + triesUsed (slotTries s x) * 2 ^ 8 + (slotState s x).code)

/-- BOOT_TRIAL (Table 8-19). -/
def bootTrial (s : State) : Word :=
  match s.boot.trialEnd with
  | none => word (s.boot.trialS.toNat * 2 ^ 48)
  | some t => word (s.boot.trialS.toNat * 2 ^ 48 + 2 ^ 20
      + min ((t - s.now + Config.millisecond - 1) / Config.millisecond) 0xFFFFF)

/-- BOOT_CFG (Table 8-20). -/
def bootCfg (s : State) : Word :=
  word (s.boot.cfg.version.toNat * 2 ^ 48 + (if s.otp.ctrsShown then ctrLive s 1 else 0) * 2 ^ 32
    + bit s.boot.cfgCopy * 2 ^ 2 + s.boot.cfgSource.toNat)

/-- BOOT_MC (Table 8-20). -/
def bootMc (s : State) : Word :=
  word (s.boot.svn0.toNat * 2 ^ 48 + (if s.otp.ctrsShown then ctrLive s 0 else 0) * 2 ^ 32
    + bit s.boot.mcCopy * 2 + bit s.boot.mcLoaded)

/-- BOOT_STAGE (Table 8-20). -/
def bootStage (b : Boot) : Word :=
  match b.stage with
  | none => 0
  | some g => word (g.bytes * 2 ^ 32 + g.seat.val * 2 ^ 24 + bit g.pldm * 2 ^ 19 + g.state.toNat * 2 ^ 16
      + g.component.toNat)

/-- Value of a BOOT register (Table 8-17). -/
def readBoot (off : Nat) (s : State) : Word :=
  match off with
  | 0x00 => bootStatus s
  | 0x08 => bootSlot s false
  | 0x10 => bootSlot s true
  | 0x18 => bootTrial s
  | 0x28 => bootCfg s
  | 0x30 => bootMc s
  | 0x38 => bootStage s.boot
  | _ =>
    if 0x40 ≤ off ∧ off < 0x70 then word (s.boot.imgMeas.toNat / 2 ^ (8 * (off - 0x40)))
    else if 0x70 ≤ off ∧ off < 0xA0 then word (s.boot.mcMeas.toNat / 2 ^ (8 * (off - 0x70)))
    else 0

end Sys2Proof.Machine
end

