-- ==== Sys2Proof/Machine/BootJobs.lean ====
section
/-! DEFINITION. The BOOT commands (R262 to R267): staging, activation, the handover record, BOOT_CONFIG_COMMIT and the
secret area. -/

namespace Sys2Proof.Machine

/-! ## Common checks -/

/-- The life-cycle states of BOOT commands (R266). -/
def bootLc (s : State) : Bool :=
  let lc := s.lc.state
  lc == lcTest || lc == lcIntegration || lc == lcFielded || lc == lcReturned

/-- PKE and DIG can verify and measure an update (Table 1-15). -/
def canVerify (s : State) : Bool := !pkeOut s && !digOut s

/-- No CONFIRM is in progress and no swap. -/
def bootQuiet (s : State) : Bool := !s.boot.confirming

/-! ## Staging (R265, Table 8-11) -/

/-- Maximum length of a component. -/
def componentMax (c : Nat) : Nat :=
  match c with
  | 1 => 0x02FC0000 | 2 => 0x100000 | _ => 0x40000

/-- The role that may stage a component. -/
def componentRole (s : State) (n : Seat) (c : Nat) : Bool :=
  match c with
  | 1 | 2 => operatorRight s n
  | 3 => roleOf s n == .installer
  | _ => roleOf s n == .maker

/-- A slot may be staged: neither running nor CONFIRMED. -/
def stageable (s : State) (b : Bool) : Bool := s.boot.running != some b && slotState s b != .confirmed

/-- A slot holds a staged image that has not been tried. -/
def holdsStaged (s : State) (b : Bool) : Bool := slotState s b == .written || slotState s b == .trial

/-- The slot a staging takes; of two, the one without a staged image, then the lower generation, then A. -/
def stageSlot (s : State) : Option Bool :=
  match stageable s false, stageable s true with
  | false, false => none
  | true, false => some false
  | false, true => some true
  | true, true =>
    if holdsStaged s false && !holdsStaged s true then some true
    else if holdsStaged s true && !holdsStaged s false then some false
    else if holdsStaged s false && decide (slotGen s true < slotGen s false) then some true
    else some false

/-- Generation of a slot for the next staging: an erased or invalid header has none. -/
def genOf (s : State) (b : Bool) : Nat :=
  if slotState s b == .empty || slotState s b == .invalid then 0 else slotGen s b

/-- One above the greater of the two slots' generations. -/
def nextGen (s : State) : Nat := max (genOf s false) (genOf s true) + 1

/-- Staging of a component is admitted (Table 8-11). -/
def stageAdmitted (s : State) (c : Nat) : Bool :=
  s.boot.stage.isNone && s.boot.pldm.isNone && bootQuiet s
    && (match c with
        | 1 => !s.boot.sapling && (stageSlot s).isSome && decide (nextGen s < 0xFFFFFFFF)
        | 4 => s.lc.state == lcTest
        | _ => true)

/-- Copy not in force. -/
def otherCopy (s : State) (c : Nat) : Bool :=
  if c = 2 then s.boot.mcLoaded && !s.boot.mcCopy else s.boot.cfgSource == 1 && !s.boot.cfgCopy

/-- Where a session's bytes go. -/
def stageBase (g : StageSession) : Nat :=
  match g.component.toNat with
  | 1 => slotArea g.slotB + 0x40000
  | 2 => microcodeArea g.copy1
  | 3 => recordArea g.copy1
  | _ => identityBase

/-- Open a session: the target area is erased; a slot is WRITING with its generation in the same program (R255). -/
def stageBegin (n : Seat) (pldm : Bool) (c len : Nat) (s : State) : State :=
  let slot := (stageSlot s).getD false
  let g : StageSession := {
    seat := n, pldm := pldm, component := BitVec.ofNat 3 c, length := len, slotB := c == 1 && slot,
    copy1 := otherCopy s c, state := 2 }
  let gen := nextGen s
  let s := { s with boot := { s.boot with stage := some g } }
  if c = 1 then
    flashProgram (slotArea slot) (leBytes 2 SlotState.writing.word ++ [0xFF#8, 0xFF#8] ++ leBytes 4 gen)
      (flashErase (slotArea slot) slotSize s)
  else flashErase (stageBase g) (if c = 2 then 0x100000 else 0x40000) s

/-- The next bytes of a session are programmed. -/
def stageWrite (g : StageSession) (b : Bytes) (s : State) : State :=
  let g' : StageSession := { g with bytes := g.bytes + b.length }
  flashProgram (stageBase g + g.bytes) b { s with boot := { s.boot with stage := some g' } }

/-- What FINISH finds: a status, the measurement, the family and the version (Table 8-13 orders 6 to 8). -/
structure Verdict where
  status : Status
  measure : BitVec 384 := 0
  family : Nat := 0
  version : Nat := 0
  deriving DecidableEq, Repr

/-- An image in a slot, read back from the flash. -/
def verdictImage (s : State) (b : Bool) : Verdict :=
  let h := slotHeader s b
  if !headerOk h || !svnAdmitted s h || !bodyFits s h then { status := .badArgument }
  else if !imageSigned s h then { status := .pkeVerifyFail }
  else if !bodyOk s b then { status := .badArgument }
  else { status := .ok, measure := imageMeasure h, family := imgFamily h, version := imgSvn h }

/-- The component of a session, read back from the flash. -/
def stageVerdict (s : State) (g : StageSession) : Verdict :=
  match g.component.toNat with
  | 1 => verdictImage s g.slotB
  | 2 =>
    let b := readPackage s g.copy1
    if !packageFields b || !packageSvnOk s b then { status := .badArgument }
    else if !packageSigned s b then { status := .pkeVerifyFail }
    else if !packageBodyOk b || !programsOk b then { status := .badArgument }
    else { status := .ok, measure := Config.sha3_384 b, version := packageSvn b }
  | 3 =>
    let b := readRecord s g.copy1
    if !recordLayout b || !recordVersionOk s b then { status := .badArgument }
    else if !recordSigned s b then { status := .pkeVerifyFail }
    else { status := .ok, measure := Config.sha3_384 b, version := recordVersion b }
  | _ =>
    let b := flashRead s identityBase g.length
    if g.length == 10181 && getLe b 0 1 == 4 && slice b 2689 2 == [0x01#8, 0x11#8] then
      { status := .ok, measure := Config.sha3_384 b }
    else { status := .badArgument }

/-- A verified session ends; a slot becomes WRITTEN. -/
def stageEnd (g : StageSession) (s : State) : State :=
  let s := { s with boot := { s.boot with stage := none } }
  if g.component = 1 then programSlot g.slotB .written s else s

/-- FINISH is admitted now. -/
def finishAdmitted (s : State) (g : StageSession) : Bool :=
  g.bytes == g.length && bootQuiet s && (g.component == 4 || canVerify s) && (g.component != 1 || imemKnown s)

/-- BOOT_STAGE_BEGIN starts. -/
def startStageBegin (j : Job) (s : State) : State :=
  let c := j.f 0 0 3
  match firstFail [
    (isHmb j.seat, .denied),
    (zeroFrom (j.w 0) 3 && decide (1 ≤ c) && decide (c ≤ 4) && zeroFrom (j.w 1) 32 && decide (1 ≤ j.f 1 0 32)
      && decide (j.f 1 0 32 ≤ componentMax c), .badArgument),
    (componentRole s j.seat c, .denied),
    (bootLc s && stageAdmitted s c, .state)] with
  | some st => refuseJob j st s
  | none => decideJob j .ok (wordsOf [if c = 1 then word (nextGen s) else 0]) (stageBegin j.seat false c (j.f 1 0 32) s)

/-- BOOT_STAGE_BEGIN (R265). -/
def execBootStageBegin (s : State) : Host.Outcome State Fault Refusal := .next (runJob .bootStageBegin true startStageBegin s)

/-- The seat owns the session, or there is none yet to own. -/
def sessionSeat (s : State) (n : Seat) : Bool :=
  isHmb n && (match s.boot.stage with
    | some g => g.seat == n
    | none => true)

/-- BOOT_STAGE_DATA starts. -/
def startStageData (j : Job) (s : State) : State :=
  let g := s.boot.stage.getD { seat := j.seat }
  let len := j.f 2 0 21
  match firstFail [
    (sessionSeat s j.seat, .denied),
    (zeroFrom (j.w 1) 32 && zeroFrom (j.w 2) 21 && decide (1 ≤ len) && decide (len ≤ 0x100000)
      && (s.boot.stage.isNone || (j.f 1 0 32 == g.bytes && decide (g.bytes + len ≤ g.length))), .badArgument),
    (s.boot.stage.isNone || componentRole s j.seat g.component.toNat, .denied),
    (bootLc s && s.boot.stage.isSome, .state)] with
  | some st => refuseJob j st s
  | none => fetchJob j (j.w 0) len s

/-- BOOT_STAGE_DATA (R266). -/
def execBootStageData (s : State) : Host.Outcome State Fault Refusal := .next (runJob .bootStageData true startStageData s)

/-- The data of a session has been read and is programmed; a session that ended meanwhile takes none. -/
def stageDataRead (j : Job) (b : Bytes) (s : State) : State :=
  match s.boot.stage with
  | some g =>
    if g.seat = j.seat && g.bytes == j.f 1 0 32 && !j.detached then
      decideJob j .ok (wordsOf [word (g.bytes + b.length)]) (stageWrite g b s)
    else refuseJob j .state s
  | none => refuseJob j .state s

/-- BOOT_STAGE_FINISH starts; a failed check changes nothing (R267). -/
def startStageFinish (j : Job) (s : State) : State :=
  let g := s.boot.stage.getD { seat := j.seat }
  match firstFail [
    (sessionSeat s j.seat, .denied),
    (s.boot.stage.isNone || componentRole s j.seat g.component.toNat, .denied),
    (bootLc s && s.boot.stage.isSome && finishAdmitted s g, .state)] with
  | some st => refuseJob j st s
  | none =>
    let v := stageVerdict s g
    if v.status ≠ .ok then failJob j v.status s
    else
      let m := bvBytes v.measure
      let ws := (List.range 6).map (fun i => word (getLe m (8 * i) 8)) ++ [word (v.family * 2 ^ 16 + v.version)]
      decideJob j .ok (wordsOf ws) (stageEnd g s)

/-- BOOT_STAGE_FINISH (R266). -/
def execBootStageFinish (s : State) : Host.Outcome State Fault Refusal :=
  .next (runJob .bootStageFinish true startStageFinish s)

/-- BOOT_STAGE_CANCEL starts. -/
def startStageCancel (j : Job) (s : State) : State :=
  match firstFail [
    (sessionSeat s j.seat, .denied),
    (bootLc s && s.boot.stage.isSome, .state)] with
  | some st => refuseJob j st s
  | none => decideJob j .ok noWords { s with boot := { s.boot with stage := none } }

/-- BOOT_STAGE_CANCEL (R265). -/
def execBootStageCancel (s : State) : Host.Outcome State Fault Refusal :=
  .next (runJob .bootStageCancel true startStageCancel s)

/-! ## BOOT_ACTIVATE (R261, R266) -/

/-- Activation of a slot with this generation is admitted. -/
def activateAdmitted (s : State) (b : Bool) (gen : Nat) : Bool :=
  bootLc s && slotState s b == .written && slotGen s b == gen && !s.boot.sapling && bootQuiet s && imemKnown s
    && canVerify s

/-- Activate a slot: TRIAL, a TRIES bit when a confirmed peer exists, then the swap. -/
def activate (b : Bool) (s : State) : State × Option Bool :=
  let peer := confirmedPeer s
  let s := programSlot b .trial s
  swapTo { slot := b, sapling := true } peer (if peer then clearTry b s else s)

/-- End a job that a swap may have detached. -/
def decideById (id : Nat) (st : Status) (ws : Words) (s : State) : State :=
  match s.job? id with
  | some j => decideJob j st ws s
  | none => s

/-- A slot activated: the job ends with the slot whose image was released. -/
def activateJob (j : Job) (b : Bool) (s : State) : State :=
  let r := activate b s
  decideById j.id (if r.2 == some b then .ok else .badArgument) (wordsOf [word (bit (r.2.getD b))]) r.1

/-- BOOT_ACTIVATE starts. Header and signature are judged before anything is changed; a body that then fails retires
the slot and brings the peer back. -/
def startActivate (j : Job) (s : State) : State :=
  let b := j.f 0 0 1 == 1
  let h := slotHeader s b
  match firstFail [
    (isHmb j.seat, .denied),
    (zeroFrom (j.w 0) 1 && zeroFrom (j.w 1) 32, .badArgument),
    (operatorRight s j.seat, .denied),
    (activateAdmitted s b (j.f 1 0 32), .state),
    (headerOk h && svnAdmitted s h && bodyFits s h, .badArgument),
    (imageSigned s h, .pkeVerifyFail)] with
  | some st => refuseJob j st s
  | none => activateJob j b s

/-- BOOT_ACTIVATE (R261). -/
def execBootActivate (s : State) : Host.Outcome State Fault Refusal := .next (runJob .bootActivate true startActivate s)

/-! ## Handover record (R262 to R264) -/

/-- Fields of the handover header (Table 8-10). -/
def handoverHeader (s : State) : Bytes := flashRead s handoverBase 160
/-- The recorded bytes. -/
def handoverRecord (s : State) : Bytes := flashRead s (handoverBase + 0x40000) (getLe (handoverHeader s) 8 4)

/-- The conditions of R263. -/
def putAdmitted (s : State) : Bool :=
  match s.boot.running with
  | none => false
  | some b =>
    let here := slotHeader s b
    let there := slotHeader s (!b)
    slotState s b == .confirmed && !s.boot.sapling && slotState s (!b) == .written && bootLc s
      && imgFamily here == imgFamily there && decide (imgSvn here ≤ imgSvn there)

/-- BOOT_HANDOVER_PUT starts: the area is erased and WRITING, and the record is read. -/
def startHandoverPut (j : Job) (s : State) : State :=
  let len := j.f 1 0 25
  match firstFail [
    (j.seat = mgmt, .denied),
    (zeroFrom (j.w 1) 25 && decide (1 ≤ len) && decide (len ≤ 16777216), .badArgument),
    (putAdmitted s, .state)] with
  | some st => refuseJob j st s
  | none => fetchJob j (j.w 0) len (flashProgram handoverBase (leBytes 2 0xFFFE) (flashErase handoverBase handoverSize s))

/-- BOOT_HANDOVER_PUT (R263). -/
def execBootHandoverPut (s : State) : Host.Outcome State Fault Refusal :=
  .next (runJob .bootHandoverPut true startHandoverPut s)

/-- The record has been read: it is programmed, then the header fields in one page, then VALID. -/
def handoverRead (j : Job) (b : Bytes) (s : State) : State :=
  match s.boot.running with
  | none => refuseJob j .state s
  | some r =>
    let here := slotHeader s r
    let there := slotHeader s (!r)
    let fields := leBytes 2 (imgFamily here) ++ leBytes 2 (imgSvn here) ++ leBytes 2 (imgSvn there) ++ leBytes 4 b.length
      ++ leBytes 4 (slotGen s (!r)) ++ bvBytes s.boot.imgMeas ++ bvBytes (imageMeasure there) ++ bvBytes (Config.sha3_384 b)
    let s := flashProgram (handoverBase + 2) fields (flashProgram (handoverBase + 0x40000) b s)
    decideJob j .ok (wordsOf [word b.length]) (flashProgram handoverBase (leBytes 2 0xFFFC) s)

/-- The running image is the one the record was made for. -/
def isToImage (s : State) : Bool :=
  let h := handoverHeader s
  bvBytes s.boot.imgMeas == slice h 64 48 && s.keys.family.toNat == getLe h 2 2
    && decide (getLe h 4 2 ≤ s.keys.svn1.toNat)

/-- The conditions of R264. -/
def getAdmitted (s : State) : Bool :=
  bootLc s && s.boot.running.isSome && handoverWord s == 0xFFFC
    && (isToImage s || bvBytes s.boot.imgMeas == slice (handoverHeader s) 16 48)

/-- BOOT_HANDOVER_GET starts. -/
def startHandoverGet (j : Job) (s : State) : State :=
  let b := handoverRecord s
  match firstFail [
    (j.seat = mgmt, .denied),
    (zeroFrom (j.w 1) 25 && zeroFrom (j.w 2) 1, .badArgument),
    (getAdmitted s, .state),
    (decide (getLe (handoverHeader s) 8 4 ≤ j.f 1 0 25), .badArgument)] with
  | some st => refuseJob j st s
  | none =>
    if bvBytes (Config.sha3_384 b) == slice (handoverHeader s) 112 48 then
      storeJob j (j.w 0) b .ok (wordsOf [word b.length]) s
    else
      let e : EventRec := { code := 0x0B01, seat := stampOf j.seat, status := statusCode .fault,
                            opcode := opcodeOf j.op, object := word handoverBase }
      let s := record e s
      failJob j .fault (flashProgram handoverBase (leBytes 2 0xFFF8) s)

/-- BOOT_HANDOVER_GET (R264). -/
def execBootHandoverGet (s : State) : Host.Outcome State Fault Refusal :=
  .next (runJob .bootHandoverGet true startHandoverGet s)

/-- The record has been delivered: the to-image may drop it, once confirmed. -/
def handoverStored (j : Job) (st : Status) (ws : Words) (s : State) : State :=
  let s := if j.f 2 0 1 = 1 && isToImage s && !s.boot.sapling then flashProgram handoverBase (leBytes 2 0xFFF8) s else s
  decideJob j st ws s

/-! ## BOOT_CONFIG_COMMIT, BOOT_SECRET_ACCESS -/

/-- BOOT_CONFIG_COMMIT starts: counter 1 goes to the version in force (R245). -/
def startConfigCommit (j : Job) (s : State) : State :=
  match firstFail [
    (isHmb j.seat, .denied),
    (roleOf s j.seat == .installer, .denied),
    (countersAdvance s, .state)] with
  | some st => refuseJob j st s
  | none => queueBurn { owner := .job j.id, seat := stampOf j.seat,
                        todo := counterBurn s 1 s.boot.cfg.version.toNat } s

/-- The commit's burn has ended. -/
def commitBurned (j : Job) (e : BurnEnd) (s : State) : State :=
  let s := if 0 < e.most then advanceAllG s else s
  decideJob j e.status (wordsOf [word (ctrLive s 1)]) s

/-- BOOT_SECRET_ACCESS starts. -/
def startSecret (j : Job) (s : State) : State :=
  let op := j.f 0 0 2
  let off := (j.w 2).toNat
  let len := j.f 3 0 21
  match firstFail [
    (j.seat = mgmt, .denied),
    (zeroFrom (j.w 0) 2 && decide (op ≤ 2) && zeroFrom (j.w 3) 21 && decide (off < secretSize)
      && (op == 2 || (decide (1 ≤ len) && decide (off + len ≤ secretSize))), .badArgument),
    (s.lc.state == lcIntegration || s.lc.state == lcFielded, .state)] with
  | some st => refuseJob j st s
  | none =>
    if op = 0 then storeJob j (j.w 1) (flashRead s (secretBase + off) len) .ok (wordsOf [word len]) s
    else if op = 1 then fetchJob j (j.w 1) len s
    else
      let z := sectorSize s
      decideJob j .ok (wordsOf [word z]) (flashErase (secretBase + off / z * z) z s)

/-- BOOT_SECRET_ACCESS (R266). -/
def execBootSecretAccess (s : State) : Host.Outcome State Fault Refusal := .next (runJob .bootSecretAccess true startSecret s)

/-- The bytes to program have been read. -/
def secretRead (j : Job) (b : Bytes) (s : State) : State :=
  decideJob j .ok (wordsOf [word b.length]) (flashProgram (secretBase + (j.w 2).toNat) b s)

end Sys2Proof.Machine
end

