-- ==== Sys2Proof/Machine/Evidence.lean ====
section
/-! DEFINITION. Evidence (R378 to R381, R390, R393): payloads in deterministic CBOR, COSE messages signed with AK0, and
the token records of a partition. -/

namespace Sys2Proof.Machine

/-- A stamp as an array. -/
def cborStamp (t : Stamp) : Bytes := cborArray [cborUint t.beat.toNat, cborUint t.info.toNat]

/-- Entries of a map under their integer keys. -/
def cborKeyed (es : List (Nat × Bytes)) : Bytes := cborMap (es.map (fun e => (cborUint e.1, e.2)))

/-- A digest that may be absent. -/
def cborDigest (b : Option Bytes) : Bytes := cborBytes (b.getD [])

/-- A management image runs. -/
def imageRuns (s : State) : Bool := s.boot.running.isSome

/-! ## Payload elements (Tables 12-9, 12-10) -/

/-- Key 4: the device. -/
def evDevice (s : State) : Bytes :=
  cborArray [cborBytes (wordBytes (serial s)), cborUint coreId.toNat, cborUint coreRev.toNat, cborBool s.keys.endorsed]

/-- Key 5: the life cycle. -/
def evLifeCycle (s : State) : Bytes :=
  cborArray [cborUint s.lc.state.toNat, cborBool s.lc.incomplete, cborBool s.lc.resumed]

/-- Key 6 for a partition. -/
def evDebug (s : State) (n : Part) : Bytes :=
  let r := s.part.recs[n]
  cborArray [cborUint s.lc.level.toNat, cborBool (s.lc.prof.getLsbD n.val), cborUint s.lc.opener.toNat,
    cborUint r.dbgHighest.toNat, cborUint r.dbgChanges]

/-- Key 6 of a member statement, which concerns no partition. -/
def evDebugMember (s : State) : Bytes :=
  cborArray [cborUint s.lc.level.toNat, Config.memberDebug 0, cborUint s.lc.opener.toNat, Config.memberDebug 1,
    Config.memberDebug 2]

/-- Key 7: versions. -/
def evVersions (s : State) : Bytes :=
  cborArray [cborUint s.keys.svn0.toNat, cborUint s.keys.svn1.toNat, cborUint s.keys.family.toNat,
    cborUint s.boot.cfg.version.toNat, cborArray ((List.range 16).map (fun c => cborUint (ctrLive s c)))]

/-- Keys 8 to 10: microcode, image, configuration. -/
def evMeasured (s : State) : List (Nat × Bytes) :=
  [(8, cborDigest (some (bvBytes s.boot.mcMeas))),
   (9, cborDigest (if imageRuns s then some (bvBytes s.boot.imgMeas) else none)),
   (10, cborArray [cborUint s.boot.cfgSource.toNat, cborUint s.boot.cfg.version.toNat,
                   cborDigest (s.boot.cfgDigest.map bvBytes)])]

/-- Key 11: the partition. -/
def evPartition (s : State) (n : Part) : Bytes :=
  let r := s.part.recs[n]
  cborArray [cborUint n.val, cborUint (bit r.conf), cborUint r.created.toNat, cborStamp r.cstamp, cborUint r.g.toNat,
    cborBytes (bvBytes r.digest), cborBool (quarantined s n)]

/-- A shard element (Table 12-10). -/
def evShard (s : State) (i : PlanIx) : Bytes :=
  let p := s.ing.plans[i]
  cborArray [cborUint i.val, cborBytes (padTo 32 p.model), cborUint p.shard.toNat, cborUint p.chunks,
    cborBytes (bvBytes p.root), cborBytes (bvBytes p.owner), cborStamp p.stamp, cborUint p.sweep.code,
    cborStamp (if p.sweep = .none then {} else p.sweepStamp), cborUint p.passes.toNat, cborBool s.core.strmQuar]

/-- Key 12: the RESIDENT plans of n in ascending number. -/
def evShards (s : State) (n : Part) : Bytes :=
  cborArray (((indices 256).filter (fun i => s.ing.plans[i].st = .resident ∧ s.ing.plans[i].part = n)).map (evShard s))

/-- Key 13: compute resets. -/
def evResets (s : State) (n : Part) : Bytes :=
  let r := s.part.recs[n]
  cborArray [cborUint r.crCount.toNat, cborArray (r.crStamps.map cborStamp)]

/-- The payload of a token (Table 12-9). -/
def tokenPayload (s : State) (n : Part) (nonce : Bytes) (t : Stamp) : Bytes :=
  cborKeyed ([(1, cborUint 1), (2, cborBytes nonce), (3, cborStamp t), (4, evDevice s), (5, evLifeCycle s),
    (6, evDebug s n), (7, evVersions s)] ++ evMeasured s ++
    [(11, evPartition s n), (12, evShards s n), (13, evResets s n), (14, cborBytes (bvBytes (mapDigest s)))])

/-- Key 15: one element per existing partition. -/
def evMembers (s : State) : Bytes :=
  cborArray (((indices 64).filter (partExists s)).map (fun n =>
    let r := s.part.recs[n]
    cborArray [cborUint n.val, cborUint (bit r.conf), cborUint r.created.toNat, cborUint r.g.toNat,
      cborBytes (bvBytes r.digest), cborBool (quarantined s n),
      cborBytes (bvBytes (Config.sha3_384 (evShards s n)))]))

/-- The payload of a member statement (R390). -/
def memberPayload (s : State) (a : GroveArmed) (t : Stamp) : Bytes :=
  cborKeyed ([(1, cborUint 1), (2, cborBytes a.nonce), (3, cborStamp t), (4, evDevice s), (5, evLifeCycle s),
    (6, evDebugMember s), (7, evVersions s)] ++ evMeasured s ++
    [(14, cborBytes (bvBytes (mapDigest s))), (15, evMembers s),
     (16, cborArray [cborUint a.number.toNat, cborUint a.aggregator.toNat, cborUint a.position.toNat])])

/-! ## COSE_Sign (Table 12-8) -/

/-- Body protected header. -/
def coseBody : Bytes := cborKeyed [(3, cborText "application/vnd.sortuoth.limcy-ev+cbor")]

/-- Protected header of a signature: −35 (ES384) or −50 (ML-DSA-87). -/
def coseAlg (n : Nat) : Bytes := cborMap [(cborUint 1, cborNeg (n - 1))]

/-- Sig_structure. -/
def coseSigned (alg : Nat) (payload : Bytes) : Bytes :=
  cborArray [cborText "Signature", cborBytes coseBody, cborBytes (coseAlg alg), cborBytes [], cborBytes payload]

/-- The signatures array over a payload, with AK0. -/
def coseSignatures (payload : Bytes) (s : State) : Bytes × State :=
  let kid := bvBytes (Config.sha3_384 ((certBytes s 0x12).getD []))
  let (ec, s) := ecdsaDraw p384 (p384Scalar (slotBytes s 4)) (bvBytes (Config.sha384 (coseSigned 35 payload))) ecdsaTries s
  let (rnd, s) := drawBytes 32 s
  let ml := (Config.mldsaSign (slotBytes s 5) (mldsaInput [] (coseSigned 50 payload)) rnd).1
  let one (alg : Nat) (sig : Bytes) : Bytes :=
    cborArray [cborBytes (coseAlg alg), cborKeyed [(4, cborBytes kid)], cborBytes sig]
  (cborArray [one 35 (padTo 96 ec), one 50 (padTo 4627 ml)], s)

/-- The tagged message over a payload and its signatures. -/
def coseMessage (payload sigs : Bytes) : Bytes :=
  cborTag 98 (cborHead 4 4 ++ cborBytes coseBody ++ cborMap [] ++ cborBytes payload ++ sigs)

/-- A signed message over a payload. -/
def coseSign (payload : Bytes) (s : State) : Bytes × State :=
  let (sigs, s) := coseSignatures payload s
  (coseMessage payload sigs, s)

/-! ## Issue (R378, R336) -/

/-- Evidence cannot be issued now: states, keys, engines (Table 12-7 order 4, R207, R55). -/
def evidenceOk (s : State) : Bool :=
  let lc := s.lc.state
  (lc == lcTest || lc == lcIntegration || lc == lcFielded) && s.keys.l0Done && !s.keys.held && !pkeOut s && !digOut s

/-- The keys a signature needs are gone by the time it is made: maker debug opened or an erasure ran in between
(R192, R205). -/
def signingLost (s : State) : Bool := s.keys.held || !s.keys.l0Done

/-- E of an issued token joins the last 16 records of n, with the generation at its issue. -/
def recordToken (n : Part) (token : Bytes) (g : BitVec 32) (s : State) : State :=
  if partExists s n then
    s.modPart n (fun r => { r with tokens := ((Config.sha3_384 token, g) :: r.tokens).take 16 })
  else s

end Sys2Proof.Machine
end

