-- ==== Sys2Proof/Machine/Partition.lean ====
section
/-! DEFINITION. Partitions (chapter 12): creation and teardown, building and swapping firebreak tables, clearing runs,
blocked-write counts, evidence for a seat, the crash dump of R406, and the PART registers. -/

namespace Sys2Proof.Machine

/-! ## Creation (R360, R361) -/

/-- A departed entry names n in the active table. -/
def departedOf (s : State) (n : Part) : Bool := (departedOwners s.part.active).contains n

/-- Partitions of a mode may exist (Table 6-13, R209, R211). -/
def modeAdmitted (s : State) (conf : Bool) : Bool :=
  let lc := s.lc.state
  if conf then (lc == lcIntegration || lc == lcFielded) && !s.lc.incomplete else partLc s

/-- Maker debug is open. -/
def makerDebug (s : State) : Bool := s.lc.level == 3

/-- Full or Control. -/
def partPower (s : State) : Bool := s.core.power == .full || s.core.power == .control

/-- The partition W0 [5:0] names. -/
def Job.part (j : Job) : Part := Fin.ofNat 64 (j.f 0 0 6)

/-- PART_CREATE starts. -/
def startCreate (j : Job) (s : State) : State :=
  let n := j.part
  let conf := j.f 0 8 1 == 1
  match firstFail [
    (isHmb j.seat, .denied),
    (fld (j.w 0) 6 2 == 0 && zeroFrom (j.w 0) 9, .badArgument),
    (operatorRight s j.seat, .denied),
    (partPower s && modeAdmitted s conf && !s.lc.hold && !makerDebug s && s.part.recs[n].st == .free
      && !departedOf s n, .state)] with
  | some st => refuseJob j st s
  | none =>
    let s := zeroModelKeys n (resetSeat (seatNo n.val) s)
    let c := nextSeq s.part.creations
    let s := { s with part := { s.part with creations := c } }
    let r : PartRec :=
      { st := .active, conf := conf, created := c, cstamp := stampNow s, digest := fbDigest s.part.active n,
        dbgHighest := s.lc.level }
    let s := s.modPart n (fun _ => r)
    decideJob j .ok (wordsOf [c.zeroExtend 64, s.beat.lbeat]) s

/-- PART_CREATE (R360). -/
def execPartCreate (s : State) : Host.Outcome State Fault Refusal := .next (runJob .partCreate true startCreate s)

/-! ## Build sessions (R366, R367) -/

/-- A teardown has the shadow, or will take it again. -/
def shadowTaken (s : State) : Bool := s.part.swap.isSome || s.part.retryAt.isSome

/-- CLEAR_SHADOW, then WRITE_SHADOW of every entry of the shadow copy that is not zero. -/
def loadShadow (t : FbTable) (s : State) : State :=
  let s := fbAll 2 0 { s with part := { s.part with shadow := t } }
  t.foldl (fun s e => fbWriteEntry e.1 e.2 s) s

/-- PART_SHADOW_BEGIN starts. -/
def startShadowBegin (j : Job) (s : State) : State :=
  match firstFail [
    (isHmb j.seat, .denied),
    (zeroFrom (j.w 0) 1, .badArgument),
    (operatorRight s j.seat, .denied),
    (partPower s && partLc s && s.part.session.isNone && !shadowTaken s, .state)] with
  | some st => refuseJob j st s
  | none =>
    let s := { s with part := { s.part with session := some j.seat } }
    decideJob j .ok noWords (loadShadow (if j.w 0 = 0 then s.part.active else []) s)

/-- PART_SHADOW_BEGIN (R367). -/
def execPartShadowBegin (s : State) : Host.Outcome State Fault Refusal :=
  .next (runJob .partShadowBegin true startShadowBegin s)

/-- The checks of commands for the session's owner: another seat than the owner is not admitted. -/
def sessionChecks (s : State) (j : Job) (args state : Bool) : Option Status :=
  firstFail [
    (isHmb j.seat && (s.part.session.isNone || s.part.session == some j.seat), .denied),
    (args, .badArgument),
    (operatorRight s j.seat, .denied),
    (partPower s && partLc s && s.part.session == some j.seat && s.part.swap.isNone && state, .state)]

/-- PART_SHADOW_WRITE starts. -/
def startShadowWrite (j : Job) (s : State) : State :=
  let first := j.f 0 0 12
  let count := j.f 2 0 13
  match sessionChecks s j
    (zeroFrom (j.w 0) 12 && zeroFrom (j.w 2) 13 && decide (1 ≤ count) && decide (first + count ≤ 4096)
      && aligned64 (j.w 1)) true with
  | some st => refuseJob j st s
  | none => fetchJob j (j.w 1) (16 * count) s

/-- PART_SHADOW_WRITE (R367). -/
def execPartShadowWrite (s : State) : Host.Outcome State Fault Refusal :=
  .next (runJob .partShadowWrite true startShadowWrite s)

/-- Entry k of a buffer. -/
def bufferEntry (b : Bytes) (k : Nat) : FbEntry := bytesBv 128 (slice b (16 * k) 16)

/-- The buffer of a shadow write has been read: every entry's reserved bits and KIND are judged, then all are
written. -/
def shadowFetched (j : Job) (b : Bytes) (s : State) : State :=
  let first := j.f 0 0 12
  let count := j.f 2 0 13
  let es := (List.range count).map (bufferEntry b)
  if s.part.session ≠ some j.seat then refuseJob j .state s
  else if es.any (fun e => !entryReservedOk e || 4 < entryKind e) then failJob j .badArgument s
  else
    let s := (List.range count).foldl (fun s k =>
      let e := bufferEntry b k
      fbWriteEntry (first + k) e { s with part := { s.part with shadow := memSet 0 s.part.shadow (first + k) e } }) s
    decideJob j .ok (wordsOf [word count]) s

/-- PART_SHADOW_CANCEL starts. -/
def startShadowCancel (j : Job) (s : State) : State :=
  match sessionChecks s j true true with
  | some st => refuseJob j st s
  | none => decideJob j .ok noWords (endBuild s)

/-- PART_SHADOW_CANCEL (R366). -/
def execPartShadowCancel (s : State) : Host.Outcome State Fault Refusal :=
  .next (runJob .partShadowCancel true startShadowCancel s)

/-! ## Validation (Table 12-4) -/

/-- Highest page. -/
def lastPage : Nat := 0x165A0BBF

/-- Two entries share a page. -/
def entriesMeet (a b : FbEntry) : Bool := entryBase a ≤ entryLast b && entryBase b ≤ entryLast a

/-- Valid: KIND other than invalid. -/
def entryValid (e : FbEntry) : Bool := entryKind e != 0

/-- The first entry that overlaps an earlier valid one. -/
def firstOverlap : List (Nat × FbEntry) → FbTable → Option Nat
  | _, [] => none
  | seen, e :: es =>
    if entryValid e.2 && seen.any (fun x => entriesMeet x.2 e.2) then some e.1
    else firstOverlap (if entryValid e.2 then e :: seen else seen) es

/-- Join page ranges, sorted by start, that touch or overlap. -/
def joinRanges : List (Nat × Nat) → List (Nat × Nat)
  | [] => []
  | r :: rs =>
    match joinRanges rs with
    | [] => [r]
    | q :: qs => if q.1 ≤ r.2 + 1 then (r.1, max r.2 q.2) :: qs else r :: q :: qs

/-- The page ranges of partition n in a table. -/
def pagesOf (t : FbTable) (n : Part) : List (Nat × Nat) :=
  joinRanges ((entriesOf t n).map (fun e => (entryBase e, entryLast e)))

/-- A page range is whole MiB. -/
def wholeMiB (r : Nat × Nat) : Bool := r.1 % 256 == 0 && (r.2 + 1) % 256 == 0

/-- The MiB rule of R364 holds for the range an entry of KIND partition lies in. -/
def mibOk (t : FbTable) (e : FbEntry) : Bool :=
  (pagesOf t (Fin.ofNat 64 (entryOwner e))).all (fun r =>
    !(decide (r.1 ≤ entryBase e) && decide (entryBase e ≤ r.2)) || wholeMiB r)

/-- Page ranges that await clearing (R372): runs not cleared. -/
def awaiting (s : State) : List (Nat × Nat) :=
  (s.part.runs.filter (fun r => !r.cleared)).map (fun r => (256 * r.startMiB, 256 * (r.startMiB + r.lenMiB) - 1))

/-- An entry meets a page range. -/
def entryInRange (e : FbEntry) (r : Nat × Nat) : Bool := entryBase e ≤ r.2 && r.1 ≤ entryLast e

/-- Bytes of an address range lie in entries of KIND Limcy of a table. -/
def limcyCovers (t : FbTable) (addr len : Nat) : Bool :=
  let es := ((t.filter (fun e => entryKind e.2 == 3)).map (·.2)).mergeSort
    (fun a b => decide (entryBase a ≤ entryBase b))
  let lo := addr / 4096
  let hi := (addr + len - 1) / 4096
  decide (hi < es.foldl (fun at' e => if entryBase e ≤ at' && at' ≤ entryLast e then entryLast e + 1 else at') lo)

/-- The ranges that must keep an entry of KIND Limcy: the exchange range and a running collection's inbox. -/
def limcyRanges (s : State) : List (Nat × Nat) :=
  (if s.boot.cfg.exchangeBase = 0 then [] else [(s.boot.cfg.exchangeBase.toNat, 0x80000)])
    ++ (match s.part.collection with
        | some c => [(c.inbox.toNat, 192 * c.count)]
        | none => [])

/-- A check of single entries: the first entry that fails. -/
def firstEntry (t : FbTable) (ok : FbEntry → Bool) : Option Nat := (t.find? (fun e => !ok e.2)).map (·.1)

/-- The first failing check of Table 12-4 and its entry. -/
def shadowFault (s : State) (t : FbTable) : Option (Nat × Nat) :=
  let ranged (e : FbEntry) : Bool := decide (entryBase e ≤ entryLast e) && decide (entryLast e ≤ lastPage)
  let owned (e : FbEntry) : Bool :=
    if entryKind e = 1 then
      let r := s.part.recs[(Fin.ofNat 64 (entryOwner e) : Part)]
      r.st == .active && r.conf == entryConf e
    else entryKind e == 0 || (!entrySealed e && !entryConf e)
  let owners (e : FbEntry) : Bool :=
    if entryKind e = 2 then entryOwner e / 4 == 0 else entryKind e != 3 || entryOwner e == 0
  let departed (e : FbEntry) : Bool := entryKind e != 4 || s.part.active.any (fun x => x.2 == e)
  let waits (e : FbEntry) : Bool :=
    !(entryKind e == 1 || entryKind e == 2 || entryKind e == 3) || !(awaiting s).any (entryInRange e)
  let checks : List (Nat × Option Nat) :=
    [(1, firstEntry t (fun e => entryReservedOk e && decide (entryKind e ≤ 4) && (!entryValid e || ranged e))),
     (2, firstOverlap [] t), (3, firstEntry t owned), (4, firstEntry t owners), (5, firstEntry t departed),
     (6, firstEntry t (fun e => entryKind e != 1 || mibOk t e)), (7, firstEntry t waits),
     (8, if (limcyRanges s).all (fun r => limcyCovers t r.1 r.2) then none else some 0)]
  checks.findSome? (fun c => c.2.map (fun i => (c.1, i)))

/-! ## Clearing (R371 steps 4 to 7, R372, R373) -/

/-- The clearing runs of pages: maximal runs of consecutive MiB. -/
def runsOf (n : Part) (rs : List (Nat × Nat)) : List ClearRun :=
  (joinRanges (rs.map (fun r => (r.1 / 256, r.2 / 256)))).map (fun m =>
    { part := n, startMiB := m.1, lenMiB := m.2 + 1 - m.1 })

/-- Clearings outstanding. -/
def clearingsOut (s : State) : Nat := (s.part.runs.filter (fun r => r.sent && !r.settled)).length

/-- Replace a run. -/
def setRun (r : ClearRun) (s : State) : State :=
  { s with part := { s.part with runs := s.part.runs.map (fun x =>
      if x.part = r.part ∧ x.startMiB = r.startMiB then r else x) } }

/-- SCRUB of one run to every memory controller under a fresh number (R371 step 5). -/
def sendRun (r : ClearRun) (s : State) : State :=
  let num := s.part.clearNumber + 1
  let us := memUnits s
  let s := { s with part := { s.part with clearNumber := num } }
  let data := BitVec.ofNat 128 ((r.startMiB * 2 ^ 20) * 2 ^ 64 + r.lenMiB * 2 ^ 32 + num.toNat)
  let s := us.foldl (fun s u => emit (.firebreak (some u) 6 data) s) s
  if us.isEmpty then setRun { r with number := num, sent := true, settled := true, cleared := true } s
  else setRun { r with number := num, waitingOn := us, sent := true, drewFailed := false } s

/-- Send what may be sent: at most 64 outstanding. -/
def sendRuns (s : State) : State :=
  s.part.runs.foldl (fun s r =>
    if !r.sent && !r.settled && clearingsOut s < 64 then sendRun r s else s) s

/-- Every run of n has settled: FREE or CLEAR_FAILED, and the job ends (R371 step 7). -/
def endClearing (n : Part) (s : State) : State :=
  let mine := s.part.runs.filter (fun r => r.part = n)
  let p := s.part.recs[n]
  if p.st ≠ .clearing || mine.any (fun r => !r.settled) then s
  else
    let failed := mine.filter (fun r => !r.cleared)
    let mib := ((mine.filter (·.cleared)).map (·.lenMiB)).sum
    let ws := wordsOf [p.swapAt, word (failed.length * 2 ^ 16 + mine.length), word mib]
    let s := { s with part := { s.part with runs := s.part.runs.filter (fun r => !(r.part = n && r.cleared)) } }
    let s := s.modPart n (fun x => if failed.isEmpty then {} else { x with st := .clearFailed, job := none })
    let s := if failed.isEmpty then s else raiseCore irqClearFailed s
    match p.job.bind s.job? with
    | some j => finishJob j (if failed.isEmpty then .ok else .fault) ws s
    | none => s

/-- Every clearing partition whose runs have settled ends. -/
def endClearings (s : State) : State := (indices 64).foldl (fun s n => endClearing n s) s

/-- Send more runs and end what has settled. -/
def pumpClearing (s : State) : State := endClearings (sendRuns s)

/-- A memory controller answers for a clearing number (R371 steps 5 and 6). -/
def scrubAnswer (u : Unit7) (number : BitVec 32) (ok : Bool) (s : State) : State :=
  match s.part.runs.find? (fun r => r.sent && !r.settled && r.number == number && r.waitingOn.contains u) with
  | none => s
  | some r =>
    let r := { r with waitingOn := r.waitingOn.filter (· != u), drewFailed := r.drewFailed || !ok }
    if !r.waitingOn.isEmpty then setRun r s
    else if !r.drewFailed then pumpClearing (setRun { r with settled := true, cleared := true } s)
    else if r.fails < 2 then pumpClearing (setRun { r with fails := r.fails + 1, sent := false } s)
    else
      let s := record { code := 0x0E03, part := BitVec.ofNat 8 r.part.val, object := word (r.startMiB * 2 ^ 20),
                        detail := leBytes 4 r.lenMiB } s
      pumpClearing (setRun { r with fails := r.fails + 1, settled := true } s)

/-- FB_SCRUB_DONE (R371). -/
def execFbScrubDone (u : Unit7) (number : BitVec 32) (s : State) : Host.Outcome State Fault Refusal :=
  fbAnswer (scrubAnswer u number true) s

/-- FB_SCRUB_FAILED (R371). -/
def execFbScrubFailed (u : Unit7) (number : BitVec 32) (s : State) : Host.Outcome State Fault Refusal :=
  fbAnswer (scrubAnswer u number false) s

/-- PART_CLEAR_RETRY starts. -/
def startClearRetry (j : Job) (s : State) : State :=
  let n := j.part
  match firstFail [
    (isHmb j.seat, .denied),
    (zeroFrom (j.w 0) 6, .badArgument),
    (operatorRight s j.seat, .denied),
    (partPower s && partLc s && s.part.recs[n].st == .clearFailed, .state)] with
  | some st => refuseJob j st s
  | none =>
    let again (r : ClearRun) : ClearRun :=
      if r.part = n then { r with fails := 0, sent := false, settled := false, drewFailed := false } else r
    let s := s.modPart n (fun x => { x with st := .clearing, job := some j.id })
    pumpClearing { s with part := { s.part with runs := s.part.runs.map again } }

/-- PART_CLEAR_RETRY (R373). -/
def execPartClearRetry (s : State) : Host.Outcome State Fault Refusal :=
  .next (runJob .partClearRetry true startClearRetry s)

/-! ## The swap (R368, R369) -/

/-- PART_SWAP starts. -/
def startSwap (j : Job) (s : State) : State :=
  let beat := if j.w 0 = 0 then lbeat s + 512 else (j.w 0).toNat
  match sessionChecks s j true (decide (lbeat s + 288 ≤ beat) && s.beat.mode == .locked) with
  | some st => refuseJob j st s
  | none =>
    match shadowFault s s.part.shadow with
    | some (c, i) => decideJob j .badArgument (wordsOf [0, word (c * 2 ^ 12 + i)]) s
    | none => askCrc { job := some j.id, beat := word beat } s

/-- PART_SWAP (R368). -/
def execPartSwap (s : State) : Host.Outcome State Fault Refusal := .next (runJob .partSwap true startSwap s)

/-- Firebreak digests after a swap, and G of each partition whose digest changed (R365, R369). -/
def newDigests (old : FbTable) (s : State) : State :=
  (indices 64).foldl (fun s n =>
    if partExists s n then
      let d := fbDigest s.part.active n
      let s := s.modPart n (fun r => { r with digest := d })
      if fbDigest old n = d then s else advanceG n s
    else s) s

/-- The effects of R369 at the swap beat, with step 4 of R371 for a teardown. -/
def adoptSwap (w : Swap) (s : State) : State :=
  let old := s.part.active
  let new := s.part.shadow
  let s := { s with part := { s.part with
    active := new, lastSwap := w.beat, session := none, swap := some { w with adopted := true } } }
  let s := freePlansOutside new (newDigests old s)
  match w.teardown with
  | none => s
  | some n =>
    let s := s.modPart n (fun r => { r with st := .clearing, swapAt := w.beat })
    pumpClearing { s with part := { s.part with runs := s.part.runs ++ runsOf n (pagesOf old n) } }

/-- Every unit has answered: the swap is complete (R368 step 6). -/
def completeSwap (s : State) : State :=
  match s.part.swap with
  | none => s
  | some w =>
    if !w.adopted || !allUnits s w.swapped then s
    else
      let s := { s with part := { s.part with swap := none } }
      match w.job.bind s.job? with
      | some j => finishJob j .ok (wordsOf [w.beat, word w.late]) s
      | none => s

/-- SWAP_BEAT (R369): the swap beat has come while LOCKED. -/
def execSwapBeat (s : State) : Host.Outcome State Fault Refusal :=
  .next (match s.part.swap with
    | some w =>
      if ctrlUp s && w.phase = .armed && !w.adopted && decide (w.beat.toNat ≤ lbeat s)
          && (s.beat.mode == .locked || !w.swapped.isEmpty) then completeSwap (adoptSwap w s)
      else s
    | none => s)

/-- A unit has swapped: at its first such answer Limcy adopts if it has not (R368 steps 5 and 6). -/
def unitSwapped (u : Unit7) (late : Bool) (beat : Word) (s : State) : State :=
  match s.part.swap with
  | none => s
  | some w =>
    if w.phase ≠ .armed || w.swapped.contains u || !(unitsPresent s).contains u then s
    else
      let w := { w with swapped := u :: w.swapped, late := if late then w.late + 1 else w.late }
      let s := { s with part := { s.part with swap := some w } }
      let s := if late then
          raiseCore irqSwapLate (record { code := 0x0E03, object := word u.val, detail := wordBytes beat } s)
        else s
      completeSwap (if w.adopted then s else adoptSwap w s)

/-- FB_SWAPPED (R368). -/
def execFbSwapped (u : Unit7) (beat : Word) (s : State) : Host.Outcome State Fault Refusal :=
  fbAnswer (unitSwapped u false beat) s

/-- FB_SWAPPED_LATE (R370). -/
def execFbSwappedLate (u : Unit7) (beat : Word) (s : State) : Host.Outcome State Fault Refusal :=
  fbAnswer (unitSwapped u true beat) s

/-! ## Teardown (R371) -/

/-- An entry of n becomes departed, without rights and flags. -/
def departEntry (n : Part) (e : FbEntry) : FbEntry :=
  if entryOf n e then
    BitVec.ofNat 128 (entryBase e * 2 ^ 84 + entryLast e * 2 ^ 52 + 4 * 2 ^ 49 + n.val * 2 ^ 43)
  else e

/-- Step 3: build the shadow and swap at LBEAT + 512. -/
def teardownSwap (n : Part) (s : State) : State :=
  let s := { s with part := { s.part with retryAt := none } }
  let s := loadShadow (s.part.active.map (fun e => (e.1, departEntry n e.2))) s
  askCrc { teardown := some n, beat := word (lbeat s + 512) } s

/-- Step 2: n ceases to exist. -/
def departPartition (n : Part) (job : Nat) (s : State) : State :=
  let s := s.modPart n (fun r => { r with st := .departed, job := some job, tokens := [] })
  let s := closeProf n 0xFF 5 s
  let s := clearIngest n (resetSeat (seatNo n.val) s)
  freeSeatSlots (seatNo n.val) (dropBoxes (seatNo n.val) s)

/-- PART_DESTROY starts. -/
def startDestroy (j : Job) (s : State) : State :=
  let n := j.part
  match firstFail [
    (isHmb j.seat, .denied),
    (zeroFrom (j.w 0) 6, .badArgument),
    (operatorRight s j.seat, .denied),
    (partPower s && partLc s && s.part.recs[n].st == .active && s.part.session.isNone && !shadowTaken s
      && s.beat.mode == .locked, .state)] with
  | some st => refuseJob j st s
  | none => teardownSwap n (departPartition n j.id s)

/-- PART_DESTROY (R371). -/
def execPartDestroy (s : State) : Host.Outcome State Fault Refusal := .next (runJob .partDestroy true startDestroy s)

/-- TEARDOWN_SWAP_RETRY (R371 step 3): the beat of the next try has come and the beat is LOCKED. -/
def execTeardownSwapRetry (s : State) : Host.Outcome State Fault Refusal :=
  .next (match s.part.retryAt with
    | some (n, b) =>
      if ctrlUp s && !engInReset s .part && s.beat.mode == .locked && decide (b.toNat ≤ lbeat s) then teardownSwap n s
      else s
    | none => s)

/-! ## Blocked writes (R375) -/

/-- BLOCKED_POLL (R375): every 2^16 beats. -/
def execBlockedPoll (s : State) : Host.Outcome State Fault Refusal :=
  .next (
    if ctrlUp s && decide (s.beat.lastPoll < lbeat s / 65536) then
      (departedOwners s.part.active).foldl (fun s n => readBlocked n s)
        { s with beat := { s.beat with lastPoll := lbeat s / 65536 } }
    else s)

/-- A unit's answer to the oldest READ_BLOCKED it has not answered. -/
def blockedAnswer (u : Unit7) (count : Nat) (s : State) : State :=
  match s.part.polls.find? (fun p => p.1 == u) with
  | none => s
  | some p => { s with part := { s.part with
      polls := s.part.polls.erase p, blocked := vmod s.part.blocked p.2 (fun b => satAdd b count) } }

/-- FB_BLOCKED_COUNT (R375). -/
def execFbBlockedCount (u : Unit7) (count : Word) (s : State) : Host.Outcome State Fault Refusal :=
  fbAnswer (blockedAnswer u count.toNat) s

/-! ## Evidence for a seat (R378) -/

/-- The partition of a PART_EVIDENCE: the seat's own, or the argument's. -/
def evPart (j : Job) : Part := if h : j.seat.val < 64 then ⟨j.seat.val, h⟩ else j.part

/-- The view is taken and AK0 signs at PKE: payload in `out`, creation number and generation in `num`. -/
def evidenceView (j : Job) (nonce : Bytes) (s : State) : State :=
  let n := evPart j
  if !evidenceOk s || !partExists s n then refuseJob j .state s
  else
    nestedPke { j with out := tokenPayload s n nonce (stampNow s), num := s.part.recs[n].created.toNat * 2 ^ 32 + s.part.recs[n].g.toNat } s

/-- PART_EVIDENCE starts. -/
def startEvidence (j : Job) (s : State) : State :=
  let len := j.f 2 0 7
  match firstFail [
    (j.seat.val < 64 || isHmb j.seat, .denied),
    (zeroFrom (j.w 0) 6 && zeroFrom (j.w 2) 7 && zeroFrom (j.w 4) 32 && decide (len ≤ 64)
      && (len == 0 || aligned64 (j.w 1)) && aligned64 (j.w 3), .badArgument),
    (partPower s && evidenceOk s && partExists s (evPart j), .state)] with
  | some st => refuseJob j st s
  | none => if len = 0 then evidenceView j [] s else fetchJob j (j.w 1) len s

/-- PART_EVIDENCE (R378). -/
def execPartEvidence (s : State) : Host.Outcome State Fault Refusal := .next (runJob .partEvidence true startEvidence s)

/-- Both signatures are made: the token goes to the output buffer if it fits (order 8). -/
def evidenceSigned (j : Job) (s : State) : State :=
  let lost := signingLost s
  let (token, s) := coseSign j.out s
  if lost then refuseJob { j with bn := .unused, lt := .unused } .state s
  else if j.f 4 0 32 < token.length then failJob { j with bn := .unused, lt := .unused } .badArgument s
  else
    let e := bvBytes (Config.sha3_384 token)
    let ew (k : Nat) : Word := word (getLe e (8 * k) 8)
    let ws := wordsOf [word token.length, ew 0, ew 1, ew 2, ew 3, ew 4, ew 5]
    settle (storeJob { j with out := token, bn := .unused, lt := .unused } (j.w 3) token .ok ws s)

/-- The token is written in full: E is recorded (R378) if the partition is still the one it describes. -/
def evidenceStored (j : Job) (st : Status) (ws : Words) (s : State) : State :=
  let n := evPart j
  decideJob j st ws (if s.part.recs[n].created.toNat = j.num / 2 ^ 32 then
    recordToken n j.out (BitVec.ofNat 32 j.num) s else s)

/-! ## The crash dump (R406) -/

/-- A source range lies in readable entries of n. -/
def dumpSource (s : State) (n : Part) (addr len : Nat) : Bool :=
  let es := (entriesOf s.part.active n).filter entryRead
  let lo := addr / 4096
  let hi := (addr + len - 1) / 4096
  decide (hi < es.foldl (fun at' e => if entryBase e ≤ at' && at' ≤ entryLast e then entryLast e + 1 else at') lo)

/-- Read the next 4 KiB of a dump with stamp n. -/
def dumpRead (j : Job) (s : State) : State :=
  issue { obo := BitVec.ofNat 8 j.part.val, addr := j.w 1 + word j.num, len := 4096, owner := .job j.id }
    (setJob { j with stage := .fetch } s)

/-- REC_DUMP_READ starts. -/
def startDump (j : Job) (s : State) : State :=
  let n := j.part
  let len := j.f 3 0 27
  match firstFail [
    (isHmb j.seat, .denied),
    (zeroFrom (j.w 0) 6 && zeroFrom (j.w 3) 27 && decide (4096 ≤ len) && decide (len ≤ 0x4000000) && len % 4096 == 0
      && (j.w 1).toNat % 4096 == 0 && aligned64 (j.w 2), .badArgument),
    (operatorRight s j.seat && !(partExists s n && s.part.recs[n].conf), .denied),
    (partPower s && s.lc.state != lcScrapped && partExists s n, .state)] with
  | some st => refuseJob j st s
  | none =>
    if !dumpSource s n (j.w 1).toNat len then failJob j .badArgument s
    else
      dumpRead j (record { code := 0x1001, seat := stampOf j.seat, part := BitVec.ofNat 8 n.val,
                           opcode := opcodeOf .recDumpRead, object := j.w 1, detail := leBytes 4 len } s)

/-- REC_DUMP_READ (R406). -/
def execRecDumpRead (s : State) : Host.Outcome State Fault Refusal := .next (runJob .recDumpRead true startDump s)

/-- 4 KiB have been read: they go to the requester's buffer. -/
def dumpFetched (j : Job) (b : Bytes) (s : State) : State :=
  jobWrite j (j.w 2 + word j.num) (padTo 4096 b) (setJob { j with stage := .engine } s)

/-- 4 KiB have been written: the dump ends, stops because n has ceased or lost the source, or goes on. -/
def dumpStored (j : Job) (s : State) : State :=
  let j := { j with num := j.num + 4096 }
  let len := j.f 3 0 27
  let ws := wordsOf [word j.num]
  if len ≤ j.num then decideJob j .ok ws s
  else if !partExists s j.part then decideJob j .state ws s
  else if !dumpSource s j.part ((j.w 1).toNat + j.num) (len - j.num) then decideJob j .badArgument ws s
  else dumpRead j s

/-! ## Registers (R395) -/

/-- PART_STATUS (Table 12-20). -/
def partStatus (s : State) : Word :=
  let p := s.part
  let shadow := match p.swap with
    | some w => if w.phase = .armed then 3 else 2
    | none => if p.session.isSome then 1 else 0
  let seat := match p.session with
    | some n => n.val
    | none => 0
  word (clearingsOut s * 2 ^ 56 + (unitsPresent s).length * 2 ^ 48 + bit p.session.isSome * 2 ^ 40 + seat * 2 ^ 32 + shadow)

/-- Bits of the partitions that satisfy a test. -/
def partBits (s : State) (f : PartRec → Bool) : Nat :=
  (indices 64).foldl (fun a n => if f s.part.recs[n] then a + 2 ^ n.val else a) 0

/-- PartState codes (Table 12-1). -/
def PartState.code : PartState → Nat
  | .free => 0 | .active => 1 | .departed => 2 | .clearing => 3 | .clearFailed => 4

/-- PART_INFOn (Table 12-22). -/
def partInfo (s : State) (n : Part) : Word :=
  let r := s.part.recs[n]
  word (r.created.toNat * 2 ^ 32 + bit (quarantined s n) * 2 ^ 7 + bit r.conf * 2 ^ 6 + r.st.code)

/-- Codes of PART_GROVE.STATE. -/
def GrovePhase.code : GrovePhase → Nat
  | .idle => 0 | .notifying => 1 | .waiting => 2 | .building => 3

/-- PART_GROVE (Table 12-22). -/
def partGrove (p : Partitions) : Word :=
  word (p.groveNumber.toNat * 2 ^ 32 + p.grovePresent.toNat * 2 ^ 15 + bit p.armed.isSome * 2 ^ 4 + p.grovePhase.code)

/-- The bits of a bitmap that a seat sees. -/
def seatBits (n : Seat) (v : Nat) : Word := if n.val < 64 then word v &&& word (2 ^ n.val) else word v

/-- Value of a PART register for a seat (Tables 12-19 to 12-22); seats other than 64 to 66 and the partition's own
see zero. PART_BLOCKEDn is read by its own command. -/
def readPart (n : Seat) (off : Nat) (s : State) : Word :=
  let full := isHmb n
  let own (k : Nat) : Bool := full || n.val == k
  match off with
  | 0x00 => if full then partStatus s else 0
  | 0x08 => if full || n.val < 64 then seatBits n (partBits s (fun r => r.st == .active)) else 0
  | 0x10 => if full || n.val < 64 then seatBits n (partBits s (fun r => r.st == .active && r.conf)) else 0
  | 0x18 => if full then (match s.part.swap with
      | some w => if w.phase = .armed && !w.adopted then w.beat else 0
      | none => 0) else 0
  | 0x20 => if full then s.part.lastSwap else 0
  | 0x28 => if full then (tableCrc s.part.active).zeroExtend 64 else 0
  | 0x30 => if full then partGrove s.part else 0
  | _ =>
    if 0x100 ≤ off ∧ off < 0x300 then
      let k := (off - 0x100) / 8
      if own k then partInfo s (Fin.ofNat 64 k) else 0
    else if 0x300 ≤ off ∧ off < 0x500 then
      let k := (off - 0x300) / 8
      if own k then (s.part.blocked[(Fin.ofNat 64 k : Part)]).zeroExtend 64 else 0
    else 0

/-- A read of PART_BLOCKEDn clears it (R14). -/
def clearBlocked (n : Part) (s : State) : State :=
  { s with part := { s.part with blocked := vset s.part.blocked n 0 } }

end Sys2Proof.Machine
end

