-- ==== Sys2Proof/Machine/Grove.lean ====
section
/-! DEFINITION. Grove attestation (R388 to R393): notices and the member's contribution, and the aggregator's
collection with its statement. -/

namespace Sys2Proof.Machine

/-! ## The member (R389, R390) -/

/-- A notice is ignored and recorded. -/
def ignoreNotice (number : BitVec 32) (s : State) : State :=
  record { code := 0x0E03, seat := stampOf peer, object := number.zeroExtend 64 } s

/-- A notice arms, or is ignored and recorded (R389). -/
def armNotice (a : GroveArmed) (s : State) : State :=
  let lc := s.lc.state
  if s.part.armed.isSome || decide (a.beat.toNat < lbeat s + 16) || lc == lcBlank || lc == lcReturned
      || lc == lcScrapped || s.keys.held || !s.keys.l0Done then ignoreNotice a.number s
  else { s with part := { s.part with armed := some a } }

/-- The notice that the eight words hold (Table 12-15). -/
def noticeOfWords (w : Vector Word 8) : GroveArmed :=
  { beat := w[0], addr := w[1], position := BitVec.ofNat 16 (fld w[2] 32 16), number := BitVec.ofNat 32 (fld w[2] 0 32),
    aggregator := w[3], nonce := wordBytes w[4] ++ wordBytes w[5] ++ wordBytes w[6] ++ wordBytes w[7] }

/-- A write of PART_GROVE_INk by a seat: only seat 67 writes, and word 7 arms (R389). -/
def writeGroveIn (n : Seat) (k : Fin 8) (data : Word) (s : State) : State :=
  if n ≠ peer then s
  else
    let s := { s with part := { s.part with groveIn := vset s.part.groveIn k data } }
    if k = 7 then armNotice (noticeOfWords s.part.groveIn) s else s

/-- The contribution record (Table 12-16). -/
def contribution (s : State) (a : GroveArmed) (t : Stamp) (payload sigs : Bytes) : Bytes :=
  padTo 192 ([0x4D#8, 0x01#8] ++ leBytes 2 a.position.toNat ++ leBytes 4 a.number.toNat ++ wordBytes (serial s)
    ++ stampBytes t ++ List.replicate 12 0 ++ devIdDigest s ++ bvBytes (Config.sha3_384 payload)
    ++ bvBytes (Config.sha3_384 sigs))

/-- Beat B has come: the member states its view and contributes; without its keys or PKE it cannot. -/
def contribute (a : GroveArmed) (s : State) : State :=
  if pkeOut s || digOut s || s.keys.held || !s.keys.l0Done then
    ignoreNotice a.number { s with part := { s.part with armed := none } }
  else
    let t := stampNow s
    let payload := memberPayload s a t
    let (sigs, s) := coseSignatures payload s
    let message := some (coseMessage payload sigs)
    let s := { s with part := { s.part with armed := some { a with sent := true }, lastStatement := message } }
    issue { write := true, addr := a.addr, len := 192, data := contribution s a t payload sigs,
            owner := .contribution } s

/-- The contribution has been written, or has received an error: the notice is disarmed (R390). -/
def contributed (s : State) : State :=
  match s.part.armed with
  | some a => if a.sent then { s with part := { s.part with armed := none } } else s
  | none => s

/-- GROVE_COLLECTION_BEAT (R390): LBEAT has reached B. -/
def execGroveCollectionBeat (s : State) : Host.Outcome State Fault Refusal :=
  .next (match s.part.armed with
    | some a => if ctrlUp s && !a.sent && decide (a.beat.toNat ≤ lbeat s) then contribute a s else s
    | none => s)

/-! ## The aggregator (R388, R392, R393) -/

/-- A member list entry (Table 12-14). -/
structure Member where
  position : Nat
  aperture : Word
  digest : Bytes
  deriving DecidableEq, Repr

/-- Entry k of a member list. -/
def memberAt (b : Bytes) (k : Nat) : Member :=
  let e := slice b (64 * k) 64
  { position := getLe e 0 2, aperture := word (getLe e 8 8), digest := slice e 16 48 }

/-- The entries of a member list. -/
def members (b : Bytes) (count : Nat) : List Member := (List.range count).map (memberAt b)

/-- Some position repeats. -/
def repeats : List Nat → Bool
  | [] => false
  | p :: ps => ps.contains p || repeats ps

/-- The list's layout: reserved bytes zero, no position repeated. -/
def listOk (b : Bytes) (count : Nat) : Bool :=
  (List.range count).all (fun k => getLe b (64 * k + 2) 6 == 0)
    && !repeats ((members b count).map (·.position))

/-- The inbox lies within one entry of KIND Limcy with LINK. -/
def inboxOk (s : State) (base count : Nat) : Bool :=
  s.part.active.any (fun e => entryKind e.2 == 3 && entryLink e.2 && decide (entryBase e.2 ≤ base / 4096)
    && decide ((base + 192 * count - 1) / 4096 ≤ entryLast e.2))

/-- PART_GROVE_COLLECT starts: the member list is read. -/
def startCollect (j : Job) (s : State) : State :=
  let count := j.f 1 0 17
  match firstFail [
    (isHmb j.seat, .denied),
    (zeroFrom (j.w 1) 17 && zeroFrom (j.w 4) 32 && decide (1 ≤ count) && decide (count ≤ 65536)
      && aligned64 (j.w 0) && aligned64 (j.w 2) && aligned64 (j.w 3) && aligned64 (j.w 5), .badArgument),
    (operatorRight s j.seat, .denied),
    (partPower s && evidenceOk s && s.part.collection.isNone
      && !s.jobs.any (fun x => x.op == .partGroveCollect && x.id != j.id && x.stage == .fetch), .state)] with
  | some st => refuseJob j st s
  | none => fetchJob j (j.w 0) (64 * count) s

/-- PART_GROVE_COLLECT (R392). -/
def execPartGroveCollect (s : State) : Host.Outcome State Fault Refusal :=
  .next (runJob .partGroveCollect true startCollect s)

/-- A buffer of a collection has been read: the list, then the nonce; then the inbox is zeroed. -/
def collectFetched (j : Job) (b : Bytes) (s : State) : State :=
  let count := j.f 1 0 17
  if j.num = 0 then
    if !listOk b count then failJob j .badArgument s
    else fetchJob { j with got := b, num := 1 } (j.w 5) 32 s
  else if !inboxOk s (j.w 2).toNat count then failJob j .badArgument s
  else
    let c : Collection := { job := j.id, list := j.got, count := count, inbox := j.w 2, beat := 0, nonce := padTo 32 b }
    let s := { s with part := { s.part with collection := some c, grovePhase := .notifying } }
    issue { write := true, addr := j.w 2, len := 192 * count, data := List.replicate (192 * count) 0,
            owner := .inboxZero } (setJob { j with stage := .engine } s)

/-- The notice to member i of a collection (Table 12-15). -/
def noticeBytes (s : State) (c : Collection) (number : BitVec 32) (i : Nat) (m : Member) : Bytes :=
  wordBytes c.beat ++ wordBytes (c.inbox + word (192 * i)) ++ leBytes 4 number.toNat ++ leBytes 2 m.position ++ [0, 0]
    ++ wordBytes (serial s) ++ padTo 32 c.nonce

/-- Notify member i: the own device is armed locally, any other gets a notice. -/
def notifyMember (c : Collection) (number : BitVec 32) (i : Nat) (s : State) : State :=
  let m := memberAt c.list i
  if m.digest = devIdDigest s then
    armNotice { beat := c.beat, addr := c.inbox + word (192 * i), position := BitVec.ofNat 16 m.position,
                number := number, aggregator := serial s, nonce := padTo 32 c.nonce } s
  else
    issue { write := true, addr := m.aperture + 0x10040, len := 64, data := noticeBytes s c number i m,
            owner := .groveNotice m.position } s

/-- The inbox is zero: the collection number and B are set and the notices go out (R392). -/
def inboxZeroed (s : State) : State :=
  match s.part.collection with
  | none => s
  | some c =>
    let number := s.part.groveNumber + 1
    let c := { c with beat := word (lbeat s + 4096 + 2 * c.count) }
    let s := { s with part := { s.part with collection := some c, groveNumber := number } }
    let s := (List.range c.count).foldl (fun s i => notifyMember c number i s) s
    { s with part := { s.part with grovePhase := .waiting } }

/-- GROVE_WAIT_END (R392): LBEAT has reached B + 65,536 and the inbox is read. -/
def execGroveWaitEnd (s : State) : Host.Outcome State Fault Refusal :=
  .next (match s.part.collection with
    | some c =>
      if ctrlUp s && s.part.grovePhase = .waiting && decide (c.beat.toNat + 65536 ≤ lbeat s) then
        issue { addr := c.inbox, len := 192 * c.count, owner := .inboxRead }
          { s with part := { s.part with grovePhase := .building } }
      else s
    | none => s)

/-- Status of a member by its inbox record (R392). -/
def memberStatus (c : Collection) (number : BitVec 32) (m : Member) (r : Bytes) : Nat :=
  if r.all (· == 0) then 2
  else if r.take 2 != [0x4D#8, 0x01#8] || getLe r 2 2 != m.position || getLe r 4 4 != number.toNat then 4
  else if slice r 40 48 != m.digest then 3
  else if getLe r 16 8 == c.beat.toNat && getLe r 24 4 / 2 ^ 30 == 3 then 0
  else 1

/-- An empty grove subtree of depth d (R335). -/
def emptyTree : Nat → BitVec 384
  | 0 => Config.sha3_384 (0x47#8 :: List.replicate 48 0)
  | d + 1 => Config.sha3_384 (0x48#8 :: bvBytes (emptyTree d) ++ bvBytes (emptyTree d))

/-- The grove subtree of depth d over members by position. -/
def groveTree : Nat → List (Nat × Bytes) → BitVec 384
  | 0, [] => emptyTree 0
  | 0, e :: _ => Config.sha3_384 (0x47#8 :: e.2)
  | d + 1, es =>
    if es.isEmpty then emptyTree (d + 1)
    else Config.sha3_384 (0x48#8 :: bvBytes (groveTree d (es.filter (fun e => !e.1.testBit d)))
      ++ bvBytes (groveTree d (es.filter (fun e => e.1.testBit d))))

/-- One element of key 20. -/
def memberElement (c : Collection) (number : BitVec 32) (inbox : Bytes) (i : Nat) : Bytes :=
  let m := memberAt c.list i
  let r := slice inbox (192 * i) 192
  let st := memberStatus c number m r
  let root (at' : Nat) : Bytes := if st ≤ 1 then slice r at' 48 else []
  cborArray [cborUint m.position, cborBytes m.digest, cborBytes (root 88), cborBytes (root 136), cborUint st,
    cborUint (getLe r 24 4)]

/-- The list indices in ascending position. -/
def byPosition (c : Collection) : List Nat :=
  (List.range c.count).mergeSort (fun a b => decide ((memberAt c.list a).position ≤ (memberAt c.list b).position))

/-- The payload of the grove statement (R393). -/
def grovePayload (s : State) (c : Collection) (inbox : Bytes) : Bytes :=
  let number := s.part.groveNumber
  let tree := groveTree 16 ((members c.list c.count).map (fun m => (m.position, m.digest)))
  cborKeyed [(1, cborUint 1), (2, cborBytes c.nonce), (3, cborStamp (stampNow s)), (4, evDevice s),
    (17, cborUint number.toNat), (18, cborUint c.beat.toNat), (19, cborBytes (bvBytes tree)),
    (20, cborArray ((byPosition c).map (memberElement c number inbox)))]

/-- The collection is over. -/
def endCollection (s : State) : State := { s with part := { s.part with collection := none, grovePhase := .idle } }

/-- The inbox has been read: the members are judged and the statement goes to PKE for its signatures. -/
def inboxJudged (inbox : Bytes) (s : State) : State :=
  match s.part.collection with
  | none => s
  | some c =>
    let here (i : Nat) : Bool :=
      decide (memberStatus c s.part.groveNumber (memberAt c.list i) (slice inbox (192 * i) 192) ≤ 1)
    let n := ((List.range c.count).filter here).length
    match s.job? c.job with
    | none => endCollection s
    | some j =>
      if !evidenceOk s then endCollection (refuseJob j .state s)
      else nestedPke { j with out := grovePayload s c inbox, num := n } s

/-- The statement is signed: it is written if it fits (order 8). -/
def collectSigned (j : Job) (s : State) : State :=
  let j := { j with bn := .unused, lt := .unused }
  let beat := match s.part.collection with
    | some c => c.beat
    | none => 0
  let lost := signingLost s
  let (m, s) := coseSign j.out s
  let s := endCollection s
  if lost then refuseJob j .state s
  else if j.f 4 0 32 < m.length then failJob j .badArgument s
  else
    let s := { s with part := { s.part with grovePresent := BitVec.ofNat 17 j.num } }
    settle (storeJob { j with out := m } (j.w 3) m .ok
      (wordsOf [word m.length, word j.num, beat, s.part.groveNumber.zeroExtend 64]) s)

/-- A collection's job ends otherwise than by its statement. -/
def dropCollection (id : Nat) (s : State) : State :=
  match s.part.collection with
  | some c => if c.job = id then endCollection s else s
  | none => s

end Sys2Proof.Machine
end

