-- ==== Sys2Proof/Machine/Power.lean ====
section
/-! DEFINITION. Power states and transitions (R46 to R51), the quarantine of STRM (R39 to R41), supplies (R60) and
sensors (R92, R93). -/

namespace Sys2Proof.Machine

/-! ## Quarantine of STRM -/

/-- Every ING job of a seat that waits in its queue completes with ST_FAULT (R39). -/
def failQueuedIng (n : Seat) (s : State) : State :=
  (indices 8).foldl (fun s e =>
    if ((s.seat n).entries[entryIx .ing e]).st = .queued then
      raiseFault n faultStrm (postEntry n .ing e .fault noWords s)
    else s) s

/-- Every started ING job completes with ST_FAULT; loads leave their plans FAILED (R39, Table 11-8). -/
def failStartedIng (s : State) : State :=
  let mine := s.jobs.filter (fun j => j.cls == .ing)
  let s := mine.foldl (fun s j => finishJob j .fault noWords s) (failAllLoads s)
  (mine.filter (fun j => !j.detached)).foldl (fun s j => raiseFault j.seat faultStrm s) s

/-- Units of work of STRM. -/
def strmUnit : UnitOwner → Bool
  | .chunk _ _ | .chunkAgain _ _ _ | .leaf _ _ | .sweepLeaf => true
  | .pke _ _ | .digJob _ | .digDrain _ | .otpRead _ => false

/-- STRM is isolated and powered down. -/
def strmOff (s : State) : State := { s with pins := { s.pins with pwrStrmReq := false, isoStrm := true } }

/-- A transition to Full stops; the POWER_SET that asked for it ends with ST_FAULT (R60, Table 1-8). -/
def stopToFull (s : State) : State :=
  let t := s.core.toFull
  let s := { s with core := { s.core with toFull := none } }
  match t.bind (fun t => t.job) with
  | none => s
  | some id =>
    match s.job? id with
    | some j => finishJob j .fault noWords s
    | none => s

/-- What a quarantine ends: every ING job, load, sweep pass and re-test, and the units of STRM (R39, R354). -/
def dropStrm (s : State) : State :=
  dropUnits strmUnit (abandonPass (failRetests .ing ((indices 68).foldl (fun s n => failQueuedIng n s) (failStartedIng s))))

/-- STRM is marked quarantined, isolated and unpowered; Full becomes Control (R39, Table 1-8). -/
def markQuarantine (s : State) : State :=
  strmOff { s with
    ing := { s.ing with hbm := [], stale := 0 },
    core := { s.core with
      strmQuar := true, power := if s.core.power = .full then .control else s.core.power,
      engReset := s.core.engReset &&& ~~~(BitVec.ofNat 9 (2 ^ engineNum .ing)) } }

/-- A quarantine is recorded in both logs and raised; a transition to Full stops (R39, R60). -/
def noteQuarantine (cause : Nat) (s : State) : State :=
  raiseCore irqStrmQuar
    (hwNote 0x0030 (leBytes 1 cause) (record { code := 0x0401, detail := leBytes 1 cause } (stopToFull s)))

/-- The quarantine (R39 to R41, Table 1-8). Causes: 1 bus or clock error, 2 escalation, 3 pwr_strm_good lost,
4 vs_strm limit. -/
def quarantineStrm (cause : Nat) (s : State) : State :=
  if s.core.strmQuar || s.core.fatal then s else noteQuarantine cause (markQuarantine (dropStrm s))

/-- STRM is powered: its supply is requested and in range. -/
def strmPowered (s : State) : Bool := s.pins.pwrStrmReq && s.pins.pwrStrmGood

/-- STRM_DOMAIN_FAULT (R38, R39): an uncorrectable bus or clock error while STRM is powered or powering up. -/
def execStrmDomainFault (s : State) : Host.Outcome State Fault Refusal :=
  .next (if ctrlUp s && s.pins.pwrStrmReq then quarantineStrm 1 s else s)

/-! ## POWER_SET (Table 1-10, R439) -/

/-- Any job other than this one is queued or started. -/
def otherWork (s : State) (id : Nat) : Bool :=
  s.jobs.any (fun j => j.id != id)
    || (indices 68).any (fun n => (indices 32).any (fun i => ((s.seat n).entries[i]).st == .queued))

/-- Any ING job is queued or started. -/
def ingWork (s : State) : Bool :=
  s.jobs.any (fun j => j.cls == .ing)
    || (indices 68).any (fun n => (indices 8).any (fun e => ((s.seat n).entries[entryIx .ing e]).st == .queued))

/-- A torus link holds a session key. -/
def linkKeyed (s : State) : Bool := (indices 6).any (fun k => hasSecret s k || (s.link k).next.isSome)

/-- The row of Table 1-10 for a target state admits the transition. -/
def powerAdmitted (s : State) (j : Job) (target : Nat) : Bool :=
  match target with
  | 3 => !s.core.strmQuar
  | 2 => !ingWork s && !(engineCells .ing).any (fun c => s.cells[c].retest.isSome)
  | _ => !(indices 64).any (fun n => partExists s n && s.part.recs[n].conf) && s.lc.level != 3 && !linkKeyed s
      && !otherWork s j.id && s.recd.creset.phase == 0 && otpFree s

/-- The code of a power state (Table 1-12). -/
def Power.code : Power → Nat
  | .full => 3 | .control => 2 | .watch => 1 | .off => 0

/-- Full to Control (Table 1-11). -/
def leaveFull (s : State) : State :=
  let s := abandonPass s
  strmOff { s with ing := { s.ing with stale := 0, hbm := [] }, core := { s.core with power := .control } }

/-- What entry to Watch ends and zeroizes (R50, R199, R232, R297, R385, Tables 6-11, 10-7, 12-30). -/
def zeroForWatch (s : State) : State :=
  let s := [host, mgmt, bmc].foldl (fun s n =>
    modAuth n (fun a => { a with roleNonce := none, consentNonce := none }) (endRole n 3 s)) s
  let s := closeOper 0xFF 3 s
  let s := (indices 64).foldl (fun s n => closeProf n 0xFF 3 s) s
  let s := freeAllMsgs (zeroAllModelKeys (zeroizeStore s))
  { s with
    dig := { s.dig with wrapped := [] },
    pke := { s.pke with window := [], curves := Vector.replicate 8 {} },
    keys := { s.keys with
      root0 := [], root1 := [], rootLoaded := false, l0Done := false, l1Done := false,
      links := s.keys.links.map (fun l => { l with exch := none, reading := false, frame := none }) },
    part := { s.part with
      armed := none, sessions := [] } }

/-- To Watch (Table 1-11): the job posts, then CTRL enters retention with its interrupt lines held (R433). From Full,
STRM is powered down first: the table has no direct transition. -/
def enterWatch (j : Job) (s : State) : State :=
  let s := if s.core.power = .full then leaveFull s else s
  let s := zeroForWatch (finishJob j .ok noWords s)
  let parts := (indices 64).foldl
    (fun a n => if isPending (s.seat (seatNo n.val)) then a + 2 ^ n.val else a) 0
  { s with core := { s.core with
             power := .watch,
             irqHeld := (isPending (s.seat host), isPending (s.seat mgmt), BitVec.ofNat 64 parts) },
           pins := { s.pins with pwrCtrlReq := 0b01 } }

/-- POWER_SET starts. -/
def startPowerSet (j : Job) (s : State) : State :=
  let t := j.f 0 0 2
  let lc := s.lc.state
  match firstFail [
    (isHmb j.seat, .denied),
    (zeroFrom (j.w 0) 2 && t != 0, .badArgument),
    (operatorRight s j.seat, .denied),
    (lc == lcIntegration || lc == lcFielded || lc == lcReturned, .state),
    (s.core.toFull.isNone, .state)] with
  | some st => refuseJob j st s
  | none =>
    if t = s.core.power.code then decideJob j .ok noWords s
    else if !powerAdmitted s j t then refuseJob j .state s
    else
      match t with
      | 3 => beginFull (some j.id) s
      | 2 => decideJob j .ok noWords (leaveFull s)
      | _ => enterWatch j s

/-- POWER_SET (R48). -/
def execPowerSet (s : State) : Host.Outcome State Fault Refusal := .next (runJob .powerSet true startPowerSet s)

/-- STRM power is good: clocks start, the lanes are tested, and ING accepts jobs (Table 1-11). -/
def enterFull (cellsFailed : List Cell) (s : State) : State :=
  let t := s.core.toFull
  let s := { s with pins := { s.pins with pwrStrmGood := true, isoStrm := false } }
  let lanes := cellsFailed.filter (fun c => cellEngine c == .ing)
  let s := freshCells .ing (retireCells (lanes.filter (healthy s)) 2 s)
  let s := { s with core := { s.core with toFull := none, power := .full }, ing := { s.ing with cellsSet := true } }
  match t.bind (fun t => t.job) with
  | none => s
  | some id =>
    match s.job? id with
    | some j => finishJob j .ok noWords s
    | none => s

/-- PWR_STRM_GOOD_RISE (R49, R60). Outside a transition to Full only the pin changes. -/
def execPwrStrmGoodRise (cellsFailed : List Cell) (s : State) : Host.Outcome State Fault Refusal :=
  .next (if ctrlUp s && s.core.toFull.isSome then enterFull cellsFailed s
         else { s with pins := { s.pins with pwrStrmGood := true } })

/-- Input number of pwr_strm_good in its event record, after the seven sensor inputs (assumption entry 25). -/
def strmGoodObject : Word := 7

/-- The supply has not come good 100 µs after pwr_strm_req rose. -/
def timedOut (s : State) : State :=
  let due := (s.core.toFull.map (fun t => t.since)).getD 0 + 100 * Config.microsecond
  stopToFull (record { code := 0x0F03, object := strmGoodObject } (strmOff { s with now := max s.now due }))

/-- PWR_STRM_TIMEOUT (R60): the supply did not come good within 100 µs. -/
def execPwrStrmTimeout (s : State) : Host.Outcome State Fault Refusal :=
  .next (if ctrlUp s && s.core.toFull.isSome then
           timedOut s
         else s)

/-- PWR_STRM_GOOD_LOSS (R60): a domain fault while the supply is requested. -/
def execPwrStrmGoodLoss (s : State) : Host.Outcome State Fault Refusal :=
  let was := strmPowered s
  let s := { s with pins := { s.pins with pwrStrmGood := false, isoStrm := true } }
  .next (if was && ctrlUp s then quarantineStrm 3 s else s)

/-- PWR_CTRL_GOOD_LOSS (R60): a core fault while CTRL is requested on or in retention. -/
def execPwrCtrlGoodLoss (s : State) : Host.Outcome State Fault Refusal :=
  let s := { s with pins := { s.pins with pwrCtrlGood := false } }
  .next (if s.pins.pwrCtrlReq != 0 && s.pins.porAonN then coreFault 0x07 s else s)

/-! ## Wake from Watch (R49, R53) -/

/-- Watch to Control: retention ends, the root slots are sensed and the keys derived again, what arose in Watch is
recorded, and a trial that expired in Watch is returned before any seat job starts (R226, R260, R408). -/
def wakeCore (s : State) : State :=
  let s := { s with core := { s.core with power := .control }, pins := { s.pins with pwrCtrlReq := 0b11 } }
  let s := startKeys s
  let s := freshContextKey (if s.boot.running.isSome then imageKeys s else s)
  let s := flushWatch s
  if s.boot.expiredWake then trialReturn s else s

/-! ## Sensors (R92, R93, R427) -/

/-- Distance of a voltage from its nominal value, in mV. -/
def offNominal (nominal : Nat) (v : BitVec 16) : Nat := (nominal - v.toNat) + (v.toNat - nominal)

/-- Degrees above zero, in half degrees. -/
def warmth (t : BitVec 16) : Nat := t.toInt.toNat

/-- What a sample holds for each of the seven inputs: distance or warmth, compared with its thresholds. -/
def sampled (v : Samples) : Vector Nat 7 :=
  #v[offNominal 750 v.vaon, offNominal 700 v.vctrl, offNominal 720 v.vstrm, warmth v.t0, warmth v.t1, warmth v.t2,
     warmth v.t3]

/-- The reading as it is recorded. -/
def reading (v : Samples) (i : Fin 7) : BitVec 16 :=
  (#v[v.vaon, v.vctrl, v.vstrm, v.t0, v.t1, v.t2, v.t3])[i]

/-- The threshold of an input: warning, or limit. -/
def threshold (s : State) (i : Fin 7) (limit : Bool) : Nat :=
  s.boot.cfg.thresholds[Fin.ofNat 14 (2 * i.val + bit limit)]

/-- An input is sampled: vs_strm only while STRM is powered (R427). -/
def inputSampled (s : State) (i : Fin 7) : Bool := i != 2 || strmPowered s

/-- A warning of an input: one event record per 2^16 beats, with its WARN bit. -/
def warnInput (v : Samples) (s : State) (i : Fin 7) : State :=
  let due := match s.core.lastWarn[i] with
    | none => true
    | some b => decide (lbeat s < b) || decide (65536 ≤ lbeat s - b)
  if inputSampled s i && decide (threshold s i false < (sampled v)[i]) && due then
    let s := { s with core := { s.core with lastWarn := vset s.core.lastWarn i (some (lbeat s)) } }
    raiseCore i.val (record { code := 0x0F03, object := word i.val, detail := leBytes 2 (reading v i).toNat } s)
  else s

/-- Consecutive samples of an input beyond its limit. -/
def countLimit (v : Samples) (s : State) (i : Fin 7) : State :=
  let beyond := inputSampled s i && decide (threshold s i true < (sampled v)[i])
  { s with core := { s.core with
    overLimit := vset s.core.overLimit i (if beyond then s.core.overLimit[i] + 1 else 0) } }

/-- The action of an input at its limit, on two consecutive samples beyond it (Table 2-16). The next action needs two
more (assumption entry 28). -/
def limitAction (s : State) (i : Fin 7) : State :=
  if s.core.overLimit[i] < 2 then s
  else
    let s := { s with core := { s.core with overLimit := vset s.core.overLimit i 0 } }
    if i = 2 then (if ctrlUp s then quarantineStrm 4 s else s) else coreFault 0x08 s

/-- A sample of every sensor input. -/
def sensorSample (v : Samples) (s : State) : State :=
  let s := { s with core := { s.core with
    vpp := v.vpp, vaon := v.vaon, vctrl := v.vctrl, vstrm := if strmPowered s then v.vstrm else 0,
    temps := #v[v.t0, v.t1, v.t2, v.t3] } }
  let s := if vppOk s v.vpp then s else supplyLost s
  let s := (indices 7).foldl (warnInput v) s
  (indices 7).foldl limitAction ((indices 7).foldl (countLimit v) s)

/-- SENSOR_SAMPLE (R92): AON samples in every power state but Off. -/
def execSensorSample (v : Samples) (s : State) : Host.Outcome State Fault Refusal :=
  .next (if aonUp s then sensorSample v s else s)

end Sys2Proof.Machine
end

