-- ==== Sys2Proof/Machine/OtpDone.lean ====
section
/-! DEFINITION. The OTP command path: who is told of a burn's end, the next burn, pulses (R175 to R177), and the job
rows that use the path; acknowledgements on the key delivery bus. -/

namespace Sys2Proof.Machine

/-- OTP_CTR_ADVANCE ends (R181); an operator whose epoch counter 16 has passed lapses (R200). -/
def endCtrAdvance (j : Job) (e : BurnEnd) (s : State) : State :=
  settleOperators (otpDecide j e.status (wordsOf [word (ctrLive s (j.f 0 0 5))]) s)

/-- A job's burn has ended. -/
def jobBurned (j : Job) (e : BurnEnd) (s : State) : State :=
  match j.op with
  | .otpProgram =>
    let a := j.f 0 0 12
    let s := endOtpProgram j e s
    if 0x280 ≤ a ∧ a ≤ 0x285 then settleClaims s else s
  | .otpLock => endOtpLock j e s
  | .otpRepair => endOtpRepair j e s
  | .otpCtrAdvance => endCtrAdvance j e s
  | .lcTransition => transitionBurned j e s
  | .lcDebugPolicy => policyBurned j e s
  | .keysRootProvision => endRootProvision j e s
  | .bootConfigCommit => commitBurned j e s
  | _ => s

/-- Tell the owner of a burn that it has ended. -/
def burnEnded (e : BurnEnd) (s : State) : State :=
  match e.owner with
  | .job id =>
    match s.job? id with
    | some j => jobBurned j e s
    | none => s
  | .confirm => confirmBurned e s
  | .start => s

/-- The owner of a burn still wants it. -/
def burnWanted (s : State) (b : Burn) : Bool :=
  match b.owner with
  | .job id => (s.job? id).isSome
  | _ => true

/-- The path takes its burns one by one, in the order in which they reached it (R177). -/
def pumpOtpN : Nat → State → State
  | 0, s => s
  | k + 1, s =>
    if s.otp.run.isSome || (otpReading s).isSome || !ctrlUp s || engInReset s .otp then s
    else
      match s.otp.queue with
      | [] => s
      | b :: bs =>
        let s := { s with otp := { s.otp with queue := bs } }
        if burnWanted s b then
          match beginBurn b s with
          | (s, some e) => pumpOtpN k (burnEnded e s)
          | (s, none) => s
        else pumpOtpN k s

/-- Start what waits for the path. A burn that ends without a pulse may put the next one on it. -/
def pumpOtp (s : State) : State := pumpOtpN 64 s

/-- What a life-cycle burn shows after a pulse: word and bits in LC_PROGRESS, regions 6 and 7 (Table 6-20, R192). -/
def showProgress (s : State) : State :=
  let b := s.otp.run.getD { owner := .start }
  match b.owner with
  | .job id =>
    match s.job? id with
    | some j =>
      if j.op = .lcTransition then
        let addr := match b.todo with
          | [] => s.lc.addr
          | w :: _ => BitVec.ofNat 12 w.addr
        let s := { s with lc := { s.lc with addr := addr } }
        if s.lc.step = 4 then refreshRegion 7 (refreshRegion 6 s)
        else { s with lc := { s.lc with bits := BitVec.ofNat 5 (fieldCount s s.lc.target.toNat) } }
      else s
    | none => s
  | _ => s

/-- A pulse in AON ends while CTRL is not running: no further pulse (Table 5-14). -/
def lastPulse (p : Pulse) (s : State) : State :=
  match s.otp.run with
  | none => s
  | some b =>
    let s := match b.todo with
      | [] => s
      | w :: _ => pulseWord w.addr p s
    { s with otp := { s.otp with run := none } }

/-- A pulse ends. -/
def pulseDone (p : Pulse) (s : State) : State :=
  if !ctrlUp s then lastPulse p s
  else
    match afterPulse p s with
    | (s, some e) => pumpOtp (burnEnded e s)
    | (s, none) => pumpOtp (showProgress s)

/-- OTP_PULSE_DONE (R175, R176): 5 µs after its start. -/
def execOtpPulseDone (p : Pulse) (s : State) : Host.Outcome State Fault Refusal :=
  .next (if aonUp s && s.otp.run.isSome then pulseDone p { s with now := s.now + 5 * Config.microsecond } else s)

/-! ## Job rows -/

/-- OTP_READ. -/
def execOtpRead (s : State) : Host.Outcome State Fault Refusal := .next (runJob .otpRead (otpFree s) startOtpRead s)

/-- OTP_PROGRAM. -/
def execOtpProgram (s : State) : Host.Outcome State Fault Refusal :=
  .next (pumpOtp (runJob .otpProgram (otpFree s) startOtpProgram s))

/-- OTP_LOCK (R172). -/
def execOtpLock (s : State) : Host.Outcome State Fault Refusal :=
  .next (pumpOtp (runJob .otpLock (otpFree s) startOtpLock s))

/-- OTP_REPAIR (R179). -/
def execOtpRepair (s : State) : Host.Outcome State Fault Refusal :=
  .next (pumpOtp (runJob .otpRepair (otpFree s) startOtpRepair s))

/-- OTP_CTR_ADVANCE (R181). -/
def execOtpCtrAdvance (s : State) : Host.Outcome State Fault Refusal :=
  .next (pumpOtp (runJob .otpCtrAdvance (otpFree s) startCtrAdvance s))

/-- LC_TRANSITION (R190). -/
def execLcTransition (s : State) : Host.Outcome State Fault Refusal :=
  .next (pumpOtp (runJob .lcTransition true startTransition s))

/-- LC_DEBUG_POLICY (R206). -/
def execLcDebugPolicy (s : State) : Host.Outcome State Fault Refusal :=
  .next (pumpOtp (runJob .lcDebugPolicy true startDebugPolicy s))

/-- KEYS_ROOT_PROVISION (R234). -/
def execKeysRootProvision (s : State) : Host.Outcome State Fault Refusal :=
  .next (pumpOtp (runJob .keysRootProvision true startRootProvision s))

/-- BOOT_CONFIG_COMMIT (R245). -/
def execBootConfigCommit (s : State) : Host.Outcome State Fault Refusal :=
  .next (pumpOtp (runJob .bootConfigCommit true startConfigCommit s))

/-- A counter advance of a CONFIRM waits on the path or runs. -/
def confirmOnPath (s : State) : Bool := (s.otp.run.toList ++ s.otp.queue).any (fun b => b.owner == .confirm)

/-- CTR_PENDING_RETRY (R259): SEQ retries the pending advance every 2^20 beats. -/
def execCtrPendingRetry (s : State) : Host.Outcome State Fault Refusal :=
  .next (if ctrlUp s && !engInReset s .seq && s.boot.ctrPending && !confirmOnPath s
      && decide (s.boot.ctrRetryBeat.toNat ≤ lbeat s) then
    pumpOtp (confirmNext { s with boot := { s.boot with ctrRetryBeat := s.beat.lbeat + 0x100000 } })
  else s)

/-! ## Key delivery acknowledgements -/

/-- A message is acknowledged: the next one goes out, and an erasure that waits for the clears goes on (R85, R192). -/
def kdAcked (k : Port) (s : State) : State :=
  match (s.link k).kd with
  | [] => s
  | m :: _ =>
    let s := kdNext k s
    pumpOtp (if m.op = 2 then clearAcked k s else s)

/-- KD_ACK (R83, R85). In Watch the bus is idle (R102). -/
def execKdAck (k : Port) (s : State) : Host.Outcome State Fault Refusal :=
  if inWatch s then .fault .portIdle else .next (if ctrlUp s then kdAcked k s else s)

end Sys2Proof.Machine
end

