-- ==== Sys2Proof/Machine/CellRows.lean ====
section
/-! DEFINITION. What a cell's outcome does: retry, retirement and delivery of units of work (R24 to R27), tests of
cells (R29, R401), and work that no cell can do any more. -/

namespace Sys2Proof.Machine

/-! ## Work that fails for good -/

/-- The PKE work of a job fails: the other part is stopped and the job ends with the status (R286, R290). -/
def pkeFailed (id : Nat) (st : Status) (s : State) : State :=
  let s := dropUnits (ownerJob id) s
  match s.job? id with
  | none => s
  | some j =>
    if j.op = .ingLoad then loadOutOfCells id st s
    else dropCollection id (failJob { j with bn := .unused, lt := .unused } st s)

/-- A unit of work ends its job: ST_TRANSIENT after four attempts, ST_RETIRED without a healthy cell (R26). A sweep
has no job: its pass is abandoned (R354). -/
def unitFailed (o : UnitOwner) (st : Status) (s : State) : State :=
  match o with
  | .pke id _ => pkeFailed id st s
  | .digJob id => digJobFailed id st (dropUnits (ownerJob id) s)
  | .digDrain n => drainFailed n (dropUnits (fun x => x == .digDrain n) s)
  | .chunk id _ | .chunkAgain id _ _ | .leaf id _ => loadOutOfCells id st (dropUnits (ownerJob id) s)
  | .sweepLeaf => abandonPass s
  | .otpRead id => pumpOtp (readFailed id st (dropUnits (ownerJob id) s))

/-- A started job waits for a PKE block of a kind that is gone (R290). -/
def blockGone (s : State) (j : Job) : Bool :=
  (j.bn == .waiting && kindGone s false) || (j.lt == .waiting && kindGone s true)

/-- The last pipeline is gone: every DIG job and drain ends with ST_RETIRED (R326). -/
def pipesGone (s : State) : State :=
  if pipesOk s ≠ 0 then s
  else
    let s := (s.jobs.filter (fun j => j.cls == .dig && j.stage == .engine)).foldl
      (fun s j => digJobFailed j.id .retired s) s
    s.dig.drains.foldl (fun s d => drainFailed d.seat s) s

/-- Work whose kind of cell has no healthy one left ends (R26, R290, R326, R347, Table 1-8). -/
def cellsLost (s : State) : State :=
  let s := (s.units.filter (fun u => placeUnit s u == .noneLeft)).foldl (fun s u => unitFailed u.owner .retired s) s
  let s := (s.jobs.filter (blockGone s)).foldl (fun s j => pkeFailed j.id .retired s) s
  pipesGone (lanesGone s)

/-! ## Cell errors (R25 to R27) -/

/-- Kind of a unit in event 0x0101: the row of Table 1-4. -/
def unitCode : UnitOwner → Nat
  | .pke _ b => if b.val < 4 then 1 else 2
  | .digJob _ | .digDrain _ => 3
  | .chunk _ _ | .chunkAgain _ _ _ => 4
  | .leaf _ _ | .sweepLeaf => 5
  | .otpRead _ => 6

/-- The engine counts a unit that is retried on another cell (PKE_COUNTS, DIG_COUNTS). -/
def countRetry (u : CellUnit) (s : State) : State :=
  if (unitCells u.owner).all (fun c => !healthy s c || u.tried.contains c) then s
  else
    match u.owner with
    | .pke _ _ => { s with pke := { s.pke with cellRetry := satInc s.pke.cellRetry } }
    | .digJob _ | .digDrain _ => { s with dig := { s.dig with cellRetry := satInc s.dig.cellRetry } }
    | _ => s

/-- An error of a cell: recorded; the third in a row retires it, otherwise its known-answer test is due (R26). -/
def cellError (c : Cell) (kind attempt : Nat) (s : State) : State :=
  let s := record { code := 0x0101, object := word c.val, detail := leBytes 1 kind ++ leBytes 1 attempt } s
  let k := s.cells[c].consecutive + 1
  let s := s.modCell c (fun x => { x with consecutive := k, testDue := decide (k < 3) })
  if 3 ≤ k then retireCell c 1 s else s

/-- A unit goes to its next cell ahead of units not yet tried, or its job ends (R26). -/
def retryUnit (u : CellUnit) (s : State) : State :=
  if 4 ≤ u.attempts then unitFailed u.owner .transient s
  else
    match placeUnit s u with
    | .noneLeft => unitFailed u.owner .retired s
    | .onCell c => giveUnit c u (countRetry u s)
    | .wait => countRetry u { s with units := u :: s.units }

/-! ## Delivery -/

/-- The PKE work of a job has ended, by the job that asked for it. -/
def pkeWorkDone (j : Job) (s : State) : State :=
  match j.op with
  | .ingLoad => loadPkeDone j s
  | .partEvidence => evidenceSigned j s
  | .partGroveCollect => collectSigned j s
  | .lcAuthProve => proveDone j s
  | .lcDebugOpen => consentDone j s
  | _ => if j.cls = .pke then endPke j s else s

/-- A part of a job's PKE work has ended on its block; the job goes on when both have (R286). -/
def partDone (id : Nat) (b : Fin 6) (s : State) : State :=
  match s.job? id with
  | none => s
  | some j =>
    let fin (p : PkePart) : PkePart := if p = .running b then .finished b else p
    let busy (p : PkePart) : Bool := match p with
      | .waiting | .running _ => true
      | .unused | .finished _ => false
    let j := { j with bn := fin j.bn, lt := fin j.lt }
    let s := setJob j s
    if busy j.bn || busy j.lt then s else pkeWorkDone j s

/-- The output of a cell without error is delivered. `more`: the work needs another unit; for an AES-GCM lane: its
verdict on the tag is negative whatever the standard says (assumption entry 24). -/
def deliver (o : UnitOwner) (c : Cell) (more : Bool) (s : State) : State :=
  match o with
  | .pke id b => if more then submitUnit { owner := .pke id b } s else partDone id b s
  | .digJob id => digJobBlock id more s
  | .digDrain n => drainBlock n s
  | .chunk id i => chunkDone id i c more s
  | .chunkAgain id i first =>
    match chunkAgainDone id i c more s with
    | (s, true) => cellError first 4 1 s
    | (s, false) => s
  | .leaf id i => leafDone id i s
  | .sweepLeaf => sweepLeafDone s
  | .otpRead id => pumpOtp (marginRead id s)

/-- A cell has ended its unit. -/
def unitDone (c : Cell) (ok more : Bool) (s : State) : State :=
  match s.cells[c].work with
  | none => s
  | some u =>
    let s := idleCell c s
    let s :=
      if ok then deliver u.owner c more (s.modCell c (fun x => { x with consecutive := 0 }))
      else
        let u := { u with attempts := u.attempts + 1, tried := u.tried ++ [c] }
        retryUnit u (cellError c (unitCode u.owner) u.attempts s)
    placeWaiting (cellsLost s)

/-- The cell's engine runs. -/
def cellRuns (s : State) (c : Cell) : Bool := ctrlUp s && !engInReset s (cellEngine c) && !engOffline s (cellEngine c)

/-- CELL_UNIT_DONE (R24 to R27). -/
def execCellUnitDone (c : Cell) (ok more : Bool) (s : State) : Host.Outcome State Fault Refusal :=
  .next (if cellRuns s c then unitDone c ok more s else s)

/-- A cell's test has ended: the suite of a re-test, or the test due before its next unit (R26, R401). -/
def testDone (c : Cell) (failed : BitVec 8) (s : State) : State :=
  match s.cells[c].retest with
  | some id => endRetest c id failed s
  | none =>
    if !s.cells[c].testDue then s
    else if failed = 0 then placeWaiting (s.modCell c (fun x => { x with testDue := false }))
    else placeWaiting (cellsLost (retireCell c 3 s))

/-- KNOWN_ANSWER_TEST_DONE (R29, R401). -/
def execKnownAnswerTestDone (c : Cell) (failed : BitVec 8) (s : State) : Host.Outcome State Fault Refusal :=
  .next (if cellRuns s c then testDone c failed s else s)

end Sys2Proof.Machine
end

