-- ==== Sys2Proof/Machine/Seats.lean ====
section
/-! DEFINITION. The seat page (R106 to R125, R428 to R432): submission, release, abort, reset, the write-one-to-clear
and enable registers, the values a page reads as, and the rows that post a result or end a role or nonce. -/

namespace Sys2Proof.Machine

/-! ## Submission (R109 to R111, R119) -/

/-- Lowest free entry of a class (R110). -/
def freeEntry (p : SeatPage) (c : QClass) : Option EntryIx := (indices 8).find? (fun e => p.entries[entryIx c e].st == .free)

/-- SEAT_ACCEPT of a refused submission (Table 3-10). -/
def refusedWord (st : Status) (hint : Nat) : Word := word ((statusCode st).toNat * 2 ^ 16 + hint)

/-- SEAT_ACCEPT of an accepted one. -/
def acceptedWord (seq : BitVec 32) (c : QClass) (e : EntryIx) : Word :=
  word (seq.toNat * 2 ^ 32 + classNum c * 2 ^ 14 + e.val * 2 ^ 11)

/-- A submission is refused. -/
def refuseCmd (n : Seat) (st : Status) (hint : Nat) (s : State) : State :=
  s.modSeat n (fun p => { p with accept := refusedWord st hint })

/-- A refusal with ST_STATE is recorded at most once per seat per opcode per 2^10 beats (R109). -/
def noteRefused (n : Seat) (code : BitVec 16) (s : State) : State :=
  recordLimited (.refused n code)
    { code := 0x0701, seat := stampOf n, part := partByte n, status := statusCode .state, opcode := code } s

/-- A class with a completed, unreleased result. -/
def hasDone (p : SeatPage) (c : QClass) : Bool := (indices 8).any (fun e => p.entries[entryIx c e].st == .done)

/-- ST_BUSY with its hint (R119): 0 when the seat can free an entry itself, otherwise an estimate of at least one unit,
which the manual leaves to Limcy (assumption entry 6). -/
def refuseBusy (n : Seat) (c : QClass) (s : State) : State :=
  if hasDone (s.seat n) c then refuseCmd n .busy 0 s
  else
    let (w, s) := drawWord s
    refuseCmd n .busy (w.toNat % 0x7FF + 1) s

/-- A job enters its queue with the header and the seven argument words copied (R110, R111). -/
def acceptCmd (n : Seat) (o : Op) (tag : BitVec 16) (e : EntryIx) (s : State) : State :=
  let c := classOf o
  let put (p : SeatPage) : SeatPage :=
    let q := nextSeq p.seq
    let x : Entry := {
      st := .queued, op := o, tag := tag, seq := q, order := s.orders, args := p.args, fifoMark := p.fifoIn }
    { p with seq := q, accept := acceptedWord q c e, entries := vset p.entries (entryIx c e) x }
  { s.modSeat n put with orders := s.orders + 1 }

/-- What acceptance sets going: PKE keeps a chosen job (R285), and an ING job after the quarantine of STRM completes
with ST_FAULT (R39, Table 3-18). -/
def afterAccept (n : Seat) (o : Op) (e : EntryIx) (s : State) : State :=
  match classOf o with
  | .pke => if mayStart s .pke then choosePke s else s
  | .ing => if s.core.strmQuar then raiseFault n faultStrm (postEntry n .ing e .fault noWords s) else s
  | .dig | .ctrl => s

/-- A write of SEAT_CMD_HDR (R109, Table 3-9). -/
def submitCmd (n : Seat) (data : Word) (s : State) : State :=
  let code := BitVec.ofNat 16 (fld data 48 16)
  if !seatExists s n then noteRefused n code (refuseCmd n .state 0 s)
  else
    match opOfCode code with
    | none => refuseCmd n .badOpcode 0 s
    | some o =>
      match freeEntry (s.seat n) (classOf o) with
      | none => refuseBusy n (classOf o) s
      | some e => afterAccept n o e (acceptCmd n o (BitVec.ofNat 16 (fld data 32 16)) e s)

/-! ## Release and abort (R122, R123) -/

/-- Class and entry a word of Table 3-12 names. -/
def namedClass (data : Word) : QClass := classOfNum (fld data 3 2)
/-- Entry number of the word. -/
def namedEntry (data : Word) : EntryIx := Fin.ofNat 8 (fld data 0 3)

/-- The entry a word names, when it is occupied and the TAG matches. -/
def namedJob (p : SeatPage) (data : Word) : Option Entry :=
  let x := p.entries[entryIx (namedClass data) (namedEntry data)]
  if x.st ≠ .free ∧ x.tag.toNat = fld data 32 16 then some x else none

/-- A write of SEAT_RELEASE (R122). -/
def releaseEntry (n : Seat) (data : Word) (s : State) : State :=
  match namedJob (s.seat n) data with
  | some x =>
    if x.st = .done then
      s.modSeat n (fun p => { p with entries := vset p.entries (entryIx (namedClass data) (namedEntry data)) {} })
    else raiseFault n faultHandle s
  | none => raiseFault n faultHandle s

/-- A write of SEAT_ABORT (R123). -/
def abortEntry (n : Seat) (data : Word) (s : State) : State :=
  match namedJob (s.seat n) data with
  | none => raiseFault n faultHandle s
  | some x =>
    match x.st with
    | .queued => postEntry n (namedClass data) (namedEntry data) .aborted noWords s
    | .started id =>
      match s.job? id with
      | some j => if canAbort s j then pumpOtp (abortJob j s) else s
      | none => s
    | .done | .free => s

/-- A write of SEAT_RESET: only 0x5EA7 in bits [15:0] starts a reset (R124). -/
def resetWrite (n : Seat) (data : Word) (s : State) : State :=
  if fld data 0 16 = 0x5EA7 then placeWaiting (pumpContexts (resetSeat n s)) else s

/-! ## Clear and enable (R107, R429, R430) -/

/-- A write of SEAT_FAULT. -/
def clearFault (n : Seat) (data : Word) (s : State) : State :=
  s.modSeat n (fun p => { p with fault := p.fault &&& ~~~(data.truncate 6) })

/-- A write of SEAT_IRQ_STATUS. -/
def clearSeatIrq (n : Seat) (data : Word) (s : State) : State :=
  modSeatIrq n (fun p => { p with irqStatus := p.irqStatus &&& ~~~(data.truncate 7) }) s

/-- A write of SEAT_IRQ_EN. -/
def enableSeatIrq (n : Seat) (data : Word) (s : State) : State :=
  modSeatIrq n (fun p => { p with irqEn := data.truncate 7 }) s

/-- A write of CORE_IRQ_STATUS in the bank of a seat; other seats have none (R426). -/
def clearCoreIrq (n : Seat) (data : Word) (s : State) : State :=
  if isHmb n then modSeatIrq n (fun p => { p with coreIrq := p.coreIrq &&& ~~~(data.truncate 19) }) s else s

/-- A write of CORE_IRQ_EN in the bank of a seat. -/
def enableCoreIrq (n : Seat) (data : Word) (s : State) : State :=
  if isHmb n then modSeatIrq n (fun p => { p with coreIrqEn := data.truncate 19 }) s else s

/-- A read of SEAT_MBX_EMPTIED0 or 1 clears it (R12). -/
def clearEmptied (n : Seat) (upper : Bool) (s : State) : State :=
  s.modSeat n (fun p => if upper then { p with emptied1 := 0 } else { p with emptied0 := 0 })

/-! ## What a page reads as (Tables 3-2 to 3-10, R120, R121, R432) -/

/-- SEAT_ID (Table 3-3). -/
def seatId (s : State) (n : Seat) : Word :=
  word (weightOf s n .ctrl * 2 ^ 20 + weightOf s n .ing * 2 ^ 16 + weightOf s n .dig * 2 ^ 12 + weightOf s n .pke * 2 ^ 8
    + n.val)

/-- SEAT_STATUS (Table 3-4). A reset is over within the step that starts it (assumption entry 15). -/
def seatStatus (s : State) (n : Seat) : Word :=
  let p := s.seat n
  word (occupied p .ctrl * 2 ^ 28 + occupied p .ing * 2 ^ 24 + occupied p .dig * 2 ^ 20 + occupied p .pke * 2 ^ 16
    + bit (seatExists s n) * 2)

/-- Header of a result entry (R120, R121). -/
def entryHeader (x : Entry) : Word :=
  let st := match x.st with
    | .done => statusCode x.status
    | _ => statusCode .pending
  if x.st = .free then 0 else word (st.toNat * 2 ^ 48 + x.tag.toNat * 2 ^ 32 + x.seq.toNat)

/-- Word k of a result entry. -/
def entryWord (x : Entry) (k : Nat) : Word :=
  if k = 0 then entryHeader x else if x.st = .done then x.words.toList.getD (k - 1) 0 else 0

/-- Value of the word at an offset of a seat's own page. -/
def readSeat (n : Seat) (off : Nat) (s : State) : Word :=
  let p := s.seat n
  match off with
  | 0x000 => seatId s n
  | 0x008 => seatStatus s n
  | 0x010 => p.fault.zeroExtend 64
  | 0x018 => p.irqStatus.zeroExtend 64
  | 0x020 => p.irqEn.zeroExtend 64
  | 0x048 => p.accept
  | 0x050 => p.postPtr
  | 0x058 => p.postStatus
  | 0x060 => pendWord s n false
  | 0x068 => pendWord s n true
  | 0x070 => p.emptied0
  | 0x078 => p.emptied1
  | 0x0C0 => doneWord p
  | 0x0C8 => if n = peer then p.peerNotify else 0
  | _ =>
    if 0x080 ≤ off ∧ off ≤ 0x0B0 then p.args.toList.getD ((off - 0x080) / 8) 0
    else if 0x400 ≤ off ∧ off < 0xC00 then
      entryWord p.entries[Fin.ofNat 32 ((off - 0x400) / 64)] ((off - 0x400) / 8 % 8)
    else 0

/-- A 64-bit write of the word at an offset of a seat's own page. -/
def writeSeat (n : Seat) (off : Nat) (data : Word) (s : State) : State :=
  match off with
  | 0x010 => clearFault n data s
  | 0x018 => clearSeatIrq n data s
  | 0x020 => enableSeatIrq n data s
  | 0x028 => resetWrite n data s
  | 0x030 => releaseEntry n data s
  | 0x038 => abortEntry n data s
  | 0x040 => submitCmd n data s
  | 0x050 => s.modSeat n (fun p => { p with postPtr := data })
  | 0x0C8 => if n = peer then s.modSeat n (fun p => { p with peerNotify := data &&& ~~~(0x3F : Word) }) else s
  | _ =>
    if 0x080 ≤ off ∧ off ≤ 0x0B0 then
      s.modSeat n (fun p => { p with args := vset p.args (Fin.ofNat 7 ((off - 0x080) / 8)) data })
    else s

/-! ## Rows -/

/-- JOB_COMPLETE (R121): the decided result of a started job is posted (assumption entry 4). -/
def execJobComplete (n : Seat) (c : QClass) (e : EntryIx) (s : State) : Host.Outcome State Fault Refusal :=
  .next (match (s.seat n).entries[entryIx c e].st with
    | .started id =>
      match s.job? id with
      | some j =>
        match j.stage with
        | .ready st ws => finishJob j st ws s
        | _ => s
      | none => s
    | _ => s)

/-- ROLE_LAPSE (R199): LBEAT has reached the lapse beat of the role held on a seat. -/
def execRoleLapse (n : Seat) (s : State) : Host.Outcome State Fault Refusal :=
  .next (if ctrlUp s && decide ((authOf s n).held.lapse.toNat ≤ lbeat s) then endRole n 2 s else s)

/-- A nonce has stood for 2^24 beats. -/
def nonceOld (s : State) (x : Nonce) : Bool := decide (x.beat.toNat + 2 ^ 24 ≤ lbeat s)

/-- NONCE_EXPIRY (R199). -/
def execNonceExpiry (n : Seat) (consent : Bool) (s : State) : Host.Outcome State Fault Refusal :=
  let drop (x : Option Nonce) : Option Nonce := x.filter (fun v => !nonceOld s v)
  .next (if ctrlUp s && isHmb n then
    modAuth n (fun a => if consent then { a with consentNonce := drop a.consentNonce }
      else { a with roleNonce := drop a.roleNonce }) s
  else s)

end Sys2Proof.Machine
end

