-- ==== Sys2Proof/Machine/Access.lean ====
section
/-! DEFINITION. Register accesses: the address map (R424), access sizes (R425), access types (R12), who sees what, error
responses (R69), the fabric target port (R67), the access frame (R133) and the LCAUTH register (R208). -/

namespace Sys2Proof.Machine

/-! ## The four 32-bit registers (R6, R7, R52, R53) -/

/-- CORE_STATUS (Table 1-12). -/
def coreStatus (s : State) : Nat :=
  s.core.engReset.toNat * 2 ^ 14 + bit s.core.fatal * 2 ^ 8 + bit s.core.strmQuar * 2 ^ 7 + bit (retiredAny s) * 2 ^ 6
    + bit s.core.startDone * 2 ^ 5 + bit s.core.toFull.isSome * 2 ^ 4 + s.core.power.code

/-- The word at 0x00_0000 or 0x00_0008. CORE_WAKE reads zero. -/
def coreWord (off : Nat) (s : State) : Word := if off = 0 then coreRev ++ coreId else word (coreStatus s)

/-! ## Reads -/

/-- The word of the CORE block at an offset above 0x00_000F (R426, R427): zero to seats other than 64 to 66. -/
def readCore (n : Seat) (off : Nat) (s : State) : Word :=
  let p := s.seat n
  let t (i : Fin 4) : Nat := s.core.temps[i].toNat
  if !isHmb n then 0
  else
    match off with
    | 0x10 => p.coreIrq.zeroExtend 64
    | 0x18 => p.coreIrqEn.zeroExtend 64
    | 0x20 => word (s.core.vstrm.toNat * 2 ^ 32 + s.core.vctrl.toNat * 2 ^ 16 + s.core.vaon.toNat)
    | 0x28 => word (t 3 * 2 ^ 48 + t 2 * 2 ^ 32 + t 1 * 2 ^ 16 + t 0)
    | _ => 0

/-- The seat whose page an address lies in. -/
def pageOf (addr : Nat) : Option Seat :=
  if 0x40000 ≤ addr ∧ addr < 0x84000 then some (seatNo ((addr - 0x40000) / 0x1000)) else none

/-- The 64-bit word at an address of the aperture below the operand window, as a seat sees it (Table 14-1). -/
def readWord (n : Seat) (addr : Nat) (s : State) : Word :=
  let blk := addr / 0x1000
  let off := addr % 0x1000
  match pageOf addr with
  | some m => if m = n then readSeat n off s else 0
  | none =>
    if addr < 0x10 then coreWord addr s
    else
      match blk with
      | 0x0 => readCore n off s
      | 0x1 => readBeat n off s
      | 0x2 => if isHmb n then readOtp off s else 0
      | 0x3 => readLc n off s
      | 0x4 => readBoot off s
      | 0x5 => readKeys off s
      | 0x8 => readPke off s
      | 0xC => readDig n off s
      | 0xE => readIng n off s
      | 0x10 => readPart n off s
      | 0x20 => if isHmb n then readRec off s else 0
      | 0x30 => readBox (Fin.ofNat 128 (off / 0x20)) (off % 0x20 / 8) n s
      | _ => 0

/-- The partition whose PART_BLOCKED register an address is. -/
def blockedOf (addr : Nat) : Option Part :=
  if 0x10300 ≤ addr ∧ addr < 0x10500 then some (Fin.ofNat 64 ((addr - 0x10300) / 8)) else none

/-- What a 64-bit read of a word does beside returning it: RC registers, MBX_INFO, the capture of BEAT_NOW (R12, R14,
R130, Table 4-10). A seat to which an RC register reads zero clears nothing. -/
def readEffect (n : Seat) (addr : Nat) (s : State) : State :=
  match pageOf addr with
  | some m =>
    if m ≠ n then s
    else if addr % 0x1000 = 0x70 then clearEmptied n false s
    else if addr % 0x1000 = 0x78 then clearEmptied n true s
    else s
  | none =>
    match addr with
    | 0x1030 => clearBeatEvents s
    | 0x8018 => clearPkeCounts s
    | 0xC108 => clearDigCounts s
    | 0xE018 => if isHmb n then clearIngDrop s else s
    | _ =>
      match blockedOf addr with
      | some k => if isHmb n || n.val == k.val then clearBlocked k s else s
      | none =>
        if addr / 0x1000 = 0x30 ∧ addr % 0x20 = 8 then infoReadEffect (Fin.ofNat 128 (addr % 0x1000 / 0x20)) n s else s

/-- A read of BEAT_NOW in either size captures a stamp for its seat (Table 4-10). -/
def captureEffect (n : Seat) (addr : Nat) (s : State) : State := if addr = 0x1008 then captureNow n s else s

/-! ## Writes -/

/-- The 64-bit write of a word of a block, by a seat: what its access type does (R12). -/
def writeBlock (n : Seat) (addr : Nat) (data : Word) (s : State) : State :=
  match addr with
  | 0x0010 => clearCoreIrq n data s
  | 0x0018 => enableCoreIrq n data s
  | 0x4020 => if ctrlUp s then pumpOtp (confirmWrite n data s) else s
  | 0x5040 => if n = peer && ctrlUp s then linkDoorbellWrite data s else s
  | 0xC000 => s.modSeat n (fun p => { p with digSel := data.truncate 16 })
  | 0xC010 => writeWord n true (wordBytes data) s
  | _ =>
    if 0xC040 ≤ addr ∧ addr ≤ 0xC078 then writeWord n true ((wordBytes data).take ((addr - 0xC040) / 8 + 1)) s
    else if 0x10040 ≤ addr ∧ addr ≤ 0x10078 then writeGroveIn n (Fin.ofNat 8 ((addr - 0x10040) / 8)) data s
    else if addr / 0x1000 = 0x30 then
      let m : Mbx := Fin.ofNat 128 (addr % 0x1000 / 0x20)
      if addr % 0x20 = 0x10 then postNotice m n data s
      else if addr % 0x20 = 0x18 then stateWriteEffect m n data s
      else s
    else s

/-- A 64-bit write of the word at an address below the operand window. CORE_WAKE is ignored outside Watch (R53). -/
def writeWide (n : Seat) (addr : Nat) (data : Word) (s : State) : State :=
  match pageOf addr with
  | some m => if m = n then writeSeat n (addr % 0x1000) data s else s
  | none => writeBlock n addr data s

/-- A 32-bit write: ignored, but for DIG_WORD and DIG_LAST_WORD, whose message it fails (R312, R425). -/
def writeNarrow (n : Seat) (addr : Nat) (s : State) : State :=
  let a := addr / 8 * 8
  if a = 0xC010 ∨ (0xC040 ≤ a ∧ a ≤ 0xC078) then writeWord n false [] s else s

/-! ## One access of a seat -/

/-- What an access answers: an error response, or the read data. -/
structure Answer where
  err : Bool := false
  data : Word := 0
  deriving DecidableEq, Repr

/-- An access as the core arbiter sees it: who, where, what. -/
structure Xfer where
  write : Bool
  wide : Bool
  addr : Nat
  data : Word
  deriving DecidableEq, Repr

/-- Naturally aligned to its size. -/
def Xfer.aligned (x : Xfer) : Bool := x.addr % (if x.wide then 8 else 4) == 0

/-- The aligned 64-bit word the access lies in. -/
def Xfer.base (x : Xfer) : Nat := x.addr / 8 * 8

/-- The lanes a read of this size returns of a word. -/
def Xfer.lane (x : Xfer) (w : Word) : Word :=
  if x.wide then w else if x.addr % 8 = 4 then w &&& 0xFFFFFFFF00000000 else w &&& 0xFFFFFFFF

/-- An error response is recorded with stamp and address, at most once per stamp per 2^10 beats (R69). -/
def errorAnswer (src : BitVec 8) (addr : Nat) (s : State) : Answer × State :=
  let part := if src.toNat < 64 then src else 0xFF
  ({ err := true }, recordLimited (.errorResponse src) { code := 0x0601, seat := src, part := part, object := word addr } s)

/-- A page of another seat is no register to this one, and is recorded likewise (R104). -/
def noteForeign (n : Seat) (addr : Nat) (s : State) : State :=
  match pageOf addr with
  | some m =>
    if m = n then s
    else recordLimited (.foreignPage (stampOf n))
      { code := 0x0601, seat := stampOf n, part := partByte n, object := word addr } s
  | none => s

/-- A write of CORE_WAKE carries WAKE = 1. -/
def Xfer.wakes (x : Xfer) : Bool :=
  x.write && ((x.wide && x.addr == 8 && x.data.getLsbD 32) || (!x.wide && x.addr == 12 && x.data.getLsbD 32))

/-- The wake, or the record of a write by a seat that may not wake Limcy (R53). The manual gives that record no code
(assumption entry 6). -/
def wakeWrite (n : Seat) (s : State) : State :=
  if n = host ∨ n = bmc then wakeCore s
  else record { code := Config.foreignWakeCode, seat := stampOf n, part := partByte n, object := word 0x0C } s

/-- A mailbox register. -/
def Xfer.mailbox (x : Xfer) : Bool := x.addr / 0x1000 == 0x30

/-- An access in Watch (R51): the four AON registers answer, and everything else is refused. -/
def watchAccess (n : Seat) (x : Xfer) (s : State) : Answer × State :=
  if x.addr < 0x10 then
    if x.write then ({}, if x.wakes then wakeWrite n s else s)
    else ({ data := x.lane (coreWord x.base s) }, s)
  else errorAnswer (stampOf n) x.addr s

/-- Bytes of a write, lowest address first. -/
def Xfer.bytes (x : Xfer) : Bytes :=
  if x.wide then wordBytes x.data else if x.addr % 8 = 4 then (wordBytes x.data).drop 4 else (wordBytes x.data).take 4

/-- An access to the operand window under maker debug (Table 9-21). -/
def windowAccess (x : Xfer) (s : State) : Answer × State :=
  let off := x.addr - 0x100000
  if x.write then ({}, windowWrite off x.bytes s)
  else ({ data := x.lane (word (windowRead (off / 8 * 8) 8 s)) }, s)

/-- A read of a register. -/
def readAccess (n : Seat) (x : Xfer) (s : State) : Answer × State :=
  let s := captureEffect n x.base (noteForeign n x.addr s)
  ({ data := x.lane (readWord n x.base s) }, if x.wide then readEffect n x.base s else s)

/-- A write of a register. -/
def writeAccess (n : Seat) (x : Xfer) (s : State) : State :=
  let s := noteForeign n x.addr s
  if x.wide then writeWide n x.addr x.data s else writeNarrow n x.addr s

/-- One access with a stamp (R69, R104): the answer and what it does. -/
def perform (src : BitVec 8) (x : Xfer) (s : State) : Answer × State :=
  match seatOfStamp src with
  | none => errorAnswer src x.addr s
  | some n =>
    if !x.aligned then errorAnswer src x.addr s
    else if inWatch s then watchAccess n x s
    else if 0x100000 ≤ x.addr then
      if s.lc.level = 3 then windowAccess x s else errorAnswer src x.addr s
    else if x.write then ({}, writeAccess n x s)
    else readAccess n x s

/-! ## The fabric target port (R67, R70) -/

/-- The access of a request. -/
def Access.xfer (a : Access) : Xfer := { write := a.write, wide := a.wide, addr := a.addr.toNat, data := a.data }

/-- The response leaves on the port. -/
def respond (a : Access) (r : Answer × State) : State :=
  { r.2 with rsp := { valid := true, err := r.1.err, rdata := if a.write || r.1.err then 0 else r.1.data,
                      src := a.src, id := a.id } }

/-- A request that is not answered now: CTRL is in reset (R67), or it writes a mailbox in Watch (R51). -/
def waits (a : Access) (s : State) : Bool :=
  s.core.ctrlReset
    || (inWatch s && a.write && (seatOfStamp a.src).isSome && (Access.xfer a).aligned && (Access.xfer a).mailbox)

/-- A request that is answered now. -/
def answer (a : Access) (s : State) : State := respond a (perform a.src (Access.xfer a) s)

/-- Held requests are served in order once nothing holds them. -/
def serveHeld (s : State) : State := s.held.foldl (fun s a => answer a s) { s with held := [] }

/-- A request reaches the port. A wake lets the held ones complete (R51). -/
def serve (a : Access) (s : State) : State :=
  if waits a s then { s with held := s.held ++ [a] }
  else
    let watch := inWatch s
    let s := answer a s
    if watch && !inWatch s then serveHeld s else s

/-- The request of a command that names its register. -/
def reqAccess (write : Bool) (addr : Nat) (rq : Req) : Access :=
  { write := write, addr := BitVec.ofNat 21 (addr + rq.low.toNat), src := rq.src, id := rq.id, wide := rq.wide, data := rq.data }

/-- Address of an offset of a seat's page. -/
def pageAddr (n : Seat) (off : Nat) : Nat := 0x40000 + 0x1000 * n.val + off

/-- SEAT_CMD_HDR (R109). -/
def execSeatCmdHdr (n : Seat) (rq : Req) (s : State) : Host.Outcome State Fault Refusal :=
  .next (serve (reqAccess true (pageAddr n 0x040) rq) s)
/-- SEAT_RELEASE (R122). -/
def execSeatRelease (n : Seat) (rq : Req) (s : State) : Host.Outcome State Fault Refusal :=
  .next (serve (reqAccess true (pageAddr n 0x030) rq) s)
/-- SEAT_ABORT (R123). -/
def execSeatAbort (n : Seat) (rq : Req) (s : State) : Host.Outcome State Fault Refusal :=
  .next (serve (reqAccess true (pageAddr n 0x038) rq) s)
/-- SEAT_RESET (R124). -/
def execSeatReset (n : Seat) (rq : Req) (s : State) : Host.Outcome State Fault Refusal :=
  .next (serve (reqAccess true (pageAddr n 0x028) rq) s)
/-- SEAT_FAULT (Table 3-5). -/
def execSeatFaultClear (n : Seat) (rq : Req) (s : State) : Host.Outcome State Fault Refusal :=
  .next (serve (reqAccess true (pageAddr n 0x010) rq) s)
/-- SEAT_IRQ_STATUS (R430). -/
def execSeatIrqStatusClear (n : Seat) (rq : Req) (s : State) : Host.Outcome State Fault Refusal :=
  .next (serve (reqAccess true (pageAddr n 0x018) rq) s)
/-- SEAT_IRQ_EN (R429). -/
def execSeatIrqEnWrite (n : Seat) (rq : Req) (s : State) : Host.Outcome State Fault Refusal :=
  .next (serve (reqAccess true (pageAddr n 0x020) rq) s)
/-- CORE_IRQ_STATUS (R426). -/
def execCoreIrqStatusClear (rq : Req) (s : State) : Host.Outcome State Fault Refusal :=
  .next (serve (reqAccess true 0x10 rq) s)
/-- CORE_IRQ_EN (R426). -/
def execCoreIrqEnWrite (rq : Req) (s : State) : Host.Outcome State Fault Refusal :=
  .next (serve (reqAccess true 0x18 rq) s)
/-- The known-answer tests of a wake (Table 1-11): cells of CTRL that fail theirs are retired (R27). -/
def wakeTests (cellsFailed : List Cell) (s : State) : State :=
  retireCells (cellsFailed.filter (fun c => (cellEngine c == .pke || cellEngine c == .dig) && healthy s c)) 2 s

/-- An access that wakes Limcy: WAKE written in Watch by HOST or BMC (R53). -/
def wakesUp (a : Access) (s : State) : Bool :=
  inWatch s && !s.core.ctrlReset && (Access.xfer a).aligned && (Access.xfer a).wakes
    && (a.src == stampOf host || a.src == stampOf bmc)

/-- CORE_WAKE (R53): the upper half of the word at 0x00_0008; `low` is the offset within it. `cellsFailed` are the cells
that fail their test on the way to Control. -/
def execCoreWake (rq : Req) (cellsFailed : List Cell) (s : State) : Host.Outcome State Fault Refusal :=
  let a := reqAccess true 0x08 rq
  .next (serve a (if wakesUp a s then wakeTests cellsFailed s else s))
/-- REGISTER_WRITE (R12): a request given by its address. -/
def execRegisterWrite (a : Access) (s : State) : Host.Outcome State Fault Refusal := .next (serve a s)
/-- ACCESS_ERROR_RESPONSE (R69): a request given by its address. -/
def execAccessErrorResponse (a : Access) (s : State) : Host.Outcome State Fault Refusal := .next (serve a s)
/-- BEAT_NOW (R154). -/
def execBeatNowRead (rq : Req) (s : State) : Host.Outcome State Fault Refusal :=
  .next (serve (reqAccess false 0x1008 rq) s)
/-- BEAT_EVENTS (R14). -/
def execBeatEventsRead (rq : Req) (s : State) : Host.Outcome State Fault Refusal :=
  .next (serve (reqAccess false 0x1030 rq) s)
/-- PKE_COUNTS (R302). -/
def execPkeCountsRead (rq : Req) (s : State) : Host.Outcome State Fault Refusal :=
  .next (serve (reqAccess false 0x8018 rq) s)
/-- DIG_COUNTS (R328). -/
def execDigCountsRead (rq : Req) (s : State) : Host.Outcome State Fault Refusal :=
  .next (serve (reqAccess false 0xC108 rq) s)
/-- ING_DROP (R357). -/
def execIngDropRead (rq : Req) (s : State) : Host.Outcome State Fault Refusal :=
  .next (serve (reqAccess false 0xE018 rq) s)
/-- PART_BLOCKEDn (R375). -/
def execPartBlockedRead (n : Part) (rq : Req) (s : State) : Host.Outcome State Fault Refusal :=
  .next (serve (reqAccess false (0x10300 + 8 * n.val) rq) s)
/-- SEAT_MBX_EMPTIED0 and 1 (R130). -/
def execSeatMbxEmptiedRead (n : Seat) (upper : Bool) (rq : Req) (s : State) : Host.Outcome State Fault Refusal :=
  .next (serve (reqAccess false (pageAddr n (0x070 + 8 * bit upper)) rq) s)
/-- MBX_POST (R128). -/
def execMbxPost (m : Mbx) (rq : Req) (s : State) : Host.Outcome State Fault Refusal :=
  .next (serve (reqAccess true (0x30010 + 0x20 * m.val) rq) s)
/-- MBX_INFO (R130). -/
def execMbxInfoRead (m : Mbx) (rq : Req) (s : State) : Host.Outcome State Fault Refusal :=
  .next (serve (reqAccess false (0x30008 + 0x20 * m.val) rq) s)
/-- MBX_STATE (R130). -/
def execMbxEmpty (m : Mbx) (rq : Req) (s : State) : Host.Outcome State Fault Refusal :=
  .next (serve (reqAccess true (0x30018 + 0x20 * m.val) rq) s)
/-- BOOT_CONFIRM (R259). -/
def execBootConfirm (rq : Req) (s : State) : Host.Outcome State Fault Refusal :=
  .next (serve (reqAccess true 0x4020 rq) s)
/-- DIG_WORD (R311). -/
def execDigWord (rq : Req) (s : State) : Host.Outcome State Fault Refusal :=
  .next (serve (reqAccess true 0xC010 rq) s)
/-- DIG_LAST_WORD (R311): the register that appends k + 1 bytes. -/
def execDigLastWord (k : Fin 8) (rq : Req) (s : State) : Host.Outcome State Fault Refusal :=
  .next (serve (reqAccess true (0xC040 + 8 * k.val) rq) s)
/-- PART_GROVE_IN7 (R389). -/
def execPartGroveIn7 (rq : Req) (s : State) : Host.Outcome State Fault Refusal :=
  .next (serve (reqAccess true 0x10078 rq) s)
/-- KEYS_LINK_RX (R241). -/
def execKeysLinkRx (rq : Req) (s : State) : Host.Outcome State Fault Refusal :=
  .next (serve (reqAccess true 0x5040 rq) s)

/-! ## Access frames (R133) and LCAUTH (R208) -/

/-- One entry of 16 bytes executed as an access of a seat, with its response. -/
def runEntry (n : Seat) (e : Bytes) (s : State) : Bytes × State :=
  let op := getLe e 0 1
  let x : Xfer := { write := op == 2, wide := true, addr := getLe e 1 3 % 2 ^ 21, data := word (getLe e 8 8) }
  let echo (result : Nat) (data : Bytes) : Bytes := e.take 4 ++ leBytes 1 result ++ slice e 5 3 ++ data
  if op = 1 ∨ op = 2 then
    let (a, s) := perform (stampOf n) x s
    (echo (bit a.err) (if op = 1 then wordBytes a.data else slice e 8 8), s)
  else (echo 1 (slice e 8 8), s)

/-- The entries in order. -/
def runEntries (n : Seat) : Nat → Bytes → State → Bytes × State
  | 0, _, s => ([], s)
  | k + 1, es, s =>
    let (r, s) := runEntry n (es.take 16) s
    let (rs, s) := runEntries n k (es.drop 16) s
    (r ++ rs, s)

/-- The seat an MCTP message arrives as (R98, R133). -/
def pathSeat : MctpPath → Seat
  | .i3c => bmc
  | .pcie => host

/-- MCTP messages are heard: CTRL runs, and I3C has its dynamic address (R98, Table 2-20). -/
def pathOpen (s : State) (p : MctpPath) : Bool :=
  !s.core.ctrlReset && !inWatch s && s.core.power != .off && (p == .pcie || s.i3cAddressed)

/-- A message is an access frame of Limcy's: type 0x7F and its enterprise number. -/
def isFrame (f : Bytes) : Bool := getLe f 0 1 == 0x7F && slice f 1 4 == beBytes 4 Config.ianaEnterprise.toNat

/-- A request frame is executed and answered; one with a bad count, length or kind is recorded. -/
def accessFrame (p : MctpPath) (f : Bytes) (s : State) : State :=
  let n := pathSeat p
  let k := getLe f 7 1
  if getLe f 5 1 = 1 ∧ 1 ≤ k ∧ k ≤ 16 ∧ f.length = 8 + 16 * k then
    let (r, s) := runEntries n k (f.drop 8) s
    emit (.accessResponse p (f.take 5 ++ [0x02#8] ++ slice f 6 2 ++ r)) s
  else record { code := 0x0604, seat := stampOf n } s

/-- ACCESS_FRAME (R133). -/
def execAccessFrame (p : MctpPath) (f : Bytes) (s : State) : Host.Outcome State Fault Refusal :=
  .next (if pathOpen s p && isFrame f then accessFrame p f s else s)

/-- LCAUTH (R208): at Update-DR the entry is executed as seat 66; the register then holds its response. In Watch the
debug gate has BYPASS and IDCODE only (Table 2-20). -/
def execLcauth (dr : BitVec 128) (s : State) : Host.Outcome State Fault Refusal :=
  .next (if s.core.ctrlReset || inWatch s || s.core.power == .off then s
    else
      let (r, s) := runEntry bmc (bvBytes dr) s
      { s with lcauth := bytesBv 128 r })

/-! ## I3C (R98, R431) -/

/-- I3C_ENTDAA: Limcy has a dynamic address and the BMC is ready (R129). -/
def execI3cEntdaa (s : State) : Host.Outcome State Fault Refusal :=
  .next (if s.core.ctrlReset || inWatch s || s.core.power == .off then s
    else wakeNotices { s with i3cAddressed := true })

/-- I3C_BUS_FREE: the outcome of the last request, and another one while it went unacknowledged (R431). -/
def execI3cBusFree (acked : Bool) (s : State) : Host.Outcome State Fault Refusal :=
  .next (if s.core.ctrlReset || inWatch s || !s.i3cAddressed || !s.ibiWaiting then s
    else if acked then { s with ibiWaiting := false }
    else if isPending (s.seat bmc) then requestIbi s
    else { s with ibiWaiting := false })

end Sys2Proof.Machine
end

