-- ==== Sys2Proof/Machine/ComputeReset.lean ====
section
/-! DEFINITION. The compute reset: command, handshake and what it leaves (R65, R402 to R405). -/

namespace Sys2Proof.Machine

/-- Change the record of the compute reset. -/
def modCreset (f : CReset → CReset) (s : State) : State := { s with recd := { s.recd with creset := f s.recd.creset } }

/-- An event of the compute reset, in the name of the seat that asked for it. -/
def cresetNote (code : BitVec 16) (s : State) : State :=
  let c := s.recd.creset
  record { code := code, seat := stampOf c.seat, part := partByte c.seat, opcode := opcodeOf .computeReset,
           detail := leBytes 1 (bit c.reason) } s

/-- Step 1 of Table 2-4. -/
def beginCreset (j : Job) (s : State) : State :=
  let s := modCreset (fun c => { c with
    phase := 1, job := some j.id, seat := j.seat, reason := j.f 0 0 1 == 1, since := s.now,
    born := s.part.creations, ended := false, qto := false, rto := false }) s
  cresetNote 0x0501 { s with pins := { s.pins with cmpQuiesceReq := true, cmpQuiesceAck := false } }

/-- CORE_COMPUTE_RESET starts (Table 13-3, R439). -/
def startComputeReset (j : Job) (s : State) : State :=
  let lc := s.lc.state
  match firstFail [
    (isHmb j.seat, .denied),
    (zeroFrom (j.w 0) 1, .badArgument),
    (operatorRight s j.seat, .denied),
    (lc == lcTest || lc == lcIntegration || lc == lcFielded || lc == lcReturned, .state),
    (partPower s, .state),
    (s.recd.creset.phase == 0, .state)] with
  | some st => refuseJob j st s
  | none => beginCreset j s

/-- CORE_COMPUTE_RESET (R402). -/
def execCoreComputeReset (s : State) : Host.Outcome State Fault Refusal :=
  .next (runJob .computeReset true startComputeReset s)

/-- Steps 3 and 4: compute is put in reset; S is the stamp of this moment (R403 step 2). -/
def holdCompute (s : State) : State :=
  let t := stampNow s
  modCreset (fun c => { c with phase := 2, stamp := t, since := s.now, lastBeat := t.beat })
    { s with pins := { s.pins with rstComputeN := false, cmpQuiesceReq := false, cmpReady := false } }

/-- CMP_QUIESCE_ACK (Table 2-4 steps 2 and 3). -/
def execCmpQuiesceAck (s : State) : Host.Outcome State Fault Refusal :=
  let s := { s with pins := { s.pins with cmpQuiesceAck := true } }
  .next (if ctrlUp s && s.recd.creset.phase == 1 then holdCompute s else s)

/-- CMP_QUIESCE_TIMEOUT: 200 µs after step 1 without the acknowledgement (R65). -/
def execCmpQuiesceTimeout (s : State) : Host.Outcome State Fault Refusal :=
  .next (if ctrlUp s && s.recd.creset.phase == 1 then
    let s := { s with now := max s.now (s.recd.creset.since + 200 * Config.microsecond) }
    cresetNote 0x0503 (holdCompute (modCreset (fun c => { c with qto := true }) s))
  else s)

/-- RST_COMPUTE_HOLD_END: at least 1 µs later rst_compute_n rises (Table 2-4 steps 4 and 5). -/
def execRstComputeHoldEnd (s : State) : Host.Outcome State Fault Refusal :=
  .next (if ctrlUp s && s.recd.creset.phase == 2 then
    let s := { s with now := max s.now (s.recd.creset.since + Config.microsecond) }
    modCreset (fun c => { c with phase := 3, since := s.now }) { s with pins := { s.pins with rstComputeN := true } }
  else s)

/-- A partition existed when the compute reset began. -/
def bornBefore (s : State) (n : Part) : Bool :=
  let c := s.part.creations
  partExists s n && decide ((c - s.recd.creset.born).toNat ≤ (c - s.part.recs[n].created).toNat)

/-- S joins the history of a partition: a saturating count and the last 16 stamps, oldest first (R404). -/
def addReset (t : Stamp) (r : PartRec) : PartRec :=
  let l := r.crStamps ++ [t]
  { r with crCount := satInc r.crCount, crStamps := l.drop (l.length - 16) }

/-- W1 to W4 of Table 13-3. -/
def cresetWords (c : CReset) : Words :=
  wordsOf [c.stamp.beat, c.stamp.info.zeroExtend 64, word (bit c.qto + 2 * bit c.rto), c.count.zeroExtend 64]

/-- R403 step 3: S joins the histories, G of every partition advances, and no model key stays. -/
def applyCreset (s : State) : State :=
  let t := s.recd.creset.stamp
  zeroAllModelKeys (advanceAllG ((indices 64).foldl
    (fun s n => if bornBefore s n then s.modPart n (addReset t) else s) s))

/-- R403 step 4: the count rises and the reset is recorded in both logs. -/
def noteCreset (s : State) : State :=
  let s := cresetNote 0x0502 (modCreset (fun c => { c with count := satInc c.count }) s)
  let c := s.recd.creset
  let parts := (indices 64).foldl (fun a n => if partExists s n then a + 2 ^ n.val else a) 0
  hwNote 0x0050 ([stampOf c.seat] ++ leBytes 1 (bit c.reason) ++ leBytes 1 (bit c.qto + 2 * bit c.rto)
    ++ leBytes 8 parts) s

/-- The handshake is over: seats become ready for waiting notices. -/
def closeCreset (s : State) : State :=
  wakeNotices (modCreset (fun c => { c with phase := 0, job := none, ended := false }) s)

/-- R403 steps 3 to 5. -/
def finishCreset (s : State) : State :=
  let c := s.recd.creset
  let s := closeCreset (noteCreset (applyCreset s))
  match c.job.bind s.job? with
  | some j => finishJob j (if c.rto then .fault else .ok) (cresetWords s.recd.creset) s
  | none => s

/-- Step 6 of Table 2-4 has come to its end; while REC is in its own reset the rest waits for it (Table 13-16). -/
def endHandshake (s : State) : State :=
  if engInReset s .recd then modCreset (fun c => { c with ended := true }) s else finishCreset s

/-- CMP_READY (Table 2-4 step 6). -/
def execCmpReady (s : State) : Host.Outcome State Fault Refusal :=
  let s := { s with pins := { s.pins with cmpReady := true } }
  .next (if ctrlUp s && s.recd.creset.phase == 3 && !s.recd.creset.ended then endHandshake s else s)

/-- CMP_READY_TIMEOUT: 500 µs after rst_compute_n rose (R65). -/
def execCmpReadyTimeout (s : State) : Host.Outcome State Fault Refusal :=
  .next (if ctrlUp s && s.recd.creset.phase == 3 && !s.recd.creset.ended then
    let s := { s with now := max s.now (s.recd.creset.since + 500 * Config.microsecond) }
    endHandshake (cresetNote 0x0504 (modCreset (fun c => { c with rto := true }) s))
  else s)

end Sys2Proof.Machine
end

