-- ==== Sys2Proof/Machine/Faults.lean ====
section
/-! DEFINITION. Engine faults, engine resets and their escalation (R31 to R36), core faults (R43), and the check of the
microcode stores (R300). -/

namespace Sys2Proof.Machine

/-- A job has PKE work on a block or waiting for one. -/
def usesPke (j : Job) : Bool := j.bn != .unused || j.lt != .unused

/-- End jobs with ST_FAULT here and now; a load leaves its plan FAILED with cause 0x0E (Table 11-8). -/
def faultJobs (js : List Job) (s : State) : State :=
  js.foldl (fun s j =>
    match loadOf s j.id with
    | some l => failLoad l 0x0E .fault s
    | none => dropCollection j.id (finishJob j .fault noWords s)) s

/-- Started jobs of an engine (R32 step 1). -/
def engineJobs (s : State) (e : Engine) : List Job := s.jobs.filter (fun j => engineOf j.op == e)

/-! ## What each engine loses (R32, R33, Table 1-5) -/

/-- PKE: its jobs and the PKE work inside jobs of other engines; operand memory (Table 9-22). -/
def dropPke (s : State) : State :=
  let s := faultJobs (s.jobs.filter (fun j => engineOf j.op == .pke || usesPke j)) s
  let s := dropUnits (fun o => match o with | .pke _ _ => true | _ => false) s
  { s with pke := { s.pke with window := [], blocks := Vector.replicate 6 none, idleSince := Vector.replicate 6 0 },
           arbs := vmod s.arbs (engineIx .pke) (fun a => { a with chosen := none }) }

/-- DIG (Table 10-7). -/
def dropDig (s : State) : State :=
  let s := resetDig (faultJobs (engineJobs s .dig) s)
  dropUnits (fun o => match o with | .digJob _ | .digDrain _ => true | _ => false) s

/-- ING (Table 11-16). -/
def dropIng (s : State) : State :=
  let s := dropUnits strmUnit (abandonPass (faultJobs (engineJobs s .ing) s))
  { s with ing := { s.ing with hbm := [], stale := 0 },
           arbs := vmod s.arbs (engineIx .ing) (fun a => { a with chosen := none }) }

/-- The burn on the path stops after its pulse; what it belongs to ends with ST_FAULT. -/
def stopBurn (s : State) : State :=
  match s.otp.run with
  | none => s
  | some b =>
    if b.stopped then s
    else
      let s := { s with otp := { s.otp with run := some { b with stopped := true } } }
      burnEnded { owner := b.owner, status := .fault, left := 0, most := b.mostPulses + 1 } s

/-- OTP (Table 5-14): its own job ends now, a burn of another engine ends as failed; LAST_STATUS is cleared (R33). -/
def dropOtp (s : State) : State :=
  let s := stopBurn (faultJobs (engineJobs s .otp) s)
  let s := dropUnits (fun o => match o with | .otpRead _ => true | _ => false) s
  { s with otp := { s.otp with lastStatus := 0 } }

/-- Burns whose owner is gone: the one in progress stops after its pulse, the others leave the queue. -/
def dropBurns (keep : State → Burn → Bool) (s : State) : State :=
  { s with otp := { s.otp with
    run := s.otp.run.map (fun b => if keep s b then b else { b with stopped := true }),
    queue := s.otp.queue.filter (keep s) } }

/-- SEQ: a transition whose field burn had begun stays committed, with the life-cycle hold; otherwise the hold falls
(R190, R191). A CONFIRM in progress is left to its retry (R259). -/
def dropSeq (s : State) : State :=
  let js := engineJobs s .seq
  let lc := js.any (fun j => j.op == .lcTransition || j.op == .lcDebugOpen)
  let begun := s.lc.step == 6 && (s.otp.run.isSome || fieldAny (otpLive s) s.lc.target.toNat)
  let s := if !lc then s
    else if begun && js.any (fun j => j.op == .lcTransition) then
      { s with lc := { s.lc with committed := some s.lc.target, kdWait := 0 } }
    else { s with lc := { s.lc with hold := s.lc.committed.isSome, kdWait := 0 } }
  let confirm := confirmOnPath s
  let s := dropBurns (fun s b => burnWanted s b && b.owner != .confirm) (faultJobs js s)
  let s := { s with core := { s.core with
    toFull := s.core.toFull.map (fun t => if t.job.any (fun id => (s.job? id).isNone) then { t with job := none } else t) } }
  if confirm then finishConfirm false s else s

/-- KEYS: the slot array is kept (Table 1-5). -/
def dropKeys (s : State) : State := dropBurns burnWanted (faultJobs (engineJobs s .keys) s)

/-- PART (R34, R366, Table 12-23): a swap not yet armed is discarded and its teardown repeated after the reset, an armed
one is left to the units; the session and the shadow build end, and PART_SWAP completes with ST_STATE. -/
def dropPart (s : State) : State :=
  let js := engineJobs s .part
  let s := (js.filter (fun j => j.op == .partSwap)).foldl (fun s j => finishJob j .state noWords s) s
  let s := faultJobs (js.filter (fun j => j.op != .partSwap)) s
  let clear (s : State) : State := fbAll 2 0 { s with part := { s.part with shadow := [] } }
  let had := s.part.session.isSome
  let s := { s with part := { s.part with session := none, armed := none } }
  match s.part.swap with
  | none => if had then clear s else s
  | some w =>
    if w.phase = .armed then { s with part := { s.part with swap := some { w with job := none } } }
    else
      let s := { s with part := { s.part with swap := none } }
      clear (match w.teardown with
        | some n => { s with part := { s.part with retryAt := some (n, s.beat.lbeat) } }
        | none => s)

/-- REC: a compute reset goes on in hardware without its job (Table 13-16). -/
def dropRec (s : State) : State :=
  let s := faultJobs (engineJobs s .recd) s
  let gone (s : State) (id : Nat) : Bool := (s.job? id).isNone
  let s := modCreset (fun c => if c.job.any (gone s) then { c with job := none } else c) s
  { s with cells := s.cells.map (fun x => if x.retest.any (gone s) then { x with retest := none } else x) }

/-- An engine's work is lost at its fault; re-tests of its cells end (R32, R401). -/
def dropWork (e : Engine) (s : State) : State :=
  let s := failRetests e s
  match e with
  | .pke => dropPke s
  | .dig => dropDig s
  | .ing => dropIng s
  | .otp => dropOtp s
  | .seq => dropSeq s
  | .keys => dropKeys s
  | .part => dropPart s
  | .recd => dropRec s
  | .mbx => s

/-! ## Fault, reset and escalation -/

/-- Place of a cause in the list of R31. -/
def engCauseCode : EngCause → Nat
  | .parity => 1 | .microcode => 2 | .timeout => 3 | .busProtocol => 4 | .arbiter => 5 | .initiator => 6

/-- Beats of an engine's faults within 2^24 beats of now, with this one (R35). -/
def faultWindow (s : State) (e : Engine) : List Nat :=
  (s.core.faultBeats[engineIx e]).filter (fun b => decide (lbeat s ≤ b + 2 ^ 24)) ++ [lbeat s]

/-- Set or clear an engine's bit of CORE_STATUS.ENG_RESET. -/
def setEngReset (e : Engine) (on : Bool) (s : State) : State :=
  let b : BitVec 9 := BitVec.ofNat 9 (2 ^ engineNum e)
  { s with core := { s.core with engReset := if on then s.core.engReset ||| b else s.core.engReset &&& ~~~b } }

/-- PKE or DIG is held offline until the next start (Table 1-6). -/
def holdOffline (e : Engine) (cause faults : Nat) (s : State) : State :=
  let s := dropWork e (setEngReset e false s)
  let s := { s with core := { s.core with
    pkeOffline := s.core.pkeOffline || e == .pke, digOffline := s.core.digOffline || e == .dig } }
  let s := hwNote 0x0021 (leBytes 1 (engineNum e) ++ leBytes 1 cause ++ leBytes 1 faults)
    (record { code := 0x0303, object := word (engineNum e) } s)
  raiseCore irqEng s

/-- The third fault within the window escalates (R35, Table 1-6). -/
def escalate (e : Engine) (cause faults : Nat) (s : State) : State :=
  match e with
  | .ing => quarantineStrm 2 s
  | .pke | .dig => holdOffline e cause faults s
  | .otp | .seq | .keys | .part | .recd | .mbx => coreFault 0x04 s

/-- An engine fault (R32 to R36). -/
def engineFault (e : Engine) (cause : EngCause) (s : State) : State :=
  if !ctrlUp s || engOffline s e || (e == .ing && s.core.strmQuar) then s
  else
    let w := faultWindow s e
    let third := decide (3 ≤ w.length)
    let s := { s with core := { s.core with faultBeats := vset s.core.faultBeats (engineIx e) (if third then [] else w) } }
    let s := record { code := 0x0301, object := word (engineNum e), detail := leBytes 1 (engCauseCode cause) } s
    let s := hwNote 0x0020 (leBytes 1 (engineNum e) ++ leBytes 1 (engCauseCode cause) ++ leBytes 1 w.length) s
    let s := raiseCore irqEng s
    if e == .seq && !s.core.startDone then coreFault 0x03 s
    else if third then escalate e (engCauseCode cause) w.length s
    else dropWork e (setEngReset e true s)

/-- ENGINE_FAULT (R31, R32). -/
def execEngineFault (e : Engine) (cause : EngCause) (s : State) : Host.Outcome State Fault Refusal :=
  .next (engineFault e cause s)

/-- What an engine does once out of its reset: a compute reset is completed, the slot decision applied to held cores,
exchanges restarted, burns and units taken up (R32 step 5, R261, R242, Table 13-16). -/
def resumeEngine (e : Engine) (s : State) : State :=
  match e with
  | .recd => if s.recd.creset.ended then finishCreset s else s
  | .seq => pumpOtp (recoverCores s)
  | .keys => restartExchanges s
  | .otp => pumpOtp s
  | .dig => pumpContexts s
  | .pke | .ing | .part | .mbx => s

/-- An engine reset ends: failed cells are retired and the engine resumes (R29, R32, Table 1-8). -/
def endReset (e : Engine) (cellsFailed : List Cell) (s : State) : State :=
  let tested := e != .ing || s.core.power == .full
  let failed := if tested then cellsFailed.filter (fun c => cellEngine c == e && healthy s c) else []
  let s := freshCells e (retireCells failed 4 s)
  let s := record { code := 0x0302, object := word (engineNum e) } (setEngReset e false s)
  placeWaiting (cellsLost (resumeEngine e s))

/-- ENGINE_RESET_DONE (R32). -/
def execEngineResetDone (e : Engine) (cellsFailed : List Cell) (s : State) : Host.Outcome State Fault Refusal :=
  .next (if ctrlUp s && engInReset s e then endReset e cellsFailed s else s)

/-! ## Core fault -/

/-- Cause code of Table 2-19. -/
def coreCauseCode : CoreCause → Nat
  | .ctrlDomain => 1 | .aonDomain => 2 | .keyStore => 5 | .coreArbiter => 6

/-- CORE_FAULT (R43). CTRL causes need CTRL out of reset. -/
def execCoreFault (cause : CoreCause) (s : State) : Host.Outcome State Fault Refusal :=
  .next (if aonUp s && (cause == .aonDomain || !s.core.ctrlReset) then coreFault (coreCauseCode cause) s else s)

/-! ## Microcode stores (R300) -/

/-- MICROCODE_DIGEST_CHECK: at each multiple of 2^24 beats the stores of PKE and DIG are compared with their digests. -/
def execMicrocodeDigestCheck (pkeStoreBad digStoreBad : Bool) (s : State) : Host.Outcome State Fault Refusal :=
  .next (if ctrlUp s && s.boot.mcLoaded && decide (s.beat.lastDigest < lbeat s / 2 ^ 24) then
    let s := { s with beat := { s.beat with lastDigest := lbeat s / 2 ^ 24 } }
    let s := if pkeStoreBad || Config.sha3_384 s.pke.store != s.pke.storeDigest then engineFault .pke .microcode s else s
    if digStoreBad then engineFault .dig .microcode s else s
  else s)

end Sys2Proof.Machine
end

