-- ==== Sys2Proof/Machine/Initiator.lean ====
section
/-! DEFINITION. The fabric initiator's answers (R71 to R74): what each transaction goes on to, and what an error or a
timeout costs its job, its engine or the notice it carried. -/

namespace Sys2Proof.Machine

/-- Take the outstanding transaction of a tag off the port. -/
def takeTxn (tag : BitVec 6) (s : State) : Option (Txn × State) :=
  match s.fi.live.find? (fun t => t.tag == tag) with
  | none => none
  | some t => some (t, { s with fi := { s.fi with live := s.fi.live.filter (fun x => x.tag != tag) } })

/-- Forget a tag whose response no longer matters. -/
def forgetTag (tag : BitVec 6) (s : State) : State :=
  { s with fi := { s.fi with late := s.fi.late.filter (· != tag) } }

/-- What any end of a transaction may set going: held transactions, waiting units, contexts and burns. -/
def goOn (s : State) : State := pumpOtp (placeWaiting (cellsLost (pumpContexts (pumpAll s))))

/-! ## Success -/

/-- A job's buffer has been read. -/
def jobFetched (j : Job) (b : Bytes) (s : State) : State :=
  match j.cls with
  | .pke => pkeInput j b s
  | .dig => digInput j b s
  | .ing => if j.op = .ingPlan then planFetched j b s else envelopeFetched j b s
  | .ctrl =>
    match j.op with
    | .keysImport => createSlot j (cuOf (j.w 0)) b 2 s
    | .keysDerive | .keysSealDerive | .keysInstallerDerive => endDerive j b s
    | .partShadowWrite => shadowFetched j b s
    | .partEvidence => evidenceView j b s
    | .partGroveCollect => collectFetched j b s
    | .lcAuthProve => proveFetched j b s
    | .lcDebugOpen => consentFetched j b s
    | .bootStageData => stageDataRead j b s
    | .bootHandoverPut => handoverRead j b s
    | .bootSecretAccess => secretRead j b s
    | .recDumpRead => dumpFetched j b s
    | _ => s

/-- A job's buffer has been written. -/
def jobStored (j : Job) (st : Status) (ws : Words) (s : State) : State :=
  match j.op with
  | .pkeKemEncaps => encapsStored j s
  | .digSave => saveStored j s
  | .partEvidence => evidenceStored j st ws s
  | .recRead => decideJob j st (wordsOf [word (j.f 2 0 13), s.recd.headSeq.zeroExtend 64]) s
  | .bootHandoverGet => handoverStored j st ws s
  | _ => decideJob j st ws s

/-- A job's transaction has succeeded. -/
def jobTxnDone (id : Nat) (b : Bytes) (s : State) : State :=
  match s.job? id with
  | none => s
  | some j =>
    match j.stage with
    | .fetch => jobFetched j b s
    | .store st ws => jobStored j st ws s
    | .engine => if j.op = .recDumpRead then dumpStored j s else s
    | .ready _ _ => s

/-- A transaction has succeeded. -/
def txnDone (t : Txn) (b : Bytes) (s : State) : State :=
  match t.owner with
  | .job id => jobTxnDone id b s
  | .linkFrame k => if t.write then ringDoorbell k t.len s else frameRead k b s
  | .inboxZero => inboxZeroed s
  | .inboxRead => inboxJudged b s
  | .digSpill i gen => spillDone i gen s
  | .digFill i gen => fillDone i gen b s
  | .contribution => contributed s
  | .stream _ | .linkDoorbell _ | .ringNotice | .groveNotice _ => s

/-- INITIATOR_RESPONSE (R71): read data or write completion of a tag; a response to a transaction that was given up is
discarded. -/
def execInitiatorResponse (tag : BitVec 6) (data : Bytes) (s : State) : Host.Outcome State Fault Refusal :=
  .next (match takeTxn tag s with
    | none => forgetTag tag s
    | some (t, s) => if ctrlUp s then goOn (txnDone t (padTo t.len data) s) else s)

/-! ## Errors (R73) -/

/-- The error is recorded with its address. -/
def noteTxn (t : Txn) (seat : BitVec 8) (op : BitVec 16) (s : State) : State :=
  record { code := 0x0602, seat := seat, part := if seat.toNat < 64 then seat else 0xFF, opcode := op, object := t.addr } s

/-- A seat's access received an error: SEAT_FAULT.INIT_ERR, and the record. -/
def seatError (t : Txn) (n : Seat) (op : BitVec 16) (s : State) : State :=
  raiseFault n faultInit (noteTxn t (stampOf n) op s)

/-- The job of the access ends with ST_BAD_ARGUMENT and has no further effect. -/
def jobTxnFailed (j : Job) (s : State) : State :=
  match loadOf s j.id with
  | some l => failLoad l 0x0B .badArgument s
  | none =>
    if j.cls = .dig then endDig j .badArgument noWords s
    else if j.op = .recDumpRead then decideJob j .badArgument (wordsOf [word j.num]) s
    else dropCollection j.id (failJob { j with bn := .unused, lt := .unused } .badArgument s)

/-- An access of Limcy's own: a core fault during the start, afterwards a fault of its engine (R73). -/
def ownTxnFailed (e : Engine) (s : State) : State :=
  if s.core.startDone then engineFault e .initiator s else coreFault 0x09 s

/-- A load whose stream request was not taken fails with cause 0x0B (Table 11-15). -/
def streamFailed (t : Txn) (id : Nat) (s : State) : State :=
  let s := match seatOfStamp t.obo with
    | some n => seatError t n (opcodeOf .ingLoad) s
    | none => noteTxn t 0xFF (opcodeOf .ingLoad) s
  match loadOf s id with
  | some l => failLoad l 0x0B .badArgument s
  | none => s

/-- A transaction has received an error. -/
def txnFailed (t : Txn) (s : State) : State :=
  match t.owner with
  | .job id =>
    match s.job? id with
    | none => s
    | some j =>
      jobTxnFailed j (if j.detached then noteTxn t 0xFF (opcodeOf j.op) s else seatError t j.seat (opcodeOf j.op) s)
  | .stream id => streamFailed t id s
  | .linkDoorbell k => failExchange k (noteTxn t 0xFF 0 s)
  | .contribution => contributed (noteTxn t 0xFF 0 s)
  | .ringNotice | .groveNotice _ => noteTxn t 0xFF 0 s
  | .linkFrame k => ownTxnFailed .keys (s.modLink k (fun l => { l with reading := false }))
  | .inboxZero | .inboxRead => ownTxnFailed .part s
  | .digSpill i gen | .digFill i gen => contextError i gen (noteTxn t t.obo 0 s)

/-- The transaction of a tag ends with an error. -/
def failTag (tag : BitVec 6) (s : State) : State :=
  match takeTxn tag s with
  | none => forgetTag tag s
  | some (t, s) => if ctrlUp s then goOn (txnFailed t s) else s

/-- INITIATOR_ERROR (R73). -/
def execInitiatorError (tag : BitVec 6) (s : State) : Host.Outcome State Fault Refusal := .next (failTag tag s)

/-- INITIATOR_TIMEOUT (R74): as an error; the tag's late response is still to come. -/
def execInitiatorTimeout (tag : BitVec 6) (s : State) : Host.Outcome State Fault Refusal :=
  .next (if s.fi.live.any (fun t => t.tag == tag) then
    failTag tag { s with fi := { s.fi with late := s.fi.late.filter (· != tag) ++ [tag] } }
  else s)

/-- INITIATOR_LATE_RESPONSE (R74): discarded, and recorded with its tag. -/
def execInitiatorLateResponse (tag : BitVec 6) (s : State) : Host.Outcome State Fault Refusal :=
  .next (if s.fi.late.contains tag then record { code := 0x0603, object := tag.zeroExtend 64 } (forgetTag tag s) else s)

end Sys2Proof.Machine
end

