-- ==== Sys2Proof/Machine/Pldm.lean ====
section
/-! DEFINITION. The PLDM firmware device (R268, Table 8-14). Completion names and the order of the commands are those of
DSP0267, which the manual names and does not print (assumption entry 27). -/

namespace Sys2Proof.Machine

/-! ## Answers and the session -/

/-- A PLDM message leaves. -/
def tell (p : MctpPath) (m : PldmMsg) (s : State) : State := emit (.pldm p m) s

/-- A command ends with a completion code. -/
def complete (p : MctpPath) (name : String) (s : State) : State := tell p (.completion name) s

/-- The firmware device hears a path: after START_DONE (R250), with SEQ out of reset. -/
def pldmHeard (p : MctpPath) (s : State) : Bool :=
  pathOpen s p && ctrlUp s && s.core.startDone && !engInReset s .seq

/-- Run a command when the firmware device hears its path. -/
def pldmRun (p : MctpPath) (go : State → State) (s : State) : Host.Outcome State Fault Refusal :=
  .next (if pldmHeard p s then go s else s)

/-- Set the session. -/
def setPldm (x : Option PldmSession) (s : State) : State := { s with boot := { s.boot with pldm := x } }

/-- The session of this path's agent. -/
def pldmOf (p : MctpPath) (s : State) : Option PldmSession :=
  match s.boot.pldm with
  | some x => if x.seat = pathSeat p then some x else none
  | none => none

/-- A command that needs the agent's session. -/
def inUpdate (p : MctpPath) (go : PldmSession → State → State) (s : State) : State :=
  match pldmOf p s with
  | some x => go x s
  | none => complete p "NOT_IN_UPDATE_MODE" s

/-- The staging session the PLDM session opened. -/
def pldmStage (s : State) : Option StageSession :=
  match s.boot.stage with
  | some g => if g.pldm then some g else none
  | none => none

/-- Cancel acts as BOOT_STAGE_CANCEL (Table 8-14). -/
def dropStage (s : State) : State :=
  if (pldmStage s).isSome then { s with boot := { s.boot with stage := none } } else s

/-! ## Inventory commands -/

/-- QueryDeviceIdentifiers (Table 8-14). -/
def execQueryDeviceIdentifiers (p : MctpPath) (s : State) : Host.Outcome State Fault Refusal :=
  pldmRun p (fun s => tell p (.identifiers Config.ianaEnterprise coreId (serial s)) s) s

/-- GetFirmwareParameters: the active SVN1 and FAMILY, SVN0 and record version (Table 8-14). -/
def execGetFirmwareParameters (p : MctpPath) (s : State) : Host.Outcome State Fault Refusal :=
  pldmRun p (fun s =>
    tell p (.parameters s.keys.svn1 s.keys.family s.boot.svn0 s.boot.cfg.version) s) s

/-! ## Opening a session and naming components -/

/-- The agent's seat holds a role of Table 8-11 with which it may stage component 1, 2 or 3. -/
def agentRole (s : State) (n : Seat) : Bool := componentRole s n 1 || componentRole s n 3

/-- RequestUpdate: opens the session (Table 8-14). -/
def onRequestUpdate (p : MctpPath) (maxTransfer : Nat) (s : State) : State :=
  if s.boot.pldm.isSome then complete p "ALREADY_IN_UPDATE_MODE" s
  else if !agentRole s (pathSeat p) || s.boot.stage.isSome || !bootLc s then complete p "UNABLE_TO_INITIATE_UPDATE" s
  else if maxTransfer < 32 then complete p "ERROR_INVALID_DATA" s
  else tell p .ok (setPldm (some { seat := pathSeat p, maxTransfer := maxTransfer }) s)

/-- RequestUpdate (R268). -/
def execRequestUpdate (p : MctpPath) (maxTransfer : Nat) (s : State) : Host.Outcome State Fault Refusal :=
  pldmRun p (onRequestUpdate p maxTransfer) s

/-- Limcy's component identifiers. -/
def knownComponent (ident : BitVec 16) : Bool := decide (1 ≤ ident.toNat) && decide (ident.toNat ≤ 3)

/-- PassComponentTable: identifiers 1 to 3 are accepted (Table 8-14). -/
def execPassComponentTable (p : MctpPath) (ident : BitVec 16) (s : State) : Host.Outcome State Fault Refusal :=
  pldmRun p (inUpdate p (fun _ => tell p (.componentAccepted ident (knownComponent ident)))) s

/-- Bytes of the next piece (Table 8-14). -/
def pieceLength (x : PldmSession) (g : StageSession) : Nat := min (min 4096 x.maxTransfer) (g.length - g.bytes)

/-- RequestFirmwareData for the next piece goes to the agent, and its beat is kept. -/
def askPiece (p : MctpPath) (x : PldmSession) (s : State) : State :=
  match pldmStage s with
  | some g => tell p (.requestData g.bytes (pieceLength x g)) (setPldm (some { x with asked := some s.beat.lbeat }) s)
  | none => s

/-- UpdateComponent is admitted: the checks of BOOT_STAGE_BEGIN for components 1 to 3. -/
def updateAdmitted (p : MctpPath) (ident : BitVec 16) (len : Nat) (s : State) : Bool :=
  knownComponent ident && componentRole s (pathSeat p) ident.toNat && decide (1 ≤ len)
    && decide (len ≤ componentMax ident.toNat) && bootLc s && stageAdmitted (setPldm none s) ident.toNat

/-- UpdateComponent: BOOT_STAGE_BEGIN, then the first piece is asked for (Table 8-14). -/
def onUpdateComponent (p : MctpPath) (ident : BitVec 16) (len : Nat) (x : PldmSession) (s : State) : State :=
  if x.comp.isSome then complete p "INVALID_STATE_FOR_COMMAND" s
  else if updateAdmitted p ident len s then
    askPiece p { x with comp := some ident }
      (tell p (.componentAccepted ident true) (stageBegin (pathSeat p) true ident.toNat len s))
  else tell p (.componentAccepted ident false) s

/-- UpdateComponent (R268). -/
def execUpdateComponent (p : MctpPath) (ident : BitVec 16) (length : BitVec 32) (s : State) :
    Host.Outcome State Fault Refusal :=
  pldmRun p (inUpdate p (onUpdateComponent p ident length.toNat)) s

/-! ## The pieces -/

/-- FINISH of the staged component, with BOOT_STAGE_FINISH's checks (R266, R267). -/
def finishStatus (n : Seat) (g : StageSession) (s : State) : Status :=
  if !componentRole s n g.component.toNat then .denied
  else if !(bootLc s && finishAdmitted s g) then .state
  else (stageVerdict s g).status

/-- After the last piece: TransferComplete, VerifyComplete after FINISH, ApplyComplete after the state write. -/
def finishComponent (p : MctpPath) (x : PldmSession) (g : StageSession) (s : State) : State :=
  let s := tell p (.transferComplete true) s
  let st := finishStatus (pathSeat p) g s
  let s := tell p (.verifyComplete st) s
  if st = .ok then
    let done := match x.comp with
      | some c => c :: x.finished.filter (fun k => k != c)
      | none => x.finished
    tell p (.applyComplete true)
      (setPldm (some { x with asked := none, comp := none, finished := done }) (stageEnd g s))
  else setPldm (some { x with asked := none }) s

/-- The agent answers RequestFirmwareData; an answer of another length is asked for again. -/
def onPiece (p : MctpPath) (data : Bytes) (x : PldmSession) (s : State) : State :=
  match x.asked, pldmStage s with
  | some _, some g =>
    if data.length ≠ pieceLength x g then askPiece p x s
    else
      let s := stageWrite g data s
      let g' : StageSession := { g with bytes := g.bytes + data.length }
      if g'.bytes < g'.length then askPiece p x s else finishComponent p x g' s
  | _, _ => s

/-- RequestFirmwareData: the agent's answer to Limcy's request. Unasked for, it is dropped. -/
def execRequestFirmwareData (p : MctpPath) (data : Bytes) (s : State) : Host.Outcome State Fault Refusal :=
  pldmRun p (fun s =>
    match pldmOf p s with
    | some x => onPiece p data x s
    | none => s) s

/-! ## Activation, status and cancelling -/

/-- The slot the session staged: the WRITTEN slot, of two the one of the greater generation. -/
def stagedSlot (s : State) : Option Bool :=
  match slotState s false == .written, slotState s true == .written with
  | false, false => none
  | true, false => some false
  | false, true => some true
  | true, true => some (decide (slotGen s false < slotGen s true))

/-- The slot activates as under BOOT_ACTIVATE (Table 8-13 orders 3, 4, 6 and 7). -/
def canActivate (p : MctpPath) (b : Bool) (s : State) : Bool :=
  let h := slotHeader s b
  componentRole s (pathSeat p) 1 && activateAdmitted s b (slotGen s b) && headerOk h && svnAdmitted s h && bodyFits s h
    && imageSigned s h

/-- A staged slot activated, and the completion that tells so. -/
def activateTold (b : Bool) (s : State) : State × String :=
  let r := activate b s
  (r.1, if r.2 == some b then "SUCCESS" else "ERROR")

/-- Activation of the staged slot: the new state and the completion. -/
def activateStaged (p : MctpPath) (s : State) : State × String :=
  match stagedSlot s with
  | none => (s, "ERROR")
  | some b =>
    if canActivate p b s then activateTold b s else (s, "ERROR")

/-- ActivateFirmware: component 1 as BOOT_ACTIVATE, 2 and 3 at the next start; the session ends (Table 8-14). -/
def onActivate (p : MctpPath) (x : PldmSession) (s : State) : State :=
  if x.comp.isSome then complete p "INVALID_STATE_FOR_COMMAND" s
  else if x.finished.isEmpty then complete p "INCOMPLETE_UPDATE" s
  else if x.finished.contains 1 then
    let (s, name) := activateStaged p s
    complete p name (setPldm none s)
  else complete p "SUCCESS" (setPldm none s)

/-- ActivateFirmware (R268). -/
def execActivateFirmware (p : MctpPath) (s : State) : Host.Outcome State Fault Refusal :=
  pldmRun p (inUpdate p (onActivate p)) s

/-- GetStatus (Table 8-14). -/
def execGetStatus (p : MctpPath) (s : State) : Host.Outcome State Fault Refusal :=
  pldmRun p (fun s =>
    tell p (.status s.boot.pldm.isSome (match pldmStage s with
      | some g => g.bytes
      | none => 0)) s) s

/-- CancelUpdateComponent ends the transfer and keeps the session. -/
def onCancelComponent (p : MctpPath) (x : PldmSession) (s : State) : State :=
  if x.comp.isNone then complete p "INVALID_STATE_FOR_COMMAND" s
  else tell p .ok (setPldm (some { x with comp := none, asked := none }) (dropStage s))

/-- CancelUpdateComponent (R268). -/
def execCancelUpdateComponent (p : MctpPath) (s : State) : Host.Outcome State Fault Refusal :=
  pldmRun p (inUpdate p (onCancelComponent p)) s

/-- CancelUpdate (R268). -/
def execCancelUpdate (p : MctpPath) (s : State) : Host.Outcome State Fault Refusal :=
  pldmRun p (inUpdate p (fun _ s => tell p .ok (setPldm none (dropStage s)))) s

/-- Command codes of the requests of Table 8-14 in DSP0267. -/
def pldmCodes : List (BitVec 8) := [0x01, 0x02, 0x10, 0x13, 0x14, 0x1A, 0x1B, 0x1C, 0x1D]

/-- Every other command is answered with ERROR_UNSUPPORTED_PLDM_CMD (R268). -/
def execPldmUnsupportedCmd (p : MctpPath) (code : BitVec 8) (s : State) : Host.Outcome State Fault Refusal :=
  pldmRun p (fun s => if pldmCodes.contains code then s else complete p "ERROR_UNSUPPORTED_PLDM_CMD" s) s

/-- The wait for an unanswered RequestFirmwareData is over: 2^27 beats have gone by. -/
def pldmExpired (s : State) : Bool :=
  match s.boot.pldm with
  | some x =>
    match x.asked with
    | some b => decide (b.toNat + 2 ^ 27 ≤ s.beat.lbeat.toNat)
    | none => false
  | none => false

/-- The agent left a RequestFirmwareData unanswered: the session is cancelled (R268). -/
def execPldmSessionTimeout (s : State) : Host.Outcome State Fault Refusal :=
  .next (if pldmExpired s then setPldm none (dropStage s) else s)

end Sys2Proof.Machine
end

