-- ==== Sys2Proof/Machine/Resets.lean ====
section
/-! DEFINITION. Power-on and chip reset (R57, R61, R67, R97, R183, R418, R424): what each loses, what it keeps and how
CTRL leaves reset. -/

namespace Sys2Proof.Machine

/-- The pins at the reset values of their tables; inputs keep what drives them (R57, R62, R100). -/
def resetPins (p : Pins) : Pins :=
  { porAonN := p.porAonN, chipRstN := p.chipRstN, pwrCtrlGood := p.pwrCtrlGood, pwrStrmGood := p.pwrStrmGood,
    cmpQuiesceAck := p.cmpQuiesceAck, cmpReady := p.cmpReady, causeLatched := p.causeLatched,
    causeLatchedValid := p.causeLatchedValid }

/-- A cell after chip reset: the map keeps its retirement, the rest is fresh (R27, R399). -/
def resetCell (x : CellState) : CellState := { retired := x.retired, volatileMap := x.volatileMap }

/-- OTP after chip reset: the array stays, and a pulse in progress ends in AON as the last one (Table 5-14). -/
def resetOtp (o : Otp) : Otp := { array := o.array, run := o.run.map (fun b => { b with stopped := true }) }

/-- REC after chip reset: the heartwood and its AON registers stay (Table 13-12). -/
def resetRecorder (r : Recorder) : Recorder :=
  { heartwood := r.heartwood, genNext := r.genNext, resNext := r.resNext, dropped := r.dropped,
    replayDone := r.replayDone, chainDone := r.chainDone, chainOk := r.chainOk, genFull := r.genFull,
    resFull := r.resFull, tornRepaired := r.tornRepaired, writeErr := r.writeErr, queue := r.queue, last := r.last,
    start := r.start }

/-- CTRL and STRM at their reset values; AON state, the non-volatile memories and what the model itself counts stay
(R58, R424). -/
def resetCtrl (s : State) : State :=
  { now := s.now, draws := s.draws, orders := s.orders, held := s.held, lcauth := s.lcauth, out := s.out,
    nextJob := s.nextJob, pending := s.pending,
    pins := resetPins s.pins, beat := s.beat,
    core := { overLimit := s.core.overLimit, lastWarn := s.core.lastWarn },
    cells := s.cells.map resetCell, seats := s.seats.map (fun p => { nowInfo := p.nowInfo }), otp := resetOtp s.otp,
    boot := { flash := s.boot.flash, expiredWake := s.boot.expiredWake },
    recd := resetRecorder s.recd }

/-- CHIP_RESET (R61): chip_rst_n falls. -/
def execChipReset (s : State) : Host.Outcome State Fault Refusal :=
  .next (if s.pins.porAonN && s.pins.chipRstN then
    let s := resetCtrl s
    { s with pins := { s.pins with chipRstN := false } }
  else { s with pins := { s.pins with chipRstN := false } })

/-- CTRL leaves reset: the start number rises by one (R415), RESET# of the flash rises (R97), and requests that stayed
presented are served (R67). -/
def leaveReset (s : State) : State :=
  serveHeld { s with
    core := { s.core with ctrlReset := false },
    recd := { s.recd with start := s.recd.start + 1 },
    pins := { s.pins with flashReset := false } }

/-- CTRL is in reset and both resets are high. -/
def mayLeave (s : State) : Bool := s.core.ctrlReset && s.pins.porAonN && s.pins.chipRstN

/-- CHIP_RESET_RELEASE (R61): chip_rst_n rises. -/
def execChipResetRelease (s : State) : Host.Outcome State Fault Refusal :=
  let s := { s with pins := { s.pins with chipRstN := true } }
  .next (if mayLeave s then leaveReset s else s)

/-- A pulse cut by the loss of AON power: the bits it burned may read either way at either margin (Table 5-14,
assumption entry 6). -/
def cutPulse (s : State) : State :=
  match s.otp.run with
  | none => s
  | some b =>
    match b.todo with
    | [] => s
    | w :: _ =>
      let mask := (groupMasks w.addr b.single).getD b.group 0 &&& bitsLeft s w
      let (f, s) := drawWord s
      let (g, s) := drawWord s
      let lo : OtpWord := (f ++ f).truncate 72 &&& mask
      let hi : OtpWord := (g ++ g).truncate 72 &&& lo
      let r := otpLive s w.addr
      { s with otp := { s.otp with array := memSet (0, 0) s.otp.array w.addr (r.1 ||| lo, r.2 ||| hi) } }

/-- The record a power loss cut: what it holds is free (R418, assumption entry 6). -/
def tearRecord (s : State) : State :=
  match s.recd.queue with
  | [] => s
  | h :: _ =>
    let res := hwReserved h.kind
    let next := if res then s.recd.resNext else s.recd.genNext
    if (if res then 512 else 15872) ≤ next then s
    else
      { s with draws := s.draws + 1, recd := { s.recd with
        heartwood := memSet 0 s.recd.heartwood (if res then 15872 + next else next) (Config.tornRecord s.draws) } }

/-- Everything but OTP, heartwood and flash is lost (R38, Table 1-9). -/
def powerLost (s : State) : State :=
  { now := s.now, draws := s.draws, orders := s.orders, held := s.held, out := s.out, pending := s.pending,
    nextJob := s.nextJob,
    pins := { resetPins s.pins with porAonN := false },
    core := { power := .off },
    otp := { array := s.otp.array }, boot := { flash := s.boot.flash }, recd := { heartwood := s.recd.heartwood } }

/-- POR_AON_ASSERT (R183): por_aon_n falls or power is removed. -/
def execPorAonAssert (s : State) : Host.Outcome State Fault Refusal :=
  .next (if s.pins.porAonN then powerLost (tearRecord (cutPulse s)) else s)

/-- POR_AON_RISE (R61, R139, R399): AON leaves reset; the beat is NONE in epoch 0; the heartwood is scanned and the map
rebuilt. -/
def execPorAonRise (s : State) : Host.Outcome State Fault Refusal :=
  .next (if s.pins.porAonN then s
    else
      let s := { s with
        pins := { s.pins with porAonN := true }, beat := {}, core := { power := .control, ctrlReset := true } }
      let s := hwPowerOn s
      let s := if s.recd.tornRepaired then hwCondition 1 s else s
      if mayLeave s then leaveReset s else s)

end Sys2Proof.Machine
end

