-- ==== Sys2Proof/Machine/Spdm.lean ====
section
/-! DEFINITION. The SPDM 1.3 responder (R382 to R385, Tables 12-11 and 12-12). Layouts and error names are those of
DSP0274, which the manual names and does not print (assumption entry 26). -/

namespace Sys2Proof.Machine

/-! ## Connections -/

/-- Index of the connection of a path. -/
def pathIx : MctpPath → Fin 2
  | .i3c => 0
  | .pcie => 1

/-- The connection of a path. -/
def spdmConn (p : MctpPath) (s : State) : SpdmConn := s.part.spdm[pathIx p]

/-- Change the connection of a path. -/
def modConn (p : MctpPath) (f : SpdmConn → SpdmConn) (s : State) : State :=
  { s with part := { s.part with spdm := vmod s.part.spdm (pathIx p) f } }

/-- A response leaves. -/
def say (p : MctpPath) (r : SpdmRsp) (s : State) : State := emit (.spdm p r) s

/-- An ERROR response. -/
def sayError (p : MctpPath) (name : String) (s : State) : State := say p (.error name) s

/-- The responder hears a path: after START_DONE (Table 1-14), with PART out of reset. -/
def spdmHeard (p : MctpPath) (s : State) : Bool :=
  pathOpen s p && ctrlUp s && s.core.startDone && !engInReset s .part

/-- Run a request when the responder hears its path. -/
def spdmRun (p : MctpPath) (go : State → State) (s : State) : Host.Outcome State Fault Refusal :=
  .next (if spdmHeard p s then go s else s)

/-- A request that needs the algorithms settled. -/
def settled (p : MctpPath) (go : State → State) (s : State) : State :=
  if (spdmConn p s).algs then go s else sayError p "UnexpectedRequest" s

/-- A request of another SPDM version than 1.3 is turned away (R382). -/
def versioned (p : MctpPath) (v : BitVec 8) (go : State → State) (s : State) : State :=
  if v = 0x13 then go s else sayError p "VersionMismatch" s

/-! ## Version, capabilities, algorithms -/

/-- GET_VERSION carries version 1.0, starts the connection anew and is answered with 1.3 (R382). -/
def onGetVersion (p : MctpPath) (v : BitVec 8) (s : State) : State :=
  if v = 0x10 then say p (.version 0x13) (modConn p (fun _ => { version := true }) s)
  else sayError p "VersionMismatch" s

/-- GET_VERSION (R382). -/
def execGetVersion (p : MctpPath) (v : BitVec 8) (s : State) : Host.Outcome State Fault Refusal :=
  spdmRun p (onGetVersion p v) s

/-- Capability flags of Table 12-11. -/
def capabilityFlags : List String :=
  ["CERT_CAP", "CHAL_CAP", "MEAS_CAP=2", "MEAS_FRESH_CAP", "ENCRYPT_CAP", "MAC_CAP", "KEY_EX_CAP", "CHUNK_CAP"]

/-- GET_CAPABILITIES follows GET_VERSION. -/
def onGetCapabilities (p : MctpPath) (v : BitVec 8) (s : State) : State :=
  if !(spdmConn p s).version then sayError p "UnexpectedRequest" s
  else versioned p v (fun s =>
    say p (.capabilities capabilityFlags 16 4096 65536) (modConn p (fun c => { c with caps := true }) s)) s

/-- GET_CAPABILITIES (Table 12-11). -/
def execGetCapabilities (p : MctpPath) (v : BitVec 8) (s : State) : Host.Outcome State Fault Refusal :=
  spdmRun p (onGetCapabilities p v) s

/-- The one algorithm set of Table 12-11. -/
def algorithmNames : List String :=
  ["ECDSA_ECC_NIST_P384", "SHA_384", "MEAS_SHA3_384", "SECP_384_R1", "AES_256_GCM", "SPDM_KEY_SCHEDULE"]

/-- NEGOTIATE_ALGORITHMS follows GET_CAPABILITIES. -/
def onNegotiate (p : MctpPath) (v : BitVec 8) (s : State) : State :=
  if !(spdmConn p s).caps then sayError p "UnexpectedRequest" s
  else versioned p v (fun s => say p (.algorithms algorithmNames) (modConn p (fun c => { c with algs := true }) s)) s

/-- NEGOTIATE_ALGORITHMS (Table 12-11). -/
def execNegotiateAlgorithms (p : MctpPath) (v : BitVec 8) (s : State) : Host.Outcome State Fault Refusal :=
  spdmRun p (onNegotiate p v) s

/-! ## Certificate slot 0 (R384) -/

/-- The chain of slot 0: present while the identity keys are. -/
def slotZero (s : State) : Option Bytes :=
  if s.keys.l0Done && !s.keys.held then
    some (Config.derChain (ecPublicOf s 2) (ecPublicOf s 4) (bvBytes (Config.sha3_384 ((certBytes s 0x12).getD []))))
  else none

/-- SHA-384 of the chain. -/
def chainHash (chain : Bytes) : BitVec 384 := Config.sha384 chain

/-- Go on with the chain of slot 0; without it, or for another slot, an ERROR. -/
def withChain (p : MctpPath) (slot : BitVec 8) (go : Bytes → State → State) (s : State) : State :=
  if slot ≠ 0 then sayError p "InvalidRequest" s
  else
    match slotZero s with
    | none => sayError p "Unspecified" s
    | some c => go c s

/-- GET_DIGESTS. -/
def onGetDigests (p : MctpPath) (s : State) : State :=
  settled p (withChain p 0 (fun c => say p (.digests (chainHash c)))) s

/-- GET_DIGESTS (R384). -/
def execGetDigests (p : MctpPath) (s : State) : Host.Outcome State Fault Refusal := spdmRun p (onGetDigests p) s

/-- The most bytes of the chain one response carries: DataTransferSize less the header. -/
def portionMax : Nat := 4088

/-- GET_CERTIFICATE: a portion from an offset inside the chain. -/
def onGetCertificate (p : MctpPath) (slot : BitVec 8) (off len : Nat) (s : State) : State :=
  settled p (withChain p slot (fun c s =>
    if c.length ≤ off then sayError p "InvalidRequest" s
    else
      let part := slice c off (min len portionMax)
      say p (.certificate part (c.length - off - part.length)) s)) s

/-- GET_CERTIFICATE (R384). -/
def execGetCertificate (p : MctpPath) (slot : BitVec 8) (off len : Nat) (s : State) : Host.Outcome State Fault Refusal :=
  spdmRun p (onGetCertificate p slot off len) s

/-! ## Signatures -/

/-- A signature with AK0 P-384 over the transcript hash, which DSP0274 defines and the model leaves free. -/
def spdmSign (s : State) : Bytes × State :=
  let (h, s) := drawBytes 48 s
  let (sig, s) := ecdsaDraw p384 (p384Scalar (slotBytes s 4)) h ecdsaTries s
  (padTo 96 sig, s)

/-- PKE can sign with AK0 now. -/
def canSign (s : State) : Bool := s.keys.l0Done && !s.keys.held && !pkeOut s

/-- CHALLENGE. -/
def onChallenge (p : MctpPath) (slot : BitVec 8) (s : State) : State :=
  settled p (withChain p slot (fun c s =>
    if !canSign s then sayError p "Unspecified" s
    else
      let (sig, s) := spdmSign s
      say p (.challengeAuth (chainHash c) sig) s)) s

/-- CHALLENGE (R383). The nonce enters the transcript only. -/
def execChallenge (p : MctpPath) (slot : BitVec 8) (_nonce : Bytes) (s : State) : Host.Outcome State Fault Refusal :=
  spdmRun p (onChallenge p slot) s

/-! ## Measurements (Table 12-12) -/

/-- The measurement blocks that hold what the device already has. -/
def fixedBlock (s : State) (k : Nat) : Option Bytes :=
  match k with
  | 0x01 => if s.boot.mcLoaded then some (bvBytes s.boot.mcMeas) else none
  | 0x02 => if s.boot.running.isSome then some (bvBytes s.boot.imgMeas) else none
  | 0x03 => s.boot.cfgDigest.map (fun d => bvBytes d)
  | 0x50 => if s.keys.endorsed then
      some ((certBytes s 0x11).getD [] ++ (certBytes s 0x12).getD [] ++ (certBytes s 0x15).getD []) else none
  | 0x51 => s.part.lastStatement
  | _ => none

/-- The partition whose token a block is. -/
def tokenBlock (k : Nat) : Option Part := if 0x10 ≤ k ∧ k < 0x50 then some (Fin.ofNat 64 (k - 0x10)) else none

/-- Why a request's blocks cannot be given. -/
inductive NoBlocks where
  | noSuch | notNow
  deriving DecidableEq, Repr

/-- The blocks of an index; a token is issued at the request, with its nonce, and recorded (R378). -/
def blocksOf (k : Nat) (nonce : Bytes) (s : State) : Except NoBlocks (List (BitVec 8 × Bytes)) × State :=
  match tokenBlock k with
  | some n =>
    if !partExists s n then (.error .noSuch, s)
    else if !evidenceOk s then (.error .notNow, s)
    else
      let g := s.part.recs[n].g
      let (token, s) := coseSign (tokenPayload s n nonce (stampNow s)) s
      (.ok [(BitVec.ofNat 8 k, token)], recordToken n token g s)
  | none =>
    let ks := if k = 0xFF then [0x01, 0x02, 0x03, 0x50] else [k]
    let bs := ks.filterMap (fun i => (fixedBlock s i).map (fun b => ((BitVec.ofNat 8 i : BitVec 8), b)))
    if bs.isEmpty then (.error .noSuch, s) else (.ok bs, s)

/-- DMTF value type of a block (Table 12-12). -/
def blockType (k : BitVec 8) : BitVec 8 := if k = 1 ∨ k = 2 then 0x01 else if k = 3 then 0x03 else 0x84

/-- The measurement record of blocks. -/
def measurementRecord (bs : List (BitVec 8 × Bytes)) : Bytes :=
  (bs.map (fun b => [b.1, 0x01#8] ++ leBytes 2 (b.2.length + 3) ++ [blockType b.1] ++ leBytes 2 b.2.length ++ b.2)).flatten

/-- A MEASUREMENTS message as it goes out in chunks. -/
def measurementsMessage (bs : List (BitVec 8 × Bytes)) (nonce sig : Bytes) : Bytes :=
  let r := measurementRecord bs
  [0x13#8, 0x60#8, 0, 0] ++ leBytes 1 bs.length ++ leBytes 3 r.length ++ r ++ nonce ++ [0#8, 0#8] ++ List.replicate 8 0 ++ sig

/-- A response larger than DataTransferSize waits for CHUNK_GET. -/
def sendMeasurements (p : MctpPath) (bs : List (BitVec 8 × Bytes)) (nonce sig : Bytes) (s : State) : State :=
  let m := measurementsMessage bs nonce sig
  if m.length ≤ 4096 then say p (.measurements bs sig) s
  else sayError p "LargeResponse"
    (modConn p (fun c => { c with outHandle := c.outHandle + 1, outNext := 0, outBytes := m }) s)

/-- GET_MEASUREMENTS: an index that names no block is invalid. -/
def onGetMeasurements (p : MctpPath) (index : BitVec 8) (signed : Bool) (nonce : Bytes) (s : State) : State :=
  settled p (fun s =>
    if signed && !canSign s then sayError p "Unspecified" s
    else
      match blocksOf index.toNat (if signed then padTo 32 nonce else []) s with
      | (.error .noSuch, s) => sayError p "InvalidRequest" s
      | (.error .notNow, s) => sayError p "Unspecified" s
      | (.ok bs, s) =>
        let (own, s) := drawBytes 32 s
        let (sig, s) := if signed then spdmSign s else ([], s)
        sendMeasurements p bs own sig s) s

/-- GET_MEASUREMENTS (R384). -/
def execGetMeasurements (p : MctpPath) (index : BitVec 8) (signed : Bool) (nonce : Bytes) (s : State) :
    Host.Outcome State Fault Refusal :=
  spdmRun p (onGetMeasurements p index signed nonce) s

/-! ## Sessions (R383, R385) -/

/-- A session identifier not in use: the requester's half below, a free half of Limcy's above. -/
def sessionId (req : BitVec 16) (w : Word) (s : State) : BitVec 32 :=
  let id (k : Nat) : BitVec 32 := (w.truncate 16 + BitVec.ofNat 16 k) ++ req
  match (List.range 8).find? (fun k => !s.part.sessions.any (fun x => x.id == id k)) with
  | some k => id k
  | none => id 0

/-- KEY_EXCHANGE: the responder authenticates itself; at most four sessions at once. -/
def onKeyExchange (p : MctpPath) (slot : BitVec 8) (req : BitVec 16) (peerKey : Bytes) (s : State) : State :=
  settled p (withChain p slot (fun _ s =>
    if 4 ≤ s.part.sessions.length then sayError p "SessionLimitExceeded" s
    else if !pointOk p384 (0x04#8 :: padTo 96 peerKey) then sayError p "InvalidRequest" s
    else if !canSign s then sayError p "Unspecified" s
    else
      let (d, s) := drawBytes 64 s
      let (h, s) := drawBytes 48 s
      let (w, s) := drawWord s
      let shared := ecdhX p384 (p384Scalar d) (0x04#8 :: padTo 96 peerKey)
      let id := sessionId req w s
      let x : SpdmSession := { id := id, path := p, secret := Config.spdmSecrets shared h }
      let s := { s with part := { s.part with
        sessions := s.part.sessions ++ [x], sessionCount := s.part.sessionCount + 1 } }
      let (sig, s) := spdmSign s
      say p (.keyExchangeRsp id sig) s)) s

/-- KEY_EXCHANGE (R383). -/
def execKeyExchange (p : MctpPath) (slot : BitVec 8) (req : BitVec 16) (peerKey : Bytes) (s : State) :
    Host.Outcome State Fault Refusal :=
  spdmRun p (onKeyExchange p slot req peerKey) s

/-- The session of an identifier on a path. -/
def sessionOf (s : State) (p : MctpPath) (id : BitVec 32) : Option SpdmSession :=
  s.part.sessions.find? (fun x => x.id == id && x.path == p)

/-- A session ends, its secrets zeroized (R385). -/
def closeSession (id : BitVec 32) (s : State) : State :=
  { s with part := { s.part with sessions := s.part.sessions.filter (fun x => x.id != id) } }

/-- FINISH: the requester proves that it holds the handshake secret; a wrong proof ends the session. -/
def onSpdmFinish (p : MctpPath) (id : BitVec 32) (verify : BitVec 384) (s : State) : State :=
  match sessionOf s p id with
  | none => sayError p "InvalidSession" s
  | some x =>
    if x.live then sayError p "UnexpectedRequest" s
    else if Config.spdmFinishMac x.secret = verify then
      say p .finishRsp { s with part := { s.part with
        sessions := s.part.sessions.map (fun y => if y.id = id then { y with live := true } else y) } }
    else sayError p "DecryptError" (closeSession id s)

/-- FINISH (R383). -/
def execSpdmFinish (p : MctpPath) (id : BitVec 32) (verify : BitVec 384) (s : State) : Host.Outcome State Fault Refusal :=
  spdmRun p (onSpdmFinish p id verify) s

/-- END_SESSION. -/
def onEndSession (p : MctpPath) (id : BitVec 32) (s : State) : State :=
  match sessionOf s p id with
  | none => sayError p "InvalidSession" s
  | some x => if x.live then say p .endSessionAck (closeSession id s) else sayError p "UnexpectedRequest" s

/-- END_SESSION (R385). -/
def execEndSession (p : MctpPath) (id : BitVec 32) (s : State) : Host.Outcome State Fault Refusal :=
  spdmRun p (onEndSession p id) s

/-! ## Chunks -/

/-- The request a reassembled message is, by its code. -/
def onMessage (p : MctpPath) (m : Bytes) (s : State) : State :=
  let v : BitVec 8 := m.getD 0 0
  let param1 : BitVec 8 := m.getD 2 0
  let param2 : BitVec 8 := m.getD 3 0
  match getLe m 1 1 with
  | 0x84 => onGetVersion p v s
  | 0xE1 => onGetCapabilities p v s
  | 0xE3 => onNegotiate p v s
  | 0x81 => onGetDigests p s
  | 0x82 => onGetCertificate p param1 (getLe m 4 2) (getLe m 6 2) s
  | 0x83 => onChallenge p param1 s
  | 0xE0 => onGetMeasurements p param2 (param1.getLsbD 0) (slice m 4 32) s
  | 0xE4 => onKeyExchange p param2 (BitVec.ofNat 16 (getLe m 4 2)) (slice m 40 96) s
  | _ => sayError p "UnsupportedRequest" s

/-- CHUNK_SEND: chunks of one handle in order, at most MaxSPDMmsgSize bytes; the last one is answered as the request it
completes. -/
def onChunkSend (p : MctpPath) (handle : BitVec 8) (q : BitVec 16) (last : Bool) (data : Bytes) (s : State) : State :=
  settled p (fun s =>
    let c := spdmConn p s
    let drop := modConn p (fun c => { c with inHandle := 0, inNext := 0, inBytes := [] })
    let inOrder := if q = 0 then true else handle == c.inHandle && q == c.inNext
    let whole := if q = 0 then data else c.inBytes ++ data
    if !inOrder || decide (65536 < whole.length) then sayError p "InvalidRequest" (drop s)
    else if last then onMessage p whole (say p (.chunkSendAck q) (drop s))
    else say p (.chunkSendAck q) (modConn p (fun c => { c with inHandle := handle, inNext := q + 1, inBytes := whole }) s)) s

/-- CHUNK_SEND (R383). -/
def execChunkSend (p : MctpPath) (handle : BitVec 8) (q : BitVec 16) (last : Bool) (data : Bytes) (s : State) :
    Host.Outcome State Fault Refusal :=
  spdmRun p (onChunkSend p handle q last data) s

/-- Bytes of a large response in one chunk: the first one also carries the whole length. -/
def chunkRoom (q : BitVec 16) : Nat := if q = 0 then 4080 else 4084

/-- CHUNK_GET: the next chunk of the large response. -/
def onChunkGet (p : MctpPath) (handle : BitVec 8) (q : BitVec 16) (s : State) : State :=
  settled p (fun s =>
    let c := spdmConn p s
    if c.outBytes.isEmpty || c.outHandle != handle || c.outNext != q then sayError p "InvalidRequest" s
    else
      let rest := c.outBytes.drop (chunkRoom q)
      say p (.chunkResponse q rest.isEmpty (c.outBytes.take (chunkRoom q)))
        (modConn p (fun c => { c with outNext := q + 1, outBytes := rest }) s)) s

/-- CHUNK_GET (R383). -/
def execChunkGet (p : MctpPath) (handle : BitVec 8) (q : BitVec 16) (s : State) : Host.Outcome State Fault Refusal :=
  spdmRun p (onChunkGet p handle q) s

/-- Codes of the supported requests (DSP0274). -/
def supportedCodes : List (BitVec 8) := [0x81, 0x82, 0x83, 0x84, 0x85, 0x86, 0xE0, 0xE1, 0xE3, 0xE4, 0xE5, 0xEC]

/-- Any other request code (R383). -/
def execSpdmUnsupportedRequest (p : MctpPath) (code : BitVec 8) (s : State) : Host.Outcome State Fault Refusal :=
  spdmRun p (fun s => if supportedCodes.contains code then s else sayError p "UnsupportedRequest" s) s

end Sys2Proof.Machine
end

