-- ==== Sys2Proof/Machine/Dispatch.lean ====
section
/-! DEFINITION. The meaning of each command: one arm per constructor, in the order of the table. -/

namespace Sys2Proof.Machine

/-- A command's effect on everything but the queue. -/
def exec (i : Instr) (s : State) : Host.Outcome State Fault Refusal :=
  match i with
  | .porAonRise => Sys2Proof.Machine.execPorAonRise s
  | .porAonAssert => Sys2Proof.Machine.execPorAonAssert s
  | .chipReset => Sys2Proof.Machine.execChipReset s
  | .chipResetRelease => Sys2Proof.Machine.execChipResetRelease s
  | .fuseSense env => Sys2Proof.Machine.execFuseSense env s
  | .startSequence env => Sys2Proof.Machine.execStartSequence env s
  | .seatCmdHdr page rq => Sys2Proof.Machine.execSeatCmdHdr page rq s
  | .seatRelease page rq => Sys2Proof.Machine.execSeatRelease page rq s
  | .seatAbort page rq => Sys2Proof.Machine.execSeatAbort page rq s
  | .seatReset page rq => Sys2Proof.Machine.execSeatReset page rq s
  | .seatFaultClear page rq => Sys2Proof.Machine.execSeatFaultClear page rq s
  | .seatIrqStatusClear page rq => Sys2Proof.Machine.execSeatIrqStatusClear page rq s
  | .seatIrqEnWrite page rq => Sys2Proof.Machine.execSeatIrqEnWrite page rq s
  | .coreIrqStatusClear rq => Sys2Proof.Machine.execCoreIrqStatusClear rq s
  | .coreIrqEnWrite rq => Sys2Proof.Machine.execCoreIrqEnWrite rq s
  | .coreWake rq cellsFailed => Sys2Proof.Machine.execCoreWake rq cellsFailed s
  | .registerWrite a => Sys2Proof.Machine.execRegisterWrite a s
  | .accessErrorResponse a => Sys2Proof.Machine.execAccessErrorResponse a s
  | .beatNowRead rq => Sys2Proof.Machine.execBeatNowRead rq s
  | .beatEventsRead rq => Sys2Proof.Machine.execBeatEventsRead rq s
  | .pkeCountsRead rq => Sys2Proof.Machine.execPkeCountsRead rq s
  | .digCountsRead rq => Sys2Proof.Machine.execDigCountsRead rq s
  | .ingDropRead rq => Sys2Proof.Machine.execIngDropRead rq s
  | .partBlockedRead n rq => Sys2Proof.Machine.execPartBlockedRead n rq s
  | .seatMbxEmptiedRead page upper rq => Sys2Proof.Machine.execSeatMbxEmptiedRead page upper rq s
  | .mbxPost m rq => Sys2Proof.Machine.execMbxPost m rq s
  | .mbxInfoRead m rq => Sys2Proof.Machine.execMbxInfoRead m rq s
  | .mbxEmpty m rq => Sys2Proof.Machine.execMbxEmpty m rq s
  | .bootConfirm rq => Sys2Proof.Machine.execBootConfirm rq s
  | .digWord rq => Sys2Proof.Machine.execDigWord rq s
  | .digLastWord k rq => Sys2Proof.Machine.execDigLastWord k rq s
  | .digDrain => Sys2Proof.Machine.execDigDrain s
  | .partGroveIn7 rq => Sys2Proof.Machine.execPartGroveIn7 rq s
  | .accessFrame path frame => Sys2Proof.Machine.execAccessFrame path frame s
  | .lcauth dr => Sys2Proof.Machine.execLcauth dr s
  | .i3cEntdaa => Sys2Proof.Machine.execI3cEntdaa s
  | .i3cBusFree acked => Sys2Proof.Machine.execI3cBusFree acked s
  | .jobComplete seat cls entry => Sys2Proof.Machine.execJobComplete seat cls entry s
  | .powerSet => Sys2Proof.Machine.execPowerSet s
  | .coreComputeReset => Sys2Proof.Machine.execCoreComputeReset s
  | .cmpQuiesceAck => Sys2Proof.Machine.execCmpQuiesceAck s
  | .cmpQuiesceTimeout => Sys2Proof.Machine.execCmpQuiesceTimeout s
  | .rstComputeHoldEnd => Sys2Proof.Machine.execRstComputeHoldEnd s
  | .cmpReady => Sys2Proof.Machine.execCmpReady s
  | .cmpReadyTimeout => Sys2Proof.Machine.execCmpReadyTimeout s
  | .beatRebase => Sys2Proof.Machine.execBeatRebase s
  | .beatRebaseTimeout => Sys2Proof.Machine.execBeatRebaseTimeout s
  | .beatEdge count lock off => Sys2Proof.Machine.execBeatEdge count lock off s
  | .beatEdgeMissing => Sys2Proof.Machine.execBeatEdgeMissing s
  | .heartbeat => Sys2Proof.Machine.execHeartbeat s
  | .heartwoodCheckpoint => Sys2Proof.Machine.execHeartwoodCheckpoint s
  | .sweepCredit => Sys2Proof.Machine.execSweepCredit s
  | .sensorSample v => Sys2Proof.Machine.execSensorSample v s
  | .pwrStrmGoodRise cellsFailed => Sys2Proof.Machine.execPwrStrmGoodRise cellsFailed s
  | .pwrStrmTimeout => Sys2Proof.Machine.execPwrStrmTimeout s
  | .pwrStrmGoodLoss => Sys2Proof.Machine.execPwrStrmGoodLoss s
  | .pwrCtrlGoodLoss => Sys2Proof.Machine.execPwrCtrlGoodLoss s
  | .cellUnitDone cell ok more => Sys2Proof.Machine.execCellUnitDone cell ok more s
  | .knownAnswerTestDone cell failed => Sys2Proof.Machine.execKnownAnswerTestDone cell failed s
  | .engineFault e cause => Sys2Proof.Machine.execEngineFault e cause s
  | .engineResetDone e cellsFailed => Sys2Proof.Machine.execEngineResetDone e cellsFailed s
  | .strmDomainFault => Sys2Proof.Machine.execStrmDomainFault s
  | .coreFault cause => Sys2Proof.Machine.execCoreFault cause s
  | .heartwoodWrite failedReadBacks => Sys2Proof.Machine.execHeartwoodWrite failedReadBacks s
  | .heartwoodChainCheck => Sys2Proof.Machine.execHeartwoodChainCheck s
  | .microcodeDigestCheck pkeStoreBad digStoreBad => Sys2Proof.Machine.execMicrocodeDigestCheck pkeStoreBad digStoreBad s
  | .initiatorResponse tag data => Sys2Proof.Machine.execInitiatorResponse tag data s
  | .initiatorError tag => Sys2Proof.Machine.execInitiatorError tag s
  | .initiatorTimeout tag => Sys2Proof.Machine.execInitiatorTimeout tag s
  | .initiatorLateResponse tag => Sys2Proof.Machine.execInitiatorLateResponse tag s
  | .streamChunk lane tag first beats data => Sys2Proof.Machine.execStreamChunk lane tag first beats data s
  | .hbmWriteAck lane err => Sys2Proof.Machine.execHbmWriteAck lane err s
  | .sweepReadData chunk => Sys2Proof.Machine.execSweepReadData chunk s
  | .sweepReadError => Sys2Proof.Machine.execSweepReadError s
  | .ingestChunkTimeout tag => Sys2Proof.Machine.execIngestChunkTimeout tag s
  | .kdAck port => Sys2Proof.Machine.execKdAck port s
  | .kdNack port => Sys2Proof.Machine.execKdNack port s
  | .kdAckTimeout port => Sys2Proof.Machine.execKdAckTimeout port s
  | .linkKeyInstall port => Sys2Proof.Machine.execLinkKeyInstall port s
  | .linkKeySwitch port => Sys2Proof.Machine.execLinkKeySwitch port s
  | .linkHelloTimer port => Sys2Proof.Machine.execLinkHelloTimer port s
  | .linkHello port => Sys2Proof.Machine.execLinkHello port s
  | .linkReply port => Sys2Proof.Machine.execLinkReply port s
  | .linkFinish port => Sys2Proof.Machine.execLinkFinish port s
  | .linkReject port => Sys2Proof.Machine.execLinkReject port s
  | .linkExchangeTimeout port => Sys2Proof.Machine.execLinkExchangeTimeout port s
  | .fbShadowCrcResponse u crc => Sys2Proof.Machine.execFbShadowCrcResponse u crc s
  | .fbArmed u => Sys2Proof.Machine.execFbArmed u s
  | .fbLate u => Sys2Proof.Machine.execFbLate u s
  | .fbArmDeadline => Sys2Proof.Machine.execFbArmDeadline s
  | .fbDisarmed u => Sys2Proof.Machine.execFbDisarmed u s
  | .swapBeat => Sys2Proof.Machine.execSwapBeat s
  | .fbSwapped u beat => Sys2Proof.Machine.execFbSwapped u beat s
  | .fbSwappedLate u beat => Sys2Proof.Machine.execFbSwappedLate u beat s
  | .fbScrubDone u number => Sys2Proof.Machine.execFbScrubDone u number s
  | .fbScrubFailed u number => Sys2Proof.Machine.execFbScrubFailed u number s
  | .fbBlockedCount u count => Sys2Proof.Machine.execFbBlockedCount u count s
  | .blockedPoll => Sys2Proof.Machine.execBlockedPoll s
  | .teardownSwapRetry => Sys2Proof.Machine.execTeardownSwapRetry s
  | .groveCollectionBeat => Sys2Proof.Machine.execGroveCollectionBeat s
  | .groveWaitEnd => Sys2Proof.Machine.execGroveWaitEnd s
  | .trialTimerExpiry => Sys2Proof.Machine.execTrialTimerExpiry s
  | .ctrPendingRetry => Sys2Proof.Machine.execCtrPendingRetry s
  | .roleLapse seat => Sys2Proof.Machine.execRoleLapse seat s
  | .nonceExpiry seat consent => Sys2Proof.Machine.execNonceExpiry seat consent s
  | .pldmSessionTimeout => Sys2Proof.Machine.execPldmSessionTimeout s
  | .otpPulseDone p => Sys2Proof.Machine.execOtpPulseDone p s
  | .otpRead => Sys2Proof.Machine.execOtpRead s
  | .otpProgram => Sys2Proof.Machine.execOtpProgram s
  | .otpLock => Sys2Proof.Machine.execOtpLock s
  | .otpRepair => Sys2Proof.Machine.execOtpRepair s
  | .otpCtrAdvance => Sys2Proof.Machine.execOtpCtrAdvance s
  | .lcAuthBegin => Sys2Proof.Machine.execLcAuthBegin s
  | .lcAuthProve => Sys2Proof.Machine.execLcAuthProve s
  | .lcAuthEnd => Sys2Proof.Machine.execLcAuthEnd s
  | .lcTransition => Sys2Proof.Machine.execLcTransition s
  | .lcDebugOpen => Sys2Proof.Machine.execLcDebugOpen s
  | .lcDebugClose => Sys2Proof.Machine.execLcDebugClose s
  | .lcDebugPolicy => Sys2Proof.Machine.execLcDebugPolicy s
  | .bootStageBegin => Sys2Proof.Machine.execBootStageBegin s
  | .bootStageData => Sys2Proof.Machine.execBootStageData s
  | .bootStageFinish => Sys2Proof.Machine.execBootStageFinish s
  | .bootStageCancel => Sys2Proof.Machine.execBootStageCancel s
  | .bootActivate => Sys2Proof.Machine.execBootActivate s
  | .bootHandoverPut => Sys2Proof.Machine.execBootHandoverPut s
  | .bootHandoverGet => Sys2Proof.Machine.execBootHandoverGet s
  | .bootConfigCommit => Sys2Proof.Machine.execBootConfigCommit s
  | .bootSecretAccess => Sys2Proof.Machine.execBootSecretAccess s
  | .keysGenerate => Sys2Proof.Machine.execKeysGenerate s
  | .keysImport => Sys2Proof.Machine.execKeysImport s
  | .keysExport => Sys2Proof.Machine.execKeysExport s
  | .keysDerive => Sys2Proof.Machine.execKeysDerive s
  | .keysSealDerive => Sys2Proof.Machine.execKeysSealDerive s
  | .keysInstallerDerive => Sys2Proof.Machine.execKeysInstallerDerive s
  | .keysFree => Sys2Proof.Machine.execKeysFree s
  | .keysInfo => Sys2Proof.Machine.execKeysInfo s
  | .keysCertRead => Sys2Proof.Machine.execKeysCertRead s
  | .keysRootProvision => Sys2Proof.Machine.execKeysRootProvision s
  | .keysLinkRestart => Sys2Proof.Machine.execKeysLinkRestart s
  | .pkeSign => Sys2Proof.Machine.execPkeSign s
  | .pkeVerify => Sys2Proof.Machine.execPkeVerify s
  | .pkeHybridSign => Sys2Proof.Machine.execPkeHybridSign s
  | .pkeHybridVerify => Sys2Proof.Machine.execPkeHybridVerify s
  | .hybridSecondPart => Sys2Proof.Machine.execHybridSecondPart s
  | .pkeEcdh => Sys2Proof.Machine.execPkeEcdh s
  | .pkeKemEncaps => Sys2Proof.Machine.execPkeKemEncaps s
  | .pkeKemDecaps => Sys2Proof.Machine.execPkeKemDecaps s
  | .pkePublic => Sys2Proof.Machine.execPkePublic s
  | .pkeRsaSign => Sys2Proof.Machine.execPkeRsaSign s
  | .pkeRsaVerify => Sys2Proof.Machine.execPkeRsaVerify s
  | .pkeCurveLoad => Sys2Proof.Machine.execPkeCurveLoad s
  | .pkeCurveClear => Sys2Proof.Machine.execPkeCurveClear s
  | .digOpen => Sys2Proof.Machine.execDigOpen s
  | .digAbsorb => Sys2Proof.Machine.execDigAbsorb s
  | .digFinal => Sys2Proof.Machine.execDigFinal s
  | .digCompare => Sys2Proof.Machine.execDigCompare s
  | .digSave => Sys2Proof.Machine.execDigSave s
  | .digRestore => Sys2Proof.Machine.execDigRestore s
  | .digAbort => Sys2Proof.Machine.execDigAbort s
  | .ingPlan => Sys2Proof.Machine.execIngPlan s
  | .ingLoad => Sys2Proof.Machine.execIngLoad s
  | .ingPlanFree => Sys2Proof.Machine.execIngPlanFree s
  | .ingShardInfo => Sys2Proof.Machine.execIngShardInfo s
  | .ingSweepSet => Sys2Proof.Machine.execIngSweepSet s
  | .ingKeyDrop => Sys2Proof.Machine.execIngKeyDrop s
  | .partCreate => Sys2Proof.Machine.execPartCreate s
  | .partDestroy => Sys2Proof.Machine.execPartDestroy s
  | .partShadowBegin => Sys2Proof.Machine.execPartShadowBegin s
  | .partShadowWrite => Sys2Proof.Machine.execPartShadowWrite s
  | .partSwap => Sys2Proof.Machine.execPartSwap s
  | .partShadowCancel => Sys2Proof.Machine.execPartShadowCancel s
  | .partEvidence => Sys2Proof.Machine.execPartEvidence s
  | .partGroveCollect => Sys2Proof.Machine.execPartGroveCollect s
  | .partClearRetry => Sys2Proof.Machine.execPartClearRetry s
  | .recRead => Sys2Proof.Machine.execRecRead s
  | .recClear => Sys2Proof.Machine.execRecClear s
  | .recHwRead => Sys2Proof.Machine.execRecHwRead s
  | .recRetest => Sys2Proof.Machine.execRecRetest s
  | .recDumpRead => Sys2Proof.Machine.execRecDumpRead s
  | .getVersion path version => Sys2Proof.Machine.execGetVersion path version s
  | .getCapabilities path version => Sys2Proof.Machine.execGetCapabilities path version s
  | .negotiateAlgorithms path version => Sys2Proof.Machine.execNegotiateAlgorithms path version s
  | .getDigests path => Sys2Proof.Machine.execGetDigests path s
  | .getCertificate path slot offset length => Sys2Proof.Machine.execGetCertificate path slot offset length s
  | .challenge path slot nonce => Sys2Proof.Machine.execChallenge path slot nonce s
  | .getMeasurements path index signed nonce => Sys2Proof.Machine.execGetMeasurements path index signed nonce s
  | .keyExchange path slot reqSession peer => Sys2Proof.Machine.execKeyExchange path slot reqSession peer s
  | .spdmFinish path session verify => Sys2Proof.Machine.execSpdmFinish path session verify s
  | .endSession path session => Sys2Proof.Machine.execEndSession path session s
  | .chunkSend path handle seqNo last data => Sys2Proof.Machine.execChunkSend path handle seqNo last data s
  | .chunkGet path handle seqNo => Sys2Proof.Machine.execChunkGet path handle seqNo s
  | .spdmUnsupportedRequest path code => Sys2Proof.Machine.execSpdmUnsupportedRequest path code s
  | .queryDeviceIdentifiers path => Sys2Proof.Machine.execQueryDeviceIdentifiers path s
  | .getFirmwareParameters path => Sys2Proof.Machine.execGetFirmwareParameters path s
  | .requestUpdate path maxTransfer => Sys2Proof.Machine.execRequestUpdate path maxTransfer s
  | .passComponentTable path ident => Sys2Proof.Machine.execPassComponentTable path ident s
  | .updateComponent path ident length => Sys2Proof.Machine.execUpdateComponent path ident length s
  | .requestFirmwareData path data => Sys2Proof.Machine.execRequestFirmwareData path data s
  | .activateFirmware path => Sys2Proof.Machine.execActivateFirmware path s
  | .getStatus path => Sys2Proof.Machine.execGetStatus path s
  | .cancelUpdateComponent path => Sys2Proof.Machine.execCancelUpdateComponent path s
  | .cancelUpdate path => Sys2Proof.Machine.execCancelUpdate path s
  | .pldmUnsupportedCmd path code => Sys2Proof.Machine.execPldmUnsupportedCmd path code s
  | .predictedEdge => Sys2Proof.Machine.execPredictedEdge s
  | .keysLinkRx rq => Sys2Proof.Machine.execKeysLinkRx rq s

end Sys2Proof.Machine
end

