-- ==== Sys2Proof/Machine/Outputs.lean ====
section
/-! DEFINITION. Output pins that follow the rest of the state: the interrupt lines (R99, R429, R433) and the enables of
the debug gate (R95, Table 2-17, Table 2-20). -/

namespace Sys2Proof.Machine

/-- irq_host; in Watch the lines are held at their value on entry. -/
def irqHost (s : State) : Bool := if inWatch s then s.core.irqHeld.1 else isPending (s.seat host)

/-- irq_mgmt. -/
def irqMgmt (s : State) : Bool := if inWatch s then s.core.irqHeld.2.1 else isPending (s.seat mgmt)

/-- irq_part: bit n for partition seat n. -/
def irqPart (s : State) (n : Part) : Bool :=
  if inWatch s then s.core.irqHeld.2.2.getLsbD n.val else isPending (s.seat (seatNo n.val))

/-- dbg_scan_en: maker debug, and only while fw_scan_allow is 1. -/
def dbgScanEn (s : State) : Bool := s.lc.level == 3 && s.fw.scanAllow && !inWatch s

/-- dbg_oper_en: operator debug. -/
def dbgOperEn (s : State) : Bool := s.lc.level == 2 && !inWatch s

/-- dbg_prof_en: bit n for tenant profiling of partition n, 0 for a confidential one. -/
def dbgProfEn (s : State) (n : Part) : Bool := s.lc.prof.getLsbD n.val && !s.part.recs[n].conf && !inWatch s

end Sys2Proof.Machine
end

