-- ==== Sys2Proof/Safety.lean ====
section
/-! DEFINITION. What counts as a sound state: the canonical form of every memory, the order of the two margins of a
fuse word, and the bound of the event log. -/

namespace Sys2Proof

open Machine

/-- Every bit of x is a bit of y. -/
def Within (x y : OtpWord) : Prop := x &&& ~~~y = 0

/-- The invariant of every step: the memories are in canonical form, a fuse bit that reads one at the high margin
reads one at the low margin (R163), and the log holds at most 4,096 records (R411). -/
structure Sound (s : State) : Prop where
  fuses : memWf (0, 0) s.otp.array = true
  margins : ∀ a, Within (otpLive s a).2 (otpLive s a).1
  sense : memWf (0, 0) s.otp.sense = true
  flash : memWf 0xFF s.boot.flash = true
  window : memWf 0 s.pke.window = true
  heartwood : memWf 0 s.recd.heartwood = true
  log : s.recd.recs.length ≤ 4096

/-! ## The non-volatile memories -/

/-- The commands that may change a fuse word: the end of a pulse, the bits found drifted at the start sense, the
pulses of the start, and a loss of power that cuts a pulse. -/
def changesFuses : Instr → Bool
  | .porAonAssert | .fuseSense .. | .startSequence .. | .otpPulseDone .. => true
  | _ => false

/-- The commands that may write a heartwood record: the queued write, power-on and power loss, the start, and what may
carry a life-cycle transition or a key erasure forward. -/
def writesHeartwood : Instr → Bool
  | .porAonRise | .porAonAssert | .chipResetRelease | .startSequence .. | .seatCmdHdr .. | .seatRelease ..
    | .seatAbort .. | .seatReset .. | .seatFaultClear .. | .seatIrqStatusClear .. | .seatIrqEnWrite ..
    | .coreIrqStatusClear .. | .coreIrqEnWrite .. | .coreWake .. | .registerWrite .. | .accessErrorResponse ..
    | .beatNowRead .. | .beatEventsRead .. | .pkeCountsRead .. | .digCountsRead .. | .ingDropRead ..
    | .partBlockedRead .. | .seatMbxEmptiedRead .. | .mbxPost .. | .mbxInfoRead .. | .mbxEmpty ..
    | .bootConfirm .. | .digWord .. | .digLastWord .. | .partGroveIn7 .. | .accessFrame .. | .lcauth ..
    | .cellUnitDone .. | .knownAnswerTestDone .. | .engineFault .. | .engineResetDone .. | .heartwoodWrite ..
    | .microcodeDigestCheck .. | .initiatorResponse .. | .initiatorError .. | .initiatorTimeout .. | .kdAck ..
    | .ctrPendingRetry
    | .otpPulseDone .. | .otpProgram | .otpLock | .otpRepair | .otpCtrAdvance | .lcTransition | .lcDebugOpen
    | .lcDebugPolicy | .bootConfigCommit | .keysRootProvision | .keysLinkRx .. => true
  | _ => false

/-- The commands that may program or erase flash: the start, staging, activation, handover and confirmation, what may
end one of them, and accesses, which may end a trial or confirm a slot. -/
def programsFlash : Instr → Bool
  | .porAonRise | .chipResetRelease | .startSequence .. | .seatCmdHdr .. | .seatRelease .. | .seatAbort ..
    | .seatReset .. | .seatFaultClear .. | .seatIrqStatusClear .. | .seatIrqEnWrite .. | .coreIrqStatusClear ..
    | .coreIrqEnWrite .. | .coreWake .. | .registerWrite .. | .accessErrorResponse .. | .beatNowRead ..
    | .beatEventsRead .. | .pkeCountsRead .. | .digCountsRead .. | .ingDropRead .. | .partBlockedRead ..
    | .seatMbxEmptiedRead .. | .mbxPost .. | .mbxInfoRead .. | .mbxEmpty .. | .bootConfirm .. | .digWord ..
    | .digLastWord .. | .partGroveIn7 .. | .accessFrame .. | .lcauth .. | .cellUnitDone ..
    | .knownAnswerTestDone .. | .engineFault .. | .engineResetDone ..
    | .microcodeDigestCheck .. | .initiatorResponse .. | .initiatorError .. | .initiatorTimeout .. | .kdAck ..
    | .trialTimerExpiry | .ctrPendingRetry | .otpPulseDone .. | .otpProgram | .otpLock | .otpRepair
    | .otpCtrAdvance | .lcTransition | .lcDebugPolicy | .bootStageBegin | .bootStageFinish | .bootActivate
    | .bootHandoverPut | .bootHandoverGet | .bootConfigCommit | .bootSecretAccess | .keysRootProvision
    | .updateComponent .. | .requestFirmwareData .. | .activateFirmware .. | .keysLinkRx .. => true
  | _ => false

/-! ## The hypotheses the statements share -/

/-- A request of seat n reaches CTRL, out of reset and out of Watch, as an aligned 64-bit access (R67, R69, R104). -/
structure Served (n : Seat) (rq : Req) (s : State) : Prop where
  up : s.core.ctrlReset = false
  awake : inWatch s = false
  src : rq.src = stampOf n
  wide : rq.wide = true
  low : rq.low = 0

/-- The port answers a request without error, with this read data (R67). -/
def answered (rq : Req) (data : Word) (s : State) : State :=
  { s with rsp := { valid := true, err := false, rdata := data, src := rq.src, id := rq.id } }

/-- The arbiter's turn (R114) stands at a job of operation o, which becomes the started job j in state u. -/
def Turn (o : Op) (s : State) (j : Job) (u : State) : Prop := startNext o true s = some (j, u)

/-- PKE's chosen job (R285) is of operation o and a block of its governing kind is free for it; it becomes the started
job j in state u. -/
def PkeTurn (o : Op) (s : State) (j : Job) (u : State) : Prop :=
  mayStart s .pke = true ∧ ∃ n i,
    let v := choosePke s
    v.arbs[engineIx .pke].chosen = some n ∧ oldestQueued (v.seat n) .pke = some i ∧ (v.seat n).entries[i].op = o
    ∧ blockReady v o (fld ((v.seat n).entries[i].args.toList.getD 0 0) 16 8) = true
    ∧ startEntry n i { v with arbs := vmod v.arbs (engineIx .pke) (fun a => chosenStarted a n) } = (j, u)

/-- The turn of the digest engine (R114, R321) stands at a seat with no yielded job whose eligible job is of operation
o; it becomes the started job j in state u. -/
def DigTurn (o : Op) (s : State) (j : Job) (u : State) : Prop :=
  mayStart s .dig = true ∧ pipeFree s = true ∧ ∃ n a i,
    arbTurn s .dig (digWork s) = some (n, a) ∧ yielded s n = none ∧ digEligible s n = some i
    ∧ (s.seat n).entries[i].op = o ∧ startEntry n i { s with arbs := vset s.arbs (engineIx .dig) a } = (j, u)

/-- ING gives seat n the turn, with arbiter a from then on (R346): a chosen ING_LOAD waits for a lane while other
commands pass it, and no later ING_LOAD does. -/
def IngChoice (o : Op) (s : State) (n : Seat) (a : Arb) : Prop :=
  let c := s.arbs[engineIx .ing]
  let has (m : Seat) : Bool := (oldestQueued (s.seat m) .ing).isSome
  let pick (c : Arb) (p : Seat → Bool) : Option (Seat × Arb) := arbPick c (fun m => weightOf s m .ing) p
  let passing (m : Seat) : Bool := has m && !loadNext s m
  (o = .ingLoad ∧ loadWaits s = some n ∧ (freeLane s).isSome = true ∧ a = { c with chosen := none })
  ∨ (o ≠ .ingLoad ∧ (loadWaits s).isSome = true ∧ ∃ a', pick c passing = some (n, a') ∧ a = { a' with chosen := c.chosen })
  ∨ (loadWaits s = none ∧ ∃ a', pick c has = some (n, a') ∧ (loadNext s n && (freeLane s).isNone) = false
      ∧ a = { a' with chosen := none })
  ∨ (loadWaits s = none ∧ ∃ m a' a'', pick c has = some (m, a') ∧ (loadNext s m && (freeLane s).isNone) = true
      ∧ pick { a' with chosen := some m } passing = some (n, a'') ∧ a = { a'' with chosen := some m })

/-- ING starts the oldest job of the chosen seat, of operation o, as job j in state u. -/
def IngTurn (o : Op) (s : State) (j : Job) (u : State) : Prop :=
  mayStart s .ing = true ∧ ∃ n a i, IngChoice o s n a ∧ oldestQueued (s.seat n) .ing = some i
    ∧ (s.seat n).entries[i].op = o ∧ startEntry n i { s with arbs := vset s.arbs (engineIx .ing) a } = (j, u)

/-- Every check of an ordered list passes. -/
def Passes (cs : List (Bool × Status)) : Prop := ∀ c ∈ cs, c.1 = true

/-- A command with a check order: past every check it has its effect; otherwise the first check that fails decides the
status it is refused with (as R439 says of its three commands and the tables of check orders of the others). -/
structure Admits (c : Instr) (s : State) (checks : List (Bool × Status)) (effect : State) (refuse : Status → State) :
    Prop where
  runs : Passes checks → exec c s = .next effect
  fails : ∀ st, firstFail checks = some st → exec c s = .next (refuse st)

end Sys2Proof
end

