-- ==== Sys2Proof/Certificates/Slice0/Obligations.lean ====
section
/-! DEFINITION. The statements about the model, for the provers. -/

open Sys2Proof Sys2Proof.Machine

/-! ## The queue, reset and what every step keeps -/

/-- A step takes the command at the front of the queue and is exec of it on the state with the queue's rest. -/
def Obligations.StepRunsFrontCommand : Prop :=
  ∀ (c : Instr) (cs : List Instr) (s : State), s.pending = c :: cs → step s = exec c { s with pending := cs }

/-- On an empty queue one CTRL cycle passes and nothing else changes. The model's choice: assumption entry 1. -/
def Obligations.EmptyQueueLetsOneCyclePass : Prop :=
  ∀ s : State, s.pending = [] → step s = .next { s with now := s.now + Config.ctrlCycle }

/-- First in, first out: a command changes the queue in no way, so a step leaves exactly the commands behind the one
it took. -/
def Obligations.CommandsLeaveTheQueue : Prop :=
  (∀ (c : Instr) (s t : State), exec c s = .next t → t.pending = s.pending)
    ∧ ∀ (c : Instr) (cs : List Instr) (s t : State), s.pending = c :: cs → step s = .next t → t.pending = cs

/-- No command is refused, and a command stops in one case only: an answer of a firewall unit or of a link port that
arrives in Watch, where those ports are idle (R102). Where a rule leaves room, the model's reading stands in
assumption entry 2. -/
def Obligations.OnlyIdlePortAnswersStop : Prop :=
  ∀ (c : Instr) (s : State),
    (∃ t, exec c s = .next t) ∨
      (inWatch s = true ∧ exec c s = .fault .portIdle ∧
        ((∃ u crc, c = .fbShadowCrcResponse u crc) ∨ (∃ u, c = .fbArmed u) ∨ (∃ u, c = .fbLate u)
          ∨ (∃ u, c = .fbDisarmed u) ∨ (∃ u b, c = .fbSwapped u b) ∨ (∃ u b, c = .fbSwappedLate u b)
          ∨ (∃ u k, c = .fbScrubDone u k) ∨ (∃ u k, c = .fbScrubFailed u k) ∨ (∃ u k, c = .fbBlockedCount u k)
          ∨ (∃ k, c = .kdAck k) ∨ (∃ k, c = .kdNack k)))

/-- The state after reset. Control is the power state shown, CTRL is in reset, the STRM supply is not asked for and
STRM is isolated; nothing has started and nothing is fatal; the beat is NONE in epoch 0 at count 0; no debug level or
profiling is open and no role is held; every seat page, mailbox, key slot, curve slot, plan and partition record is as
empty as its registers' reset values say, no cell is retired, and the event log is empty with 1 as its next first
number. The spec gives the reset values of registers. That the fuses, the flash and the heartwood are blank is the
model's choice (assumption entry 9), and so are the generation 0 of a key slot (entry 12) and the empty queue of
commands. -/
def Obligations.ResetValues : Prop :=
  State.reset.pending = [] ∧ State.reset.core.power = .control ∧ State.reset.core.ctrlReset = true
    ∧ State.reset.pins.pwrStrmReq = false ∧ State.reset.pins.isoStrm = true ∧ State.reset.core.startDone = false
    ∧ State.reset.core.fatal = false ∧ State.reset.beat.mode = .none ∧ State.reset.beat.epoch = 0
    ∧ State.reset.beat.lbeat = 0 ∧ State.reset.lc.level = 0 ∧ State.reset.lc.prof = 0
    ∧ (∀ i : Fin 3, State.reset.lc.auth[i] = {})
    ∧ (∀ n : Seat, State.reset.seat n = {}) ∧ (∀ m : Mbx, State.reset.box m = {})
    ∧ (∀ i : Fin 256, State.reset.keys.slots[i] = {}) ∧ (∀ i : Fin 8, State.reset.pke.curves[i] = {})
    ∧ (∀ i : PlanIx, State.reset.ing.plans[i] = {})
    ∧ (∀ n : Part, State.reset.part.recs[n] = {}) ∧ (∀ c : Cell, State.reset.cells[c].retired = false)
    ∧ State.reset.recd.recs = [] ∧ State.reset.recd.firstSeq = 1 ∧ State.reset.recd.headSeq = 0
    ∧ State.reset.otp.array = [] ∧ State.reset.boot.flash = [] ∧ State.reset.recd.heartwood = []

/-- The invariant holds at reset. -/
def Obligations.ResetIsSound : Prop := Sound State.reset

/-- Every step keeps the invariant: each memory in canonical form, the margins of every fuse word in order, the log
within its 4,096 records. -/
def Obligations.StepsKeepSoundness : Prop := ∀ s t : State, Sound s → step s = .next t → Sound t

/-- A fuse bit that reads one at the high margin reads one there after every step: no command, reset or loss of power
takes a burned bit away. -/
def Obligations.NoStepClearsABurnedFuse : Prop :=
  ∀ (s t : State) (a : Nat), step s = .next t → (otpLive s a).2 &&& ~~~(otpLive t a).2 = 0

/-! ## Register accesses and mailboxes -/

/-- A W1C write clears the written bits and an enable write sets them (R12, R429, R430), in the writing seat's page or
CORE bank alone; the interrupt delivery of seats 66 and 67 follows. A seat without a CORE bank changes nothing. -/
def Obligations.InterruptRegisterWrites : Prop :=
  ∀ (n : Seat) (rq : Req) (s : State), Served n rq s →
    exec (.seatFaultClear n rq) s = .next (answered rq 0
        (s.modSeat n (fun p => { p with fault := p.fault &&& ~~~(rq.data.truncate 6) })))
    ∧ exec (.seatIrqStatusClear n rq) s = .next (answered rq 0
        (modSeatIrq n (fun p => { p with irqStatus := p.irqStatus &&& ~~~(rq.data.truncate 7) }) s))
    ∧ exec (.seatIrqEnWrite n rq) s = .next (answered rq 0
        (modSeatIrq n (fun p => { p with irqEn := rq.data.truncate 7 }) s))
    ∧ exec (.coreIrqStatusClear rq) s = .next (answered rq 0
        (if isHmb n then modSeatIrq n (fun p => { p with coreIrq := p.coreIrq &&& ~~~(rq.data.truncate 19) }) s else s))
    ∧ exec (.coreIrqEnWrite rq) s = .next (answered rq 0
        (if isHmb n then modSeatIrq n (fun p => { p with coreIrqEn := rq.data.truncate 19 }) s else s))

/-- A write of SEAT_CMD_HDR by an existing seat with an implemented opcode and a free entry of its class is accepted
into the lowest free entry: header, sequence number and the seven argument words are copied, and SEAT_ACCEPT names the
entry (R109 to R111). A submission is refused in the order of Table 3-9: by a seat that does not exist with ST_STATE
(and recorded at most once per opcode per 2^10 beats), with an opcode that is not implemented with ST_BAD_OPCODE, with
no free entry while a result of the class waits for release with ST_BUSY and hint 0, and otherwise with ST_BUSY and a
hint of at least 1 and at most 0x7FF, whose value is Limcy's estimate, free in the model (assumption entry 6) (R109,
R119). Nothing enters a queue. -/
def Obligations.SubmissionOutcomes : Prop :=
  (∀ (n : Seat) (rq : Req) (s : State) (o : Op) (e : EntryIx), Served n rq s → seatExists s n = true →
      opOfCode (BitVec.ofNat 16 (fld rq.data 48 16)) = some o → freeEntry (s.seat n) (classOf o) = some e →
      exec (.seatCmdHdr n rq) s = .next (answered rq 0 (afterAccept n o e
        { s.modSeat n (fun p => { p with
            seq := nextSeq p.seq
            accept := word ((nextSeq p.seq).toNat * 2 ^ 32 + classNum (classOf o) * 2 ^ 14 + e.val * 2 ^ 11)
            entries := vset p.entries (entryIx (classOf o) e)
              { st := .queued, op := o, tag := BitVec.ofNat 16 (fld rq.data 32 16), seq := nextSeq p.seq,
                order := s.orders, args := p.args, fifoMark := p.fifoIn } })
          with orders := s.orders + 1 })))
  ∧ (∀ (n : Seat) (rq : Req) (s : State), Served n rq s →
        (seatExists s n = false → exec (.seatCmdHdr n rq) s = .next (answered rq 0
          (recordLimited (.refused n (BitVec.ofNat 16 (fld rq.data 48 16)))
            { code := 0x0701, seat := stampOf n, part := partByte n, status := 0x0012,
              opcode := BitVec.ofNat 16 (fld rq.data 48 16) }
            (s.modSeat n (fun p => { p with accept := word (0x0012 * 2 ^ 16 + 0) })))))
        ∧ (seatExists s n = true → opOfCode (BitVec.ofNat 16 (fld rq.data 48 16)) = none →
            exec (.seatCmdHdr n rq) s = .next (answered rq 0
              (s.modSeat n (fun p => { p with accept := word (0x0010 * 2 ^ 16 + 0) }))))
        ∧ (∀ o, seatExists s n = true → opOfCode (BitVec.ofNat 16 (fld rq.data 48 16)) = some o →
            freeEntry (s.seat n) (classOf o) = none → hasDone (s.seat n) (classOf o) = true →
            exec (.seatCmdHdr n rq) s = .next (answered rq 0
              (s.modSeat n (fun p => { p with accept := word (0x0002 * 2 ^ 16 + 0) }))))
        ∧ (∀ o w t, seatExists s n = true → opOfCode (BitVec.ofNat 16 (fld rq.data 48 16)) = some o →
            freeEntry (s.seat n) (classOf o) = none → hasDone (s.seat n) (classOf o) = false → drawWord s = (w, t) →
            ∃ hint, 1 ≤ hint ∧ hint ≤ 0x7FF ∧ exec (.seatCmdHdr n rq) s = .next (answered rq 0
              (t.modSeat n (fun p => { p with accept := word (0x0002 * 2 ^ 16 + hint) })))))

/-- SEAT_RELEASE frees the completed entry it names by class, entry and TAG: the entry's eight words then read zero
and its SEAT_DONE bit is clear. A word that names a free entry, a wrong TAG or an incomplete job changes nothing and
sets BAD_HANDLE (R122). -/
def Obligations.ReleaseFreesResult : Prop :=
  ∀ (n : Seat) (rq : Req) (s : State), Served n rq s →
    (∀ x, namedJob (s.seat n) rq.data = some x → x.st = .done →
      let i := entryIx (namedClass rq.data) (namedEntry rq.data)
      let t := answered rq 0 (s.modSeat n (fun p => { p with entries := vset p.entries i {} }))
      exec (.seatRelease n rq) s = .next t
      ∧ (∀ k : Fin 8, readSeat n (0x400 + 0x40 * i.val + 8 * k.val) t = 0)
      ∧ (readSeat n 0x0C0 t).getLsbD i.val = false)
    ∧ ((∀ x, namedJob (s.seat n) rq.data = some x → x.st ≠ .done) →
      exec (.seatRelease n rq) s = .next (answered rq 0 (raiseFault n 0x04 s)))

/-- SEAT_ABORT: a queued job is withdrawn with ST_ABORTED, a started abortable one stops, a completed one or a started
one that cannot stop stays, and a word that names no job sets BAD_HANDLE (R123). Where a rule leaves room, the model's
reading stands in assumption entry 96. -/
def Obligations.AbortWithdrawsJob : Prop :=
  ∀ (n : Seat) (rq : Req) (s : State), Served n rq s →
    (namedJob (s.seat n) rq.data = none → exec (.seatAbort n rq) s = .next (answered rq 0 (raiseFault n 0x04 s)))
    ∧ ∀ x, namedJob (s.seat n) rq.data = some x →
      (x.st = .queued → exec (.seatAbort n rq) s = .next (answered rq 0
        (postEntry n (namedClass rq.data) (namedEntry rq.data) .aborted noWords s)))
      ∧ (x.st = .done → exec (.seatAbort n rq) s = .next (answered rq 0 s))
      ∧ (∀ id j, x.st = .started id → s.job? id = some j →
        exec (.seatAbort n rq) s = .next (answered rq 0 (if canAbort s j then pumpOtp (abortJob j s) else s)))

/-- Only 0x5EA7 in bits [15:0] of SEAT_RESET resets the seat; its page is then zero (Table 3-13). Any other value
changes nothing. Where a rule leaves room, the model's reading stands in assumption entry 15. -/
def Obligations.SeatResetNeedsItsKey : Prop :=
  ∀ (n : Seat) (rq : Req) (s : State), Served n rq s →
    (fld rq.data 0 16 ≠ 0x5EA7 → exec (.seatReset n rq) s = .next (answered rq 0 s))
    ∧ (fld rq.data 0 16 = 0x5EA7 → exec (.seatReset n rq) s = .next (answered rq 0
        (placeWaiting (pumpContexts (resetSeat n s)))))

/-- Reads that clear or capture: BEAT_NOW captures a stamp in BEAT_NOW_INFO (R154); BEAT_EVENTS, PKE_COUNTS,
DIG_COUNTS, ING_DROP, PART_BLOCKEDn and SEAT_MBX_EMPTIED return their value and clear it (R12, R14). -/
def Obligations.ClearingReads : Prop :=
  ∀ (n : Seat) (rq : Req) (s : State), Served n rq s →
    exec (.beatNowRead rq) s = .next (answered rq s.beat.lbeat
        (s.modSeat n (fun p => { p with nowInfo := beatInfo s })))
    ∧ exec (.beatEventsRead rq) s = .next (answered rq (beatEvents s.beat)
        { s with beat := { s.beat with missed := 0, offtime := 0, badcount := 0, fwdJumps := 0, backJumps := 0 } })
    ∧ exec (.pkeCountsRead rq) s = .next (answered rq (pkeCounts s.pke)
        { s with pke := { s.pke with validReject := 0, aborted := 0, cellRetry := 0, verifyFail := 0 } })
    ∧ exec (.digCountsRead rq) s = .next (answered rq (digCounts s.dig)
        { s with dig := { s.dig with spills := 0, fills := 0, cellRetry := 0, short := 0 } })
    ∧ exec (.ingDropRead rq) s = .next (if isHmb n then answered rq (ingDrop s.ing)
        { s with ing := { s.ing with dropped := 0, tagFail := 0, rereq := 0 } } else answered rq 0 s)
    ∧ (∀ k : Part, exec (.partBlockedRead k rq) s = .next (if isHmb n || n.val == k.val then
        answered rq ((s.part.blocked[k]).zeroExtend 64)
          { s with part := { s.part with blocked := vset s.part.blocked k 0 } } else answered rq 0 s))
    ∧ exec (.seatMbxEmptiedRead n false rq) s = .next (answered rq (s.seat n).emptied0
        (s.modSeat n (fun p => { p with emptied0 := 0 })))
    ∧ exec (.seatMbxEmptiedRead n true rq) s = .next (answered rq (s.seat n).emptied1
        (s.modSeat n (fun p => { p with emptied1 := 0 })))

/-- A write of MBX_POST by the checks of Table 3-15 in their order: a receiver above 66, a full mailbox, an absent
receiver, a sleeping one with NO_WAIT, a sleeping one, a ready one. SEAT_POST_STATUS holds the mailbox and the status,
the notice takes its pointer from SEAT_POST_PTR, and the write is answered without error (R128). -/
def Obligations.PostStatusAndNotice : Prop :=
  ∀ (n : Seat) (m : Mbx) (rq : Req) (s : State), Served n rq s →
    let recv := fld rq.data 0 7
    let told (st : Nat) : State := s.modSeat n (fun p => { p with postStatus := word (m.val * 2 ^ 16 + st) })
    let notice (waiting : Bool) : Mailbox :=
      { ptr := (s.seat n).postPtr, length := BitVec.ofNat 32 (fld rq.data 32 32), tag := BitVec.ofNat 16 (fld rq.data 16 16),
        sender := BitVec.ofNat 7 n.val, receiver := BitVec.ofNat 7 recv, full := true, waiting := waiting }
    let absent : State := recordLimited (.post n m)
      { code := 0x0F01, seat := stampOf n, part := partByte n, status := 0x0012, object := word m.val } (told 0x0012)
    (66 < recv → exec (.mbxPost m rq) s = .next (answered rq 0 (told 0x0011)))
    ∧ (recv ≤ 66 → (s.box m).full = true → exec (.mbxPost m rq) s = .next (answered rq 0 (told 0x0002)))
    ∧ (recv ≤ 66 → (s.box m).full = false →
        (reach s (seatNo recv) = .absent → exec (.mbxPost m rq) s = .next (answered rq 0 absent))
        ∧ (reach s (seatNo recv) = .sleeping → rq.data.getLsbD 8 = true →
            exec (.mbxPost m rq) s = .next (answered rq 0 absent))
        ∧ (reach s (seatNo recv) = .sleeping → rq.data.getLsbD 8 = false → exec (.mbxPost m rq) s =
            .next (answered rq 0 { told 0x0001 with mbx := vset s.mbx m (notice true) }))
        ∧ (reach s (seatNo recv) = .ready → exec (.mbxPost m rq) s =
            .next (answered rq 0 (raiseSeat (seatNo recv) 0x10 { told 0x0000 with mbx := vset s.mbx m (notice false) }))))

/-- The receiver's read of MBX_INFO empties a read-acknowledged mailbox, its write of EMPTY an empty-interrupt one;
the sender, while it exists, gets the mailbox's bit in its emptied register, and of mailboxes 64 to 127 its interrupt
(R130). To any other seat the mailbox is closed: it reads zero and nothing changes. -/
def Obligations.ReceiverEmptiesMailbox : Prop :=
  ∀ (n : Seat) (m : Mbx) (rq : Req) (s : State), Served n rq s →
    let b := s.box m
    let blank : State := { s with mbx := vset s.mbx m {} }
    let sender := seatNo b.sender.toNat
    (isReceiver s m n = true → m.val < 64 → exec (.mbxInfoRead m rq) s = .next (answered rq (infoWord b)
      (if seatExists s sender then blank.modSeat sender (fun p => { p with emptied0 := p.emptied0 ||| word (2 ^ m.val) })
       else blank)))
    ∧ (isReceiver s m n = true → 64 ≤ m.val → exec (.mbxInfoRead m rq) s = .next (answered rq (infoWord b) s))
    ∧ (isReceiver s m n = false → exec (.mbxInfoRead m rq) s = .next (answered rq 0 s))
    ∧ (isReceiver s m n = true → 64 ≤ m.val → rq.data.getLsbD 63 = true → exec (.mbxEmpty m rq) s = .next (answered rq 0
      (if seatExists s sender then raiseSeat sender 0x20
         (blank.modSeat sender (fun p => { p with emptied1 := p.emptied1 ||| word (2 ^ (m.val - 64)) }))
       else blank)))
    ∧ (isReceiver s m n = false ∨ m.val < 64 ∨ rq.data.getLsbD 63 = false →
        exec (.mbxEmpty m rq) s = .next (answered rq 0 s))

/-- CORE_WAKE (R53): a write of WAKE by HOST or BMC in Watch wakes CTRL, whose cells that fail their test are retired
first (their record's cause code is the model's choice, assumption entry 32), and the requests held in Watch are then
served; another seat's write is recorded (with a code the manual leaves open, entry 6) and wakes nothing; outside
Watch the write is ignored. Where a rule leaves room, the model's reading stands in assumption entries 89 and 94. -/
def Obligations.WakeFromWatch : Prop :=
  ∀ (n : Seat) (rq : Req) (failed : List Cell) (s : State),
    s.core.ctrlReset = false → rq.src = stampOf n → rq.wide = true → rq.low = 0 →
    (inWatch s = false → exec (.coreWake rq failed) s = .next (answered rq 0 s))
    ∧ (inWatch s = true → rq.data.getLsbD 32 = true → (n = host ∨ n = bmc) →
        let v := wakeCore (retireCells (failed.filter (fun c => decide (c.val < 44) && !s.cells[c].retired)) 2 s)
        exec (.coreWake rq failed) s = .next (if inWatch v then answered rq 0 v else serveHeld (answered rq 0 v)))
    ∧ (inWatch s = true → rq.data.getLsbD 32 = true → ¬(n = host ∨ n = bmc) →
        exec (.coreWake rq failed) s = .next (answered rq 0 (record
          { code := Config.foreignWakeCode, seat := stampOf n, part := partByte n, object := 0x0C } s)))

/-- Any other access: an RW register of the seat's page takes the written value, a read-only one ignores it (R12); a
32-bit write of a submission, release, abort or reset register does nothing (R425); a request made while CTRL is in
reset waits (R67); one with a stamp of no seat, or misaligned, gets an error response and is recorded (R69). Where a
rule leaves room, the model's reading stands in assumption entries 92 and 93. -/
def Obligations.PlainWritesAndErrors : Prop :=
  (∀ (n : Seat) (rq : Req) (s : State), Served n rq s →
    (∀ k : Fin 7, exec (.registerWrite (reqAccess true (pageAddr n (0x080 + 8 * k.val)) rq)) s =
      .next (answered rq 0 (s.modSeat n (fun p => { p with args := vset p.args k rq.data }))))
    ∧ exec (.registerWrite (reqAccess true (pageAddr n 0x050) rq)) s =
      .next (answered rq 0 (s.modSeat n (fun p => { p with postPtr := rq.data })))
    ∧ exec (.registerWrite (reqAccess true (pageAddr n 0x000) rq)) s = .next (answered rq 0 s))
  ∧ (∀ (n : Seat) (rq : Req) (s : State), s.core.ctrlReset = false → inWatch s = false → rq.src = stampOf n →
      rq.wide = false → rq.low = 0 →
    exec (.seatCmdHdr n rq) s = .next (answered rq 0 s) ∧ exec (.seatRelease n rq) s = .next (answered rq 0 s)
    ∧ exec (.seatAbort n rq) s = .next (answered rq 0 s) ∧ exec (.seatReset n rq) s = .next (answered rq 0 s))
  ∧ (∀ (a : Access) (s : State), s.core.ctrlReset = true →
    exec (.registerWrite a) s = .next { s with held := s.held ++ [a] })
  ∧ ∀ (a : Access) (s : State), s.core.ctrlReset = false → inWatch s = false →
    (68 ≤ a.src.toNat ∨ a.addr.toNat % (if a.wide then 8 else 4) ≠ 0) →
    exec (.accessErrorResponse a) s = .next
      { recordLimited (.errorResponse a.src)
          { code := 0x0601, seat := a.src, part := if a.src.toNat < 64 then a.src else 0xFF, object := word a.addr.toNat } s
        with rsp := { valid := true, err := true, rdata := 0, src := a.src, id := a.id } }

/-- DIG_WORD and DIG_LAST_WORD append their bytes to the FIFO of the open mode 0 message that DIG_SEL names; a full
FIFO fails the message, as does a 32-bit write, and without such a message the write is discarded and recorded (R311,
R312). -/
def Obligations.WordInput : Prop :=
  ∀ (n : Seat) (rq : Req) (s : State), Served n rq s →
    let put (bytes : Bytes) : State := s.modSeat n (fun p =>
      { p with fifo := p.fifo ++ [{ handle := p.digSel, bytes := bytes }], fifoIn := p.fifoIn + 1 })
    let told : State := recordLimited (.digWrite n)
      { code := 0x0605, seat := stampOf n, part := partByte n, object := (s.seat n).digSel.zeroExtend 64 } s
    (selected s n = none → exec (.digWord rq) s = .next (answered rq 0 told)
      ∧ ∀ k, exec (.digLastWord k rq) s = .next (answered rq 0 told))
    ∧ ∀ i, selected s n = some i →
      ((s.seat n).fifo.length < 64 → exec (.digWord rq) s = .next (answered rq 0 (put (wordBytes rq.data)))
        ∧ ∀ k : Fin 8, exec (.digLastWord k rq) s =
            .next (answered rq 0 (put ((wordBytes rq.data).take (k.val + 1)))))
      ∧ (64 ≤ (s.seat n).fifo.length →
        exec (.digWord rq) s =
          .next (answered rq 0 ((failMsg i .badArgument s).modMsg i (fun m => { m with overrun := true })))
        ∧ ∀ k : Fin 8, exec (.digLastWord k rq) s =
          .next (answered rq 0 ((failMsg i .badArgument s).modMsg i (fun m => { m with overrun := true }))))
      ∧ (∀ narrow : Req, narrow.src = rq.src → narrow.wide = false → narrow.low = 0 → exec (.digWord narrow) s =
          .next (answered narrow 0 ((failMsg i .badArgument s).modMsg i (fun m => { m with overrun := true }))))

/-- PART_GROVE_IN0 to 7: seat 67 alone writes them, and its write of the eighth arms the notice the eight words hold,
unless one is armed, its beat lies less than 16 beats ahead, the life cycle is Blank, Returned or Scrapped, KEYS is
HELD or L0_DONE is 0; it is then ignored and recorded (R389). -/
def Obligations.GroveNoticeArms : Prop :=
  ∀ (n : Seat) (rq : Req) (s : State), Served n rq s →
    let put (k : Fin 8) : State := { s with part := { s.part with groveIn := vset s.part.groveIn k rq.data } }
    let a := noticeOfWords (vset s.part.groveIn 7 rq.data)
    let barred := s.part.armed.isSome = true ∨ a.beat.toNat < lbeat s + 16
      ∨ (s.lc.state = lcBlank ∨ s.lc.state = lcReturned ∨ s.lc.state = lcScrapped)
      ∨ (s.keys.held = true ∨ s.keys.l0Done = false)
    (n ≠ peer → exec (.partGroveIn7 rq) s = .next (answered rq 0 s)
      ∧ ∀ k : Fin 8, exec (.registerWrite (reqAccess true (0x10040 + 8 * k.val) rq)) s = .next (answered rq 0 s))
    ∧ (n = peer →
      (∀ k : Fin 8, k ≠ 7 →
        exec (.registerWrite (reqAccess true (0x10040 + 8 * k.val) rq)) s = .next (answered rq 0 (put k)))
      ∧ (¬ barred → exec (.partGroveIn7 rq) s =
          .next (answered rq 0 { put 7 with part := { (put 7).part with armed := some a } }))
      ∧ (barred → exec (.partGroveIn7 rq) s = .next (answered rq 0
          (record { code := 0x0E03, seat := stampOf peer, object := a.number.zeroExtend 64 } (put 7)))))

/-- BOOT_CONFIRM: a write with the key and the generation of the running sapling, by seat 65 before its trial ends,
stops the timer, marks the slot CONFIRMED and goes on with the counters; any other write is ignored and recorded
(R259). KEYS_LINK_RX: seat 67's write of a configured port that is not reading starts the read of the neighbour's
frame (R241); other seats' writes change nothing. -/
def Obligations.ConfirmAndLinkDoorbell : Prop :=
  (∀ (n : Seat) (rq : Req) (s : State), Served n rq s → ctrlUp s = true →
      (∀ b : Bool, n = mgmt → s.boot.running = some b → s.boot.sapling = true → s.boot.confirming = false →
        (∀ t, s.boot.trialEnd = some t → s.now < t) → fld rq.data 0 16 = 0x5A91 → fld rq.data 32 32 = slotGen s b →
        exec (.bootConfirm rq) s = .next (answered rq 0 (pumpOtp (confirmNext (programSlot b .confirmed
          { s with boot := { s.boot with trialEnd := none, confirming := true } })))))
      ∧ (confirmValid n rq.data s = false → exec (.bootConfirm rq) s = .next (answered rq 0 (pumpOtp
          (record { code := 0x0B03, seat := stampOf n, object := 0x4020 } s)))))
  ∧ (∀ (n : Seat) (rq : Req) (s : State), Served n rq s → ctrlUp s = true →
        (n ≠ peer → exec (.keysLinkRx rq) s = .next (answered rq 0 s))
        ∧ (∀ k : Port, n = peer → fld rq.data 16 3 = k.val → 24 ≤ fld rq.data 0 16 → fld rq.data 0 16 ≤ 32768 →
            linkConfigured s k = true → (s.link k).reading = false → (s.link k).frame = none →
            exec (.keysLinkRx rq) s = .next (answered rq 0
              (issue { addr := frameBase s k false, len := fld rq.data 0 16, owner := .linkFrame k }
                (s.modLink k (fun l => { l with reading := true }))))))

/-- An access frame of Limcy's, with 1 to 16 entries and their length, is executed entry by entry as the arriving seat
and answered with a response frame; one with another count, length or kind is recorded (R133). At Update-DR the LCAUTH
entry is executed as seat 66 and the register holds its response (R208). ENTDAA makes the BMC seat ready, so its
waiting notices become pending (R98, R129). A bus-free condition ends an acknowledged in-band interrupt request, and
repeats an unacknowledged one while seat 66 is pending (R431). Where a rule leaves room, the model's reading stands in
assumption entry 51. -/
def Obligations.SidebandAccess : Prop :=
  ((∀ (p : MctpPath) (f : Bytes) (s : State), pathOpen s p = true → isFrame f = true →
      let k := getLe f 7 1
      let r := runEntries (pathSeat p) k (f.drop 8) s
      (getLe f 5 1 = 1 ∧ 1 ≤ k ∧ k ≤ 16 ∧ f.length = 8 + 16 * k →
        exec (.accessFrame p f) s = .next (emit (.accessResponse p (f.take 5 ++ [0x02#8] ++ slice f 6 2 ++ r.1)) r.2))
      ∧ (¬(getLe f 5 1 = 1 ∧ 1 ≤ k ∧ k ≤ 16 ∧ f.length = 8 + 16 * k) →
        exec (.accessFrame p f) s = .next (record { code := 0x0604, seat := stampOf (pathSeat p) } s)))
    ∧ ∀ (dr : BitVec 128) (s : State), s.core.ctrlReset = false → inWatch s = false → s.core.power ≠ .off →
      exec (.lcauth dr) s = .next { (runEntry bmc (bvBytes dr) s).2 with lcauth := bytesBv 128 (runEntry bmc (bvBytes dr) s).1 })
  ∧ (∀ s : State, s.core.ctrlReset = false → inWatch s = false → s.core.power ≠ .off →
        exec .i3cEntdaa s = .next (wakeNotices { s with i3cAddressed := true })
        ∧ (s.i3cAddressed = true → s.ibiWaiting = true →
          exec (.i3cBusFree true) s = .next { s with ibiWaiting := false }
          ∧ (isPending (s.seat bmc) = true → exec (.i3cBusFree false) s = .next (emit (.ibi (ibiByte (s.seat bmc))) s))
          ∧ (isPending (s.seat bmc) = false → exec (.i3cBusFree false) s = .next { s with ibiWaiting := false })))

/-! ## Power-on, chip reset and the start -/

/-- Loss of AON power with no fuse pulse and no record write in progress: every domain loses its state but OTP,
heartwood and flash (R38, R183). What waits at the ports and the model's own counters stay. AON leaves reset: the beat
is NONE in epoch 0 (R139), the heartwood is scanned and the map rebuilt (R399); while chip_rst_n is low CTRL stays in
reset and nothing else changes (R61), and with it high and no request held CTRL leaves reset and RESET# of the flash
rises (R97). Where a rule leaves room, the model's reading stands in assumption entries 6, 7 and 91. -/
def Obligations.PowerLossAndPowerOn : Prop :=
  (∀ s : State, (s.pins.porAonN = true → s.otp.run = none → s.recd.queue = [] →
        exec .porAonAssert s = .next
          { now := s.now, draws := s.draws, orders := s.orders, held := s.held, out := s.out, pending := s.pending,
            nextJob := s.nextJob,
            pins := { chipRstN := s.pins.chipRstN, pwrCtrlGood := s.pins.pwrCtrlGood, pwrStrmGood := s.pins.pwrStrmGood,
                      cmpQuiesceAck := s.pins.cmpQuiesceAck, cmpReady := s.pins.cmpReady,
                      causeLatched := s.pins.causeLatched, causeLatchedValid := s.pins.causeLatchedValid },
            core := { power := .off }, otp := { array := s.otp.array }, boot := { flash := s.boot.flash },
            recd := { heartwood := s.recd.heartwood } })
      ∧ (s.pins.porAonN = false → exec .porAonAssert s = .next s))
  ∧ (∀ s : State, s.pins.porAonN = false → ∃ t, exec .porAonRise s = .next t ∧
        (s.pins.chipRstN = false ∨ s.held = [] →
          t.beat = {} ∧ t.recd.replayDone = true ∧ t.core.power = .control ∧ t.core.fatal = false
          ∧ t.core.ctrlReset = !s.pins.chipRstN
          ∧ t.pins = { s.pins with porAonN := true, flashReset := if s.pins.chipRstN then false else s.pins.flashReset }
          ∧ t.otp = s.otp ∧ t.boot = s.boot ∧ t.seats = s.seats ∧ t.mbx = s.mbx ∧ t.keys = s.keys ∧ t.part = s.part
          ∧ t.jobs = s.jobs ∧ t.out = s.out))

/-- CHIP_RESET: CTRL and STRM go to their reset values; OTP keeps its array and lets a pulse end in AON, AON keeps
beat, heartwood and retirement map, the flash its content (R61, R183, R424). With AON or CTRL already in reset only
the pin changes. Where a rule leaves room, the model's reading stands in assumption entry 91. -/
def Obligations.ChipResetKeepsAon : Prop :=
  ∀ s : State, (s.pins.porAonN = true → s.pins.chipRstN = true → ∃ t, exec .chipReset s = .next t
      ∧ t.pins.chipRstN = false ∧ t.core.ctrlReset = true ∧ t.core.startDone = false ∧ t.core.fatal = false
      ∧ t.pins.relFabric = false ∧ t.pins.relMem = false ∧ t.pins.relLink = false ∧ t.pins.relDma = false
      ∧ t.pins.relCompute = false ∧ t.pins.rstComputeN = false ∧ t.fw.valid = false
      ∧ (∀ n : Seat, t.seat n = { nowInfo := (s.seat n).nowInfo }) ∧ (∀ m : Mbx, t.box m = {}) ∧ t.jobs = [] ∧ t.units = [] ∧ t.fi.live = []
      ∧ t.otp.array = s.otp.array ∧ t.otp.run = s.otp.run.map (fun b => { b with stopped := true })
      ∧ t.otp.sensed = false ∧ t.boot.flash = s.boot.flash ∧ t.keys = {} ∧ t.dig = {} ∧ t.ing = {} ∧ t.part = {}
      ∧ t.pke = {} ∧ t.lc = {} ∧ t.beat = s.beat ∧ t.recd.heartwood = s.recd.heartwood ∧ t.recd.recs = []
      ∧ (∀ c : Cell, t.cells[c].retired = s.cells[c].retired ∧ t.cells[c].work = none) ∧ t.pending = s.pending)
    ∧ (¬(s.pins.porAonN = true ∧ s.pins.chipRstN = true) →
        exec .chipReset s = .next { s with pins := { s.pins with chipRstN := false } })

/-- CTRL and STRM leave reset once por_aon_n and chip_rst_n are both high: a start begins, its number rises by one
(R61, R415), and RESET# of the flash rises (R97). Where a rule leaves room, the model's reading stands in assumption
entry 9. -/
def Obligations.ReleaseBeginsAStart : Prop :=
  ∀ s : State, s.held = [] →
    exec .chipResetRelease s = .next (if s.core.ctrlReset = true ∧ s.pins.porAonN = true then
        { s with core := { s.core with ctrlReset := false }, recd := { s.recd with start := s.recd.start + 1 },
                 pins := { s.pins with chipRstN := true, flashReset := false } }
      else { s with pins := { s.pins with chipRstN := true } })

/-- The start sense: with no healthy sense group, or after an uncorrected error of the sense, a core fault with cause
0x02; otherwise the array as it reads becomes what consumers see, and fw_valid rises with the life-cycle state one-hot
on fw_lc (R166, R168, R186). It runs once per start, after the map rebuild. Where a rule leaves room, the model's
reading stands in assumption entry 37. -/
def Obligations.FuseSenseDrivesWires : Prop :=
  ∀ (env : SenseEnv) (s : State),
    (¬(ctrlUp s = true ∧ s.recd.replayDone = true ∧ s.otp.sensed = false) → exec (.fuseSense env) s = .next s)
    ∧ (ctrlUp s = true → s.recd.replayDone = true → s.otp.sensed = false → ∃ t, exec (.fuseSense env) s = .next t
      ∧ (env.transient = true → t.core.fatal = true ∧ t.core.fatalCause = 0x02 ∧ t.otp.sensed = false)
      ∧ (env.transient = false → env.groupsFailed = [] → env.drift = [] → (∃ g : Fin 8, healthy s (Fin.ofNat 92 (84 + g.val)) = true) →
          t.otp.sensed = true ∧ t.otp.array = s.otp.array ∧ t.otp.sense = s.otp.array ∧ t.core.fatal = false
          ∧ t.fw.valid = true ∧ t.lc.state = BitVec.ofNat 3 (lcOf (otpLive s))
          ∧ t.fw.lc = BitVec.ofNat 6 (2 ^ t.lc.state.toNat)))

/-- The start sequence runs once, after the sense. It ends with START_DONE, the DMA and compute releases and the
compute reset risen, or in a core fault; nothing later than the release is reached in a core fault (R63, R249). Where
a rule leaves room, the model's reading stands in assumption entry 57. -/
def Obligations.StartEndsDoneOrFatal : Prop :=
  ∀ (env : StartEnv) (s : State),
    (¬(ctrlUp s = true ∧ s.otp.sensed = true ∧ s.core.startDone = false) → exec (.startSequence env) s = .next s)
    ∧ (ctrlUp s = true → s.otp.sensed = true → s.core.startDone = false → ∃ t, exec (.startSequence env) s = .next t
      ∧ ((t.core.startDone = true ∧ t.boot.step = 8 ∧ t.pins.relDma = true ∧ t.pins.relCompute = true
            ∧ t.pins.rstComputeN = true)
          ∨ t.core.fatal = true))

/-! ## Power, supplies, sensors and the compute reset -/

/-- POWER_SET admitted by seat, reserved bits, right, life cycle and no transition in progress: the present state is
answered at once; Full requests the STRM supply and waits, unless STRM is quarantined (ST_STATE); Control powers STRM
down; Watch leaves CTRL in retention (R48, R49, Tables 1-10, 1-11). Where a rule leaves room, the model's reading
stands in assumption entries 3 and 90. -/
def Obligations.PowerSetMovesState : Prop :=
  ∀ (s u : State) (j : Job), Turn .powerSet s j u → isHmb j.seat = true → zeroFrom (j.w 0) 2 = true →
    operatorRight u j.seat = true →
    (u.lc.state = lcIntegration ∨ u.lc.state = lcFielded ∨ u.lc.state = lcReturned) → u.core.toFull = none →
    (j.f 0 0 2 ≠ 0 → j.f 0 0 2 = u.core.power.code → exec .powerSet s = .next (decideJob j .ok noWords u))
    ∧ (j.f 0 0 2 = 3 → u.core.power ≠ .full → u.core.strmQuar = false → exec .powerSet s = .next
        { u with core := { u.core with toFull := some { job := some j.id, since := u.now } },
                 pins := { u.pins with pwrStrmReq := true } })
    ∧ (j.f 0 0 2 = 3 → u.core.power ≠ .full → u.core.strmQuar = true → exec .powerSet s = .next (refuseJob j .state u))
    ∧ (j.f 0 0 2 = 2 → u.core.power ≠ .control → powerAdmitted u j 2 = true → ∃ t, exec .powerSet s = .next t
        ∧ t.core.power = .control ∧ t.pins.pwrStrmReq = false ∧ t.pins.isoStrm = true ∧ t.core.toFull = none)
    ∧ (j.f 0 0 2 = 1 → u.core.power ≠ .watch → powerAdmitted u j 1 = true → ∃ t, exec .powerSet s = .next t
        ∧ t.core.power = .watch ∧ t.pins.pwrCtrlReq = 0b01 ∧ t.pke.window = [] ∧ t.keys.rootLoaded = false
        ∧ t.core.irqHeld.1 = irqHost t)

/-- The way to Full ends with its supply: pwr_strm_good ends isolation, retires the lanes that failed their tests, and
makes the state Full; 100 µs without it leave the state as it was with the supply request withdrawn, and the POWER_SET
that asked completes with ST_FAULT (R49, R60). Outside a transition only the pin changes. Where a rule leaves room,
the model's reading stands in assumption entries 1 and 90. -/
def Obligations.FullNeedsItsSupply : Prop :=
  (∀ (cs : List Cell) (s : State),
    (ctrlUp s = true → s.core.toFull.isSome = true → ∃ t, exec (.pwrStrmGoodRise cs) s = .next t
      ∧ t.core.power = .full ∧ t.core.toFull = none ∧ t.pins.pwrStrmGood = true ∧ t.pins.isoStrm = false
      ∧ ∀ c ∈ cs, cellEngine c = .ing → t.cells[c].retired = true)
    ∧ (ctrlUp s = false ∨ s.core.toFull = none → exec (.pwrStrmGoodRise cs) s = .next
        { s with pins := { s.pins with pwrStrmGood := true } }))
  ∧ ∀ s : State,
    (ctrlUp s = true → ∀ f, s.core.toFull = some f → ∃ t, exec .pwrStrmTimeout s = .next t
      ∧ t.now = max s.now (f.since + 100 * Config.microsecond) ∧ t.core.power = s.core.power ∧ t.core.toFull = none
      ∧ t.pins = { s.pins with pwrStrmReq := false, isoStrm := true })
    ∧ (s.core.toFull = none → exec .pwrStrmTimeout s = .next s)

/-- The quarantine of STRM after a loss of pwr_strm_good while requested and good, or after a bus or clock error while
its supply is requested: no later job, load or sweep chunk survives, STRM is isolated and unpowered, and the state is
not Full (R39, R40, R60). While STRM is not powered the loss changes the pin alone. Where a rule leaves room, the
model's reading stands in assumption entry 80. -/
def Obligations.StrmFaultsQuarantine : Prop :=
  ∀ s : State, ctrlUp s = true → s.core.strmQuar = false →
    (s.pins.pwrStrmReq = true → s.pins.pwrStrmGood = true → ∃ t, exec .pwrStrmGoodLoss s = .next t
      ∧ t.core.strmQuar = true ∧ t.core.power ≠ .full ∧ t.pins.pwrStrmReq = false ∧ t.pins.isoStrm = true ∧ t.ing.hbm = []
      ∧ t.core.toFull = none)
    ∧ (s.pins.pwrStrmReq = true → ∃ t, exec .strmDomainFault s = .next t
      ∧ t.core.strmQuar = true ∧ t.core.power ≠ .full ∧ t.pins.pwrStrmReq = false ∧ t.pins.isoStrm = true ∧ t.ing.hbm = []
      ∧ t.core.toFull = none)
    ∧ (s.pins.pwrStrmReq = false → exec .strmDomainFault s = .next s
        ∧ exec .pwrStrmGoodLoss s = .next { s with pins := { s.pins with pwrStrmGood := false, isoStrm := true } })

/-- A core fault drives fatal with its cause of Table 2-19, which the chip latches (R100), and stops every engine: no
job and no initiator transaction is left (R43). Loss of pwr_ctrl_good is cause 0x07 (R60). Once fatal is driven a
further cause changes nothing. -/
def Obligations.CoreFaultStopsEngines : Prop :=
  ∀ s : State, s.pins.porAonN = true → s.core.power ≠ .off → s.core.ctrlReset = false → s.core.fatal = false →
    (∀ k : CoreCause, ∃ t, exec (.coreFault k) s = .next t ∧ t.core.fatal = true
      ∧ t.core.fatalCause = (match k with | .ctrlDomain => 0x01 | .aonDomain => 0x02 | .keyStore => 0x05 | .coreArbiter => 0x06)
      ∧ t.pins.causeLatched = t.core.fatalCause ∧ t.pins.causeLatchedValid = true ∧ t.jobs = [] ∧ t.fi.live = []
      ∧ t.fi.waiting = [] ∧ (∀ n, (t.seat n).entries = (s.seat n).entries) ∧ t.otp = s.otp ∧ t.beat = s.beat
      ∧ ∀ k', exec (.coreFault k') t = .next t)
    ∧ (s.pins.pwrCtrlReq ≠ 0 → ∃ t, exec .pwrCtrlGoodLoss s = .next t ∧ t.core.fatal = true ∧ t.core.fatalCause = 0x07
      ∧ t.pins.pwrCtrlGood = false ∧ t.jobs = [] ∧ t.fi.live = [])

/-- A sample within every threshold only updates the readings and starts the limit counts anew; the second sample in a
row beyond the limit of an input other than vs_strm is a core fault (R92, R93). vs_strm reads 0 while unpowered. Where
a rule leaves room, the model's reading stands in assumption entry 28. -/
def Obligations.SensorSamples : Prop :=
  ∀ (v : Samples) (s : State), s.pins.porAonN = true → s.core.power ≠ .off →
    (vppOk s v.vpp = true → (∀ i : Fin 7, inputSampled s i = true → (sampled v)[i] ≤ threshold s i false ∧ (sampled v)[i] ≤ threshold s i true) →
      exec (.sensorSample v) s = .next { s with core := { s.core with
        vpp := v.vpp, vaon := v.vaon, vctrl := v.vctrl, vstrm := if s.pins.pwrStrmReq && s.pins.pwrStrmGood then v.vstrm else 0,
        temps := #v[v.t0, v.t1, v.t2, v.t3], overLimit := Vector.replicate 7 0 } })
    ∧ (∀ i : Fin 7, i ≠ 2 → threshold s i true < (sampled v)[i] → 1 ≤ s.core.overLimit[i] →
        ∃ t, exec (.sensorSample v) s = .next t ∧ t.core.fatal = true)

/-- The compute reset by Table 2-4: the command asks compute to quiesce; its acknowledgement, or 200 µs without one
(QTO), puts compute in reset with stamp S; at least 1 µs later it is released; cmp_ready, or 500 µs without it (RTO),
ends it: the count rises by one, G of every existing partition by one, and no model key is left (R65, R402, R403).
Where a rule leaves room, the model's reading stands in assumption entries 1, 3 and 84. -/
def Obligations.ComputeResetHandshake : Prop :=
  (∀ (s u : State) (j : Job), Turn .computeReset s j u → isHmb j.seat = true → zeroFrom (j.w 0) 1 = true →
    operatorRight u j.seat = true →
    (u.lc.state = lcTest ∨ u.lc.state = lcIntegration ∨ u.lc.state = lcFielded ∨ u.lc.state = lcReturned) →
    (u.core.power = .full ∨ u.core.power = .control) → u.recd.creset.phase = 0 →
    ∃ t, exec .coreComputeReset s = .next t ∧ t.recd.creset.phase = 1 ∧ t.recd.creset.job = some j.id
      ∧ t.recd.creset.seat = j.seat ∧ t.pins = { u.pins with cmpQuiesceReq := true, cmpQuiesceAck := false })
  ∧ ∀ s : State, ctrlUp s = true →
    (s.recd.creset.phase = 1 → exec .cmpQuiesceAck s = .next
        { s with pins := { s.pins with cmpQuiesceAck := true, rstComputeN := false, cmpQuiesceReq := false, cmpReady := false },
                 recd := { s.recd with creset := { s.recd.creset with
                   phase := 2, stamp := stampNow s, since := s.now, lastBeat := s.beat.lbeat } } })
    ∧ (s.recd.creset.phase = 1 → ∃ t, exec .cmpQuiesceTimeout s = .next t ∧ t.recd.creset.phase = 2
        ∧ t.now = max s.now (s.recd.creset.since + 200 * Config.microsecond) ∧ t.recd.creset.qto = true
        ∧ t.recd.creset.stamp = stampNow { s with now := t.now }
        ∧ t.pins = { s.pins with rstComputeN := false, cmpQuiesceReq := false, cmpReady := false })
    ∧ (s.recd.creset.phase = 2 → exec .rstComputeHoldEnd s = .next
        { s with now := max s.now (s.recd.creset.since + Config.microsecond), pins := { s.pins with rstComputeN := true },
                 recd := { s.recd with creset := { s.recd.creset with
                   phase := 3, since := max s.now (s.recd.creset.since + Config.microsecond) } } })
    ∧ (s.recd.creset.phase = 3 → s.recd.creset.ended = false → engInReset s .recd = false →
        (∃ t, exec .cmpReady s = .next t ∧ t.recd.creset.phase = 0 ∧ t.recd.creset.count = satInc s.recd.creset.count
          ∧ t.pins = { s.pins with cmpReady := true } ∧ (∀ n : Part, t.keys.models[n] = [])
          ∧ ∀ n : Part, t.part.recs[n].g = if partExists s n then s.part.recs[n].g + 1 else s.part.recs[n].g)
        ∧ (∃ t, exec .cmpReadyTimeout s = .next t ∧ t.recd.creset.phase = 0 ∧ t.recd.creset.rto = true
          ∧ t.recd.creset.count = satInc s.recd.creset.count
          ∧ t.now = max s.now (s.recd.creset.since + 500 * Config.microsecond) ∧ (∀ n : Part, t.keys.models[n] = [])
          ∧ ∀ n : Part, t.part.recs[n].g = if partExists s n then s.part.recs[n].g + 1 else s.part.recs[n].g))

/-! ## Fabric beat -/

/-- An edge that arrives with no rebase waiting (Table 4-4, R141, R142): in LOCKED an on-time matching edge carries
the count, any other one begins HOLDOVER; in HOLDOVER the fourth on-time matching edge in a row relocks; in NONE the
sixteenth acquisition-valid one in a row starts epoch 1; in LOST it is adopted unless its count lies behind, which
sets BACKWARD. Where a rule leaves room, the model's reading stands in assumption entries 17 to 19. -/
def Obligations.EdgesMoveTheBeat : Prop :=
  ∀ (count : Word) (lock : Bool) (off : Nat) (s : State), s.pins.porAonN = true → s.core.power ≠ .off →
    rebaseJob s = none →
    let b := s.beat
    let k := classifyEdge b count lock (s.now + off)
    let becomes16 := k.acqValid = true ∧ b.acq = 15
    (b.mode = .locked → k.onTime = true → k.matching = true → ∃ t, exec (.beatEdge count lock off) s = .next t
      ∧ t.now = s.now + off ∧ t.beat.mode = .locked ∧ t.beat.lbeat = count ∧ t.beat.tEdge = s.now + off
      ∧ t.beat.epoch = b.epoch ∧ t.seats = s.seats ∧ t.jobs = s.jobs ∧ t.out = s.out)
    ∧ (b.mode = .locked → ¬(k.onTime = true ∧ k.matching = true) → ∃ t, exec (.beatEdge count lock off) s = .next t
      ∧ t.beat.mode = .holdover ∧ t.beat.acq = 0
      ∧ t.beat.lbeat = if b.tEdge + periodTime b ≤ s.now + off then b.lbeat + 1 else b.lbeat)
    ∧ (b.mode = .holdover → b.relock = 3 → k.onTime = true → k.matching = true → ∃ t,
      exec (.beatEdge count lock off) s = .next t ∧ t.beat.mode = .locked ∧ t.beat.lbeat = count)
    ∧ (b.mode = .none → becomes16 → ∃ t, exec (.beatEdge count lock off) s = .next t ∧ t.beat.mode = .locked
      ∧ t.beat.epoch = 1 ∧ t.beat.lbeat = count)
    ∧ (b.mode = .none → k.acqValid = false → ∃ t, exec (.beatEdge count lock off) s = .next t ∧ t.beat.mode = .none
      ∧ t.beat.acq = 0 ∧ t.beat.lbeat = b.lbeat)
    ∧ (b.mode = .lost → b.backward = true → ∃ t, exec (.beatEdge count lock off) s = .next t ∧ t.beat.mode = .lost
      ∧ t.beat.lbeat = b.lbeat)
    ∧ (b.mode = .lost → b.backward = false → becomes16 →
      (count = k.slot → ∃ t, exec (.beatEdge count lock off) s = .next t ∧ t.beat.mode = .locked ∧ t.beat.lbeat = count)
      ∧ (k.slot.toNat < count.toNat → ∃ t, exec (.beatEdge count lock off) s = .next t ∧ t.beat.mode = .locked
        ∧ t.beat.lbeat = count ∧ t.beat.lastJump = count ∧ t.beat.totFwd = satInc b.totFwd)
      ∧ (count.toNat < k.slot.toNat → ∃ t, exec (.beatEdge count lock off) s = .next t ∧ t.beat.mode = .lost
        ∧ t.beat.lbeat = b.lbeat ∧ t.beat.backward = true ∧ t.beat.lastJump = count ∧ t.beat.totBack = satInc b.totBack))

/-- Time without an edge: LBEAT goes on at the predicted times (R135), and an edge that misses its window ends LOCKED,
counts as missing and clears ACQ (R140, R141). At its multiples of LBEAT the heartbeat counts while CTRL runs (R146)
and a checkpoint record joins the heartwood queue (R144). BEAT_REBASE: admitted by seat, the count of the last jump in
W0, right, life cycle, BACKWARD with ACQ at 16, and no other one waiting, it waits for the next edge. An
acquisition-valid one starts the next epoch, 1 after 255, clears BACKWARD and carries each role's lapse over by its
distance; any other edge, and two periods without one, end the job with ST_STATE (R153, Table 4-7). Where a rule
leaves room, the model's reading stands in assumption entries 3 and 17 to 19. -/
def Obligations.BeatWithoutEdgesAndRebase : Prop :=
  (∀ s : State, s.pins.porAonN = true → s.core.power ≠ .off →
      (s.beat.mode = .none → exec .predictedEdge s = .next
        { s with now := max s.now (s.beat.tEdge + Config.microsecond),
                 beat := { s.beat with lbeat := s.beat.lbeat + 1, tEdge := s.beat.tEdge + Config.microsecond } })
      ∧ (s.beat.mode = .locked → exec .predictedEdge s = .next s)
      ∧ ((s.beat.mode = .holdover ∧ s.beat.unlocked < 64) ∨ s.beat.mode = .lost → exec .predictedEdge s =
          .next { s with now := max s.now (s.beat.tEdge + s.beat.period * 21),
                         beat := { s.beat with lbeat := s.beat.lbeat + 1, tEdge := s.beat.tEdge + s.beat.period * 21,
                                               unlocked := s.beat.unlocked + 1, unjudged := !s.beat.arrived,
                                               arrived := false } })
      ∧ (s.beat.mode = .holdover → 64 ≤ s.beat.unlocked → ∃ t, exec .predictedEdge s = .next t ∧ t.beat.mode = .lost
          ∧ t.beat.lbeat = s.beat.lbeat + 1)
      ∧ (s.beat.mode = .none → exec .beatEdgeMissing s = .next s)
      ∧ (s.beat.mode = .locked → ∃ t, exec .beatEdgeMissing s = .next t ∧ t.beat.mode = .holdover
          ∧ t.beat.lbeat = s.beat.lbeat + 1 ∧ t.beat.acq = 0 ∧ t.beat.missed = satInc s.beat.missed
          ∧ t.beat.totMissed = satInc s.beat.totMissed)
      ∧ (s.beat.lastHb < s.beat.lbeat.toNat / 2 ^ s.beat.hbExp → exec .heartbeat s = .next
          { s with beat := { s.beat with lastHb := s.beat.lbeat.toNat / 2 ^ s.beat.hbExp,
                                         hbCount := if ctrlUp s then s.beat.hbCount + 1 else s.beat.hbCount } })
      ∧ (s.beat.lastCk < s.beat.lbeat.toNat / 2 ^ s.beat.ckExp → s.recd.queue.length < 32 →
          let totals : Bytes := leBytes 2 s.beat.totMissed.toNat ++ leBytes 2 s.beat.totOfftime.toNat
            ++ leBytes 2 s.beat.totBadcount.toNat ++ [s.beat.totFwd, s.beat.totBack]
          exec .heartwoodCheckpoint s = .next
            { s with beat := { s.beat with lastCk := s.beat.lbeat.toNat / 2 ^ s.beat.ckExp },
                     recd := { s.recd with queue := s.recd.queue
                       ++ [{ kind := 0x0002, stamp := stampNow s, detail := totals, cell := none }] } }))
  ∧ ((∀ (s u : State) (j : Job), Turn .beatRebase s j u → isHmb j.seat = true → j.w 0 = u.beat.lastJump →
        operatorRight u j.seat = true → (u.lc.state = lcIntegration ∨ u.lc.state = lcFielded ∨ u.lc.state = lcReturned) →
        u.beat.backward = true → u.beat.acq = 16 →
        (u.jobs.filter (fun x => x.op == .beatRebase && x.id != j.id && x.stage == .engine)) = [] →
        exec .beatRebase s = .next
          { u with jobs := u.jobs.map (fun x => if x.id = j.id then { j with stage := .engine, num := u.now } else x) })
      ∧ ∀ (s : State) (j : Job), rebaseJob s = some j →
        (s.pins.porAonN = true → s.core.power ≠ .off → ∀ (count : Word) (lock : Bool) (off : Nat),
          ((classifyEdge s.beat count lock (s.now + off)).acqValid = true → ∃ t, exec (.beatEdge count lock off) s = .next t
            ∧ t.beat.mode = .locked ∧ t.beat.lbeat = count ∧ t.beat.backward = false
            ∧ t.beat.epoch = (if s.beat.epoch = 0xFF then 1 else s.beat.epoch + 1)
            ∧ ∀ i : Fin 3, t.lc.auth[i].held.lapse = rebased s.beat.lbeat count s.lc.auth[i].held.lapse)
          ∧ ((classifyEdge s.beat count lock (s.now + off)).acqValid = false → ∃ t, exec (.beatEdge count lock off) s = .next t
            ∧ t.beat.mode = s.beat.mode ∧ t.beat.lbeat = s.beat.lbeat ∧ t.beat.epoch = s.beat.epoch ∧ t.lc = s.lc))
        ∧ exec .beatRebaseTimeout s = .next (finishJob j .state noWords
            { s with now := max s.now (j.num + 2 * periodInForce s * 21) }))

/-! ## OTP and life cycle -/

/-- The end of a pulse (R175): the word is read at both margins, keeps every bit that read one, and no other word
changes. With CTRL in reset it was the last pulse. With CTRL running, an eighth pulse that leaves a wanted bit of its
group at zero ends the burn with ST_OTP_VERIFY; before that, with vs_pp in its window, the group is pulsed again.
Where a rule leaves room, the model's reading stands in assumption entries 33, 40 and 41. -/
def Obligations.PulseEnds : Prop :=
  ∀ (p : Pulse) (s : State) (b : Burn) (w : WordBurn) (ws : List WordBurn), Sound s → s.pins.porAonN = true →
    s.core.power ≠ .off → s.otp.run = some b → b.todo = w :: ws →
    let u := pulseWord w.addr p { s with now := s.now + 5 * Config.microsecond }
    let left := (groupMasks w.addr b.single).getD b.group 0 &&& bitsLeft u w
    otpLive u w.addr = ((otpLive s w.addr).1 ||| p.lo ||| p.hi, (otpLive s w.addr).2 ||| p.hi)
    ∧ (∀ a, a ≠ w.addr → otpLive u a = otpLive s a)
    ∧ (ctrlUp s = false → exec (.otpPulseDone p) s = .next { u with otp := { u.otp with run := none } })
    ∧ (ctrlUp s = true → b.stopped = false → b.supplyBad = false → left ≠ 0 →
      (b.pulses + 1 < 8 → vppOk s p.vpp = true → exec (.otpPulseDone p) s = .next (pumpOtp (showProgress
        { u with otp := { u.otp with
          run := some { b with pulses := b.pulses + 1, mostPulses := max b.mostPulses (b.pulses + 1) } } })))
      ∧ (8 ≤ b.pulses + 1 → exec (.otpPulseDone p) s = .next (pumpOtp (burnEnded
          { owner := b.owner, status := .otpVerify, left := bitsLeft u w, most := max b.mostPulses (b.pulses + 1) }
          { u with otp := { u.otp with run := none } }))))

/-- The OTP commands, one at a time on the path (R177), by their check orders (R159, R161, R170, R172 to R174, R179 to
R181): OTP_READ has its word read by a sense group at each margin, and returns the resolved word, both margins and the
check bytes, with ST_OTP_MARGINAL where they differ; the others queue their burn. Where a rule leaves room, the
model's reading stands in assumption entries 3, 35, 38 and 39. -/
def Obligations.OtpCommands : Prop :=
  ∀ (s u : State) (j : Job), otpFree s = true →
    let a := j.f 0 0 12
    let r := otpLive u a
    let reg := regionOf a
    let role := roleOf u j.seat
    let hmb := isHmb j.seat
    let told (st : Status) : State := refuseJob j st { u with otp := { u.otp with lastStatus := statusCode st } }
    let word12 := zeroFrom (j.w 0) 12
    (Turn .otpRead s j u → Admits .otpRead s
      [(hmb, .denied), (word12, .badArgument),
       (reg ≠ 4 && regionState u reg != .wlockRlock && regionState u reg != .altered && regionState u reg != .erased
          && regionState u reg != .erasePartial && !readInhibit u reg, .locked), (healthyCount u senseCells != 0, .retired)]
      (submitUnit { owner := .otpRead j.id } u) told)
    ∧ (∀ (c : Cell) (more : Bool) (w : CellUnit), cellRuns u c = true → u.cells[c].work = some w →
        w.owner = .otpRead j.id → u.job? j.id = some j → j.num ≠ 0 →
      let res := resolve a r
      let st : Status := if marginal a r || res.2 then .otpMarginal else .ok
      let v := (idleCell c u).modCell c (fun x => { x with consecutive := 0 })
      exec (.cellUnitDone c true more) u = .next (placeWaiting (cellsLost (pumpOtp
        (decideJob j st (wordsOf [res.1, dataOf r.1, dataOf r.2, word (bit res.2 * 2 ^ 19 + (wordClass a).code * 2 ^ 17
          + bit (marginal a r) * 2 ^ 16 + (checkOf r.1).toNat * 2 ^ 8 + (checkOf r.2).toNat)])
         { v with otp := { v.otp with lastStatus := statusCode st } })))))
    ∧ (Turn .otpProgram s j u → Admits .otpProgram s
      [(hmb, .denied), (word12, .badArgument), (mayProgram u j.seat a (j.w 1), .denied), (lcForRegion u reg, .state),
       (reg == 1 || (regionState u reg == .opened && !writeInhibit u reg), .locked),
       (fitsCodeword u a (j.w 1), .locked)]
      (pumpOtp (jobBurn j [{ addr := a, want := if wordClass a = .e then codeword (j.w 1) else (j.w 1).zeroExtend 72 }] u))
      (fun st => pumpOtp (told st)))
    ∧ (Turn .otpLock s j u →
      let g := j.f 0 0 5
      let mode := j.f 0 8 1 == 1
      let rlock := j.f 0 9 1 == 1
      let d := regionDigest (otpLive u) g
      Admits .otpLock s
        [(hmb, .denied), (zeroFrom (j.w 0) 10 && j.f 0 5 3 == 0 && lockArgOk u g mode rlock, .badArgument),
         (g ≠ 4 && roleForRegion u j.seat g, .denied), (lcForRegion u g, .state),
         ((regionState u g == .opened || regionState u g == .pendingLock) && !writeInhibit u g, .locked),
         (!regionMarginal (otpLive u) g, .otpMarginal), (bvBytes d == j.digestArg, .otpLockMismatch),
         (regionState u g != .pendingLock || storedFits u g d, .otpLockMismatch)]
        (pumpOtp (jobBurn j ((List.range 3).map (fun i =>
            ({ addr := 0x81 + 4 * g + i, want := codeword (word (getLe (bvBytes d) (8 * i) 8)) } : WordBurn))
          ++ [{ addr := 0x80 + 4 * g, want := if mode then 0xFF0000 else if rlock then 0xFFFF else 0xFF }]) u))
        (fun st => pumpOtp (told st)))
    ∧ (Turn .otpRepair s j u →
      let want : OtpWord := if marginal a r then repairWant a r else 0
      Admits .otpRepair s
        [(hmb, .denied), (word12, .badArgument), (role == .maker || role == .installer, .denied),
         (if role == .maker then u.lc.state == lcTest
            else u.lc.state == lcIntegration || u.lc.state == lcFielded || u.lc.state == lcReturned, .state),
         (wordClass a ≠ .d && reg ≠ 0, .denied), (!(resolve a r).2, .otpMarginal)]
        (pumpOtp (jobBurn { j with num := want.toNat } [{ addr := a, want := want }] (setJob { j with num := want.toNat } u)))
        (fun st => pumpOtp (told st)))
    ∧ (Turn .otpCtrAdvance s j u →
      let c := j.f 0 0 5
      let t := j.f 1 0 11
      Admits .otpCtrAdvance s
        [(hmb, .denied), (zeroFrom (j.w 0) 5 && zeroFrom (j.w 1) 11 && decide (c ≤ 23), .badArgument),
         (decide (16 ≤ c) && role == .installer, .denied), (u.lc.state == lcIntegration || u.lc.state == lcFielded, .state),
         (!ctrGuard u c, .state), (decide (ctrLive u c ≤ t) && decide (t ≤ ctrLive u c + 64), .badArgument)]
        (pumpOtp (jobBurn j (counterBurn u c t) u)) (fun st => pumpOtp (told st)))

/-- The life-cycle commands by their check orders (R189, R190, R196 to R199, R203 to R206, R212): a nonce of 32 drawn
bytes, the fetch of a credential, the end of a role, the transition that raises the hold, the debug levels opened and
closed, and the policy burn into word 0x004. Where a rule leaves room, the model's reading stands in assumption
entries 3, 6 and 44 to 48. -/
def Obligations.LifeCycleCommands : Prop :=
  ∀ (s u : State) (j : Job),
    let hmb := isHmb j.seat
    let lc := u.lc.state
    let role := roleOf u j.seat
    let refuse (st : Status) : State := refuseJob j st u
    let level := j.f 0 0 2
    let t := j.f 0 0 3
    (Turn .lcAuthBegin s j u → ∀ (x : Bytes) (v : State), drawBytes 32 u = (x, v) →
      let nonce : Nonce := { value := bytesBv 256 x, beat := v.beat.lbeat }
      Admits .lcAuthBegin s [(hmb, .denied), (zeroFrom (j.w 0) 1, .badArgument)]
        (decideJob j .ok (wordsOf [word (getLe x 0 8), word (getLe x 8 8), word (getLe x 16 8), word (getLe x 24 8),
            serial v])
          (modAuth j.seat (fun a => if j.f 0 0 1 = 0 then { a with roleNonce := some nonce }
            else { a with consentNonce := some nonce }) v)) refuse)
    ∧ (Turn .lcAuthProve s j u →
      (hmb = false → exec .lcAuthProve s = .next (refuseJob j .denied u))
      ∧ (hmb = true →
        let v := endRole j.seat 2 u
        let nonce := (authOf v j.seat).roleNonce
        Admits .lcAuthProve s
          [(zeroFrom (j.w 1) 32 && credLenOk (j.f 1 0 32), .badArgument), (nonceLive v nonce && dualServes v, .state)]
          (fetchJob { j with out := match nonce with | some x => bvBytes x.value | none => [] } (j.w 0) (j.f 1 0 32) v)
          (fun st => refuseJob j st v)))
    ∧ (Turn .lcAuthEnd s j u → exec .lcAuthEnd s = .next
        (if hmb then decideJob j .ok noWords (endRole j.seat 2 u) else refuseJob j .denied u))
    ∧ (Turn .lcTransition s j u →
      let g := { j with got := stampOf j.seat :: wordBytes (authOf u j.seat).held.serial }
      Admits .lcTransition s
        [(hmb, .denied), (zeroFrom (j.w 0) 3 && decide (1 ≤ t) && decide (t ≤ 5) && j.w 1 == serial u, .badArgument),
         (transitionRight u role t, .denied),
         (transitionFrom u t && (u.lc.committed == some (BitVec.ofNat 3 t) || prerequisites u t) && !lcBusy u j.id, .state),
         (vppOk u u.core.vpp, .otpSupply)]
        (pumpOtp (beginTransition g (setJob g { u with lc := { u.lc with
          hold := true, step := 1, target := BitVec.ofNat 3 t, addr := 0, bits := BitVec.ofNat 5 (fieldCount u t) } })))
        (fun st => pumpOtp (refuseJob j st u)))
    ∧ (Turn .lcDebugOpen s j u →
      let consent := level == 3 && lc == lcReturned
      let n := ownPart j.seat
      Admits .lcDebugOpen s
        [(levelSeat j.seat level, .denied),
         (zeroFrom (j.w 0) 2 && level != 0 && zeroFrom (j.w 2) 32 && (!consent || credLenOk (j.f 2 0 32)), .badArgument),
         (debugRight u j.seat level, .denied), (debugState u j, .state)]
        (if level = 1 then decideJob j .ok (wordsOf [1]) (if u.lc.prof.getLsbD n.val then u
            else debugRecord 1 (BitVec.ofNat 8 n.val) 1 (stampOf j.seat) 0
              (advanceG n { u with lc := { u.lc with prof := u.lc.prof ||| BitVec.ofNat 64 (2 ^ n.val) } }))
         else if level = 2 then
           decideJob j .ok (wordsOf [2]) (debugRecord 2 0xFF 1 (stampOf j.seat) 0 (setLevel 2 (stampOf j.seat) u))
         else if consent then
           fetchJob { j with num := 3, out := match (authOf u j.seat).consentNonce with | some x => bvBytes x.value | none => [] }
             (j.w 1) (j.f 2 0 32) u
         else beginMaker j u) refuse)
    ∧ (Turn .lcDebugClose s j u → Admits .lcDebugClose s
        [(levelSeat j.seat level, .denied), (zeroFrom (j.w 0) 2 && level != 0, .badArgument),
         (level != 2 || operatorRight u j.seat, .denied),
         (if level = 1 then u.lc.prof.getLsbD (ownPart j.seat).val else level == 2 && u.lc.level == 2, .state)]
        (decideJob j .ok noWords (if level = 1 then closeProf (ownPart j.seat) (stampOf j.seat) 1 u
          else closeOper (stampOf j.seat) 1 u)) refuse)
    ∧ (Turn .lcDebugPolicy s j u → Admits .lcDebugPolicy s
        [(hmb, .denied), (zeroFrom (j.w 0) 3, .badArgument),
         ((role == .maker && j.f 0 1 2 == 0) || (role == .installer && j.f 0 0 1 == 0), .denied),
         (if role == .maker then lc == lcTest else lc == lcIntegration || lc == lcFielded, .state),
         (vppOk u u.core.vpp, .otpSupply)]
        (pumpOtp (queueBurn { owner := .job j.id, seat := stampOf j.seat,
                              todo := [{ addr := 0x004, want := (j.w 0).zeroExtend 72 }] } u))
        (fun st => pumpOtp (refuseJob j st u)))

/-! ## KEYS and BOOT -/

/-- The key commands by the check orders of Table 7-8 (R218, R224, R226, R229 to R234): a drawn slot, the fetch of
imported bytes or of a context (none for length 0), export, free, the information word and the stored certificate, and
the burn of 16 drawn secret words with their digest and lock. Where a rule leaves room, the model's reading stands in
assumption entries 3, 6, 52 and 53. -/
def Obligations.KeysCommands : Prop :=
  ∀ (s u : State) (j : Job),
    let i := ownSlot u j.seat (j.f 0 0 16)
    let k := u.slot (i.getD 0)
    let kind := j.f 0 0 8
    let lc := u.lc.state
    let refuse (st : Status) : State := refuseJob j st u
    let fetch : State := if j.f 3 0 11 = 0 then createSlot j (cuOf (j.w 1)) (deriveContent j [] u) 3 u
      else fetchJob j (j.w 2) (j.f 3 0 11) u
    let own : List (Bool × Status) :=
      [(zeroFrom (j.w 0) 16 && i.isSome, .badArgument)]
    (Turn .keysGenerate s j u → ∀ (x : Bytes) (v : State), drawBytes (cuOf (j.w 0)).len u = (x, v) →
      Admits .keysGenerate s
        [(j.seat ≠ peer, .denied), (cuOk (j.w 0), .badArgument), (keysLc u && quotaFree u j.seat, .state)]
        (decideJob j .ok (wordsOf [word (newSlot j.seat (cuOf (j.w 0)) x 1 v).1]) (newSlot j.seat (cuOf (j.w 0)) x 1 v).2)
        refuse)
    ∧ (Turn .keysImport s j u → Admits .keysImport s
        [(j.seat ≠ peer, .denied), (cuOk (j.w 0) && (cuOf (j.w 0)).cls != clsSealed, .badArgument),
         (keysLc u && quotaFree u j.seat, .state)]
        (fetchJob j (j.w 1) (cuOf (j.w 0)).len u) refuse)
    ∧ (Turn .keysExport s j u → Admits .keysExport s
        (own ++ [(k.cls == clsExport, .denied), (lc != lcScrapped, .state)])
        (storeJob j (j.w 1) k.content .ok (wordsOf [word k.content.length]) u) refuse)
    ∧ (Turn .keysDerive s j u → Admits .keysDerive s
        [(zeroFrom (j.w 0) 16 && i.isSome && cuOk (j.w 1) && ctxOk j, .badArgument),
         (k.usage.getLsbD useKdf && childOk k.cls (cuOf (j.w 1)).cls, .denied),
         (lc != lcScrapped && !u.keys.held && quotaFree u j.seat, .state)] fetch refuse)
    ∧ (Turn .keysSealDerive s j u → Admits .keysSealDerive s
        [(j.seat = mgmt, .denied),
         (zeroFrom (j.w 0) 16 && cuOk (j.w 1) && (cuOf (j.w 1)).cls != clsExport && ctxOk j, .badArgument),
         (decide (j.f 0 0 16 ≤ u.keys.svn1.toNat), .denied),
         (lc != lcScrapped && u.keys.rootLoaded && u.keys.l1Done && !u.keys.held && quotaFree u j.seat, .state)]
        fetch refuse)
    ∧ (Turn .keysInstallerDerive s j u → Admits .keysInstallerDerive s
        [(isHmb j.seat, .denied),
         (zeroFrom (j.w 0) 5 && cuOk (j.w 1) && (cuOf (j.w 1)).cls != clsExport && ctxOk j, .badArgument),
         (roleOf u j.seat == .installer || roleOf u j.seat == .operator, .denied),
         (lc != lcReturned && lc != lcScrapped && regionState u (6 + j.f 0 4 1) == .wlockRlock
           && !u.keys.held && quotaFree u j.seat, .state)] fetch refuse)
    ∧ (Turn .keysFree s j u → Admits .keysFree s (own ++ [(lc != lcScrapped, .state)])
        (decideJob j .ok noWords (releaseSlot (i.getD 0) u)) refuse)
    ∧ (Turn .keysInfo s j u → Admits .keysInfo s (own ++ [(lc != lcScrapped, .state)])
        (decideJob j .ok (wordsOf [infoOf k]) u) refuse)
    ∧ (Turn .keysCertRead s j u → Admits .keysCertRead s
        [(zeroFrom (j.w 0) 8 && decide (0x11 ≤ kind) && decide (kind ≤ 0x15), .badArgument),
         (lc != lcScrapped && u.keys.rootLoaded && (certBytes u kind).isSome, .state)]
        (storeJob j (j.w 1) (padTo 7492 ((certBytes u kind).getD [])) .ok (wordsOf [7492]) u) refuse)
    ∧ (Turn .keysRootProvision s j u → ∀ (x : Bytes) (v : State), drawBytes 128 u = (x, v) →
        let value (n : Nat) : Word := word (getLe x (8 * n) 8)
        let new (a : Nat) : Reads :=
          if 0x200 ≤ a ∧ a < 0x210 then (codeword (value (a - 0x200)), codeword (value (a - 0x200))) else otpLive v a
        let d := bvBytes (regionDigest new 4)
        Admits .keysRootProvision s
          [(isHmb j.seat, .denied), (roleOf u j.seat == .maker, .denied),
           (lc == lcTest && !u.keys.held && regionState u 4 == .opened
             && (List.range 128).all (fun n => otpLive u (0x200 + n) == (0, 0)), .state)]
          (pumpOtp (queueBurn { owner := .job j.id, seat := stampOf j.seat, todo :=
              (List.range 16).map (fun n => ({ addr := 0x200 + n, want := codeword (value n) } : WordBurn))
              ++ (List.range 3).map (fun n =>
                ({ addr := 0x91 + n, want := codeword (word (getLe d (8 * n) 8)) } : WordBurn))
              ++ [{ addr := 0x90, want := 0xFFFF }] } v))
          (fun st => pumpOtp (refuseJob j st u)))

/-- Staging and handover commands by the check orders of Table 8-13 (R261 to R267): the target erased, staged bytes
fetched, the component verified as it stands in flash, cancelled, activated; the handover record put, got (a wrong
digest ends the record), counter 1 taken to the version in force, and the secret area read, written or erased. Where a
rule leaves room, the model's reading stands in assumption entries 3, 60 and 61. -/
def Obligations.BootCommands : Prop :=
  ∀ (s u : State) (j : Job),
    let hmb := isHmb j.seat
    let c := j.f 0 0 3
    let g := u.boot.stage.getD { seat := j.seat }
    let b := j.f 0 0 1 == 1
    let h := slotHeader u b
    let refuse (st : Status) : State := refuseJob j st u
    (Turn .bootStageBegin s j u → Admits .bootStageBegin s
        [(hmb, .denied),
         (zeroFrom (j.w 0) 3 && decide (1 ≤ c) && decide (c ≤ 4) && zeroFrom (j.w 1) 32 && decide (1 ≤ j.f 1 0 32)
           && decide (j.f 1 0 32 ≤ componentMax c), .badArgument),
         (componentRole u j.seat c, .denied), (bootLc u && stageAdmitted u c, .state)]
        (decideJob j .ok (wordsOf [if c = 1 then word (nextGen u) else 0]) (stageBegin j.seat false c (j.f 1 0 32) u))
        refuse)
    ∧ (Turn .bootStageData s j u → Admits .bootStageData s
        [(sessionSeat u j.seat, .denied),
         (zeroFrom (j.w 1) 32 && zeroFrom (j.w 2) 21 && decide (1 ≤ j.f 2 0 21) && decide (j.f 2 0 21 ≤ 0x100000)
           && (u.boot.stage.isNone || (j.f 1 0 32 == g.bytes && decide (g.bytes + j.f 2 0 21 ≤ g.length))), .badArgument),
         (u.boot.stage.isNone || componentRole u j.seat g.component.toNat, .denied),
         (bootLc u && u.boot.stage.isSome, .state)]
        (fetchJob j (j.w 0) (j.f 2 0 21) u) refuse)
    ∧ (Turn .bootStageFinish s j u →
        let v := stageVerdict u g
        Admits .bootStageFinish s
          [(sessionSeat u j.seat, .denied),
           (u.boot.stage.isNone || componentRole u j.seat g.component.toNat, .denied),
           (bootLc u && u.boot.stage.isSome && finishAdmitted u g, .state)]
          (if v.status ≠ .ok then failJob j v.status u
           else decideJob j .ok (wordsOf ((List.range 6).map (fun n => word (getLe (bvBytes v.measure) (8 * n) 8))
             ++ [word (v.family * 2 ^ 16 + v.version)])) (stageEnd g u)) refuse)
    ∧ (Turn .bootStageCancel s j u → Admits .bootStageCancel s
        [(sessionSeat u j.seat, .denied), (bootLc u && u.boot.stage.isSome, .state)]
        (decideJob j .ok noWords { u with boot := { u.boot with stage := none } }) refuse)
    ∧ (Turn .bootActivate s j u → Admits .bootActivate s
        [(hmb, .denied), (zeroFrom (j.w 0) 1 && zeroFrom (j.w 1) 32, .badArgument), (operatorRight u j.seat, .denied),
         (activateAdmitted u b (j.f 1 0 32), .state), (headerOk h && svnAdmitted u h && bodyFits u h, .badArgument)]
        (let r := activate b u
         if imageSigned u h then
           decideById j.id (if r.2 == some b then .ok else .badArgument) (wordsOf [word (bit (r.2.getD b))]) r.1
         else refuse .pkeVerifyFail) refuse)
    ∧ (Turn .bootHandoverPut s j u → Admits .bootHandoverPut s
        [(j.seat = mgmt, .denied),
         (zeroFrom (j.w 1) 25 && decide (1 ≤ j.f 1 0 25) && decide (j.f 1 0 25 ≤ 16777216), .badArgument),
         (putAdmitted u, .state)]
        (fetchJob j (j.w 0) (j.f 1 0 25)
          (flashProgram handoverBase (leBytes 2 0xFFFE) (flashErase handoverBase handoverSize u))) refuse)
    ∧ (Turn .bootHandoverGet s j u →
        let x := handoverRecord u
        let e : EventRec := { code := 0x0B01, seat := stampOf j.seat, status := statusCode .fault,
                              opcode := opcodeOf j.op, object := word handoverBase }
        Admits .bootHandoverGet s
          [(j.seat = mgmt, .denied), (zeroFrom (j.w 1) 25 && zeroFrom (j.w 2) 1, .badArgument), (getAdmitted u, .state),
           (decide (getLe (handoverHeader u) 8 4 ≤ j.f 1 0 25), .badArgument)]
          (if bvBytes (Config.sha3_384 x) == slice (handoverHeader u) 112 48 then
             storeJob j (j.w 0) x .ok (wordsOf [word x.length]) u
           else failJob j .fault (flashProgram handoverBase (leBytes 2 0xFFF8) (record e u))) refuse)
    ∧ (Turn .bootConfigCommit s j u → Admits .bootConfigCommit s
        [(hmb, .denied), (roleOf u j.seat == .installer, .denied), (countersAdvance u, .state)]
        (pumpOtp (queueBurn { owner := .job j.id, seat := stampOf j.seat,
                              todo := counterBurn u 1 u.boot.cfg.version.toNat } u))
        (fun st => pumpOtp (refuseJob j st u)))
    ∧ (Turn .bootSecretAccess s j u →
        let op := j.f 0 0 2
        let off := (j.w 2).toNat
        let len := j.f 3 0 21
        let z := sectorSize u
        Admits .bootSecretAccess s
          [(j.seat = mgmt, .denied),
           (zeroFrom (j.w 0) 2 && decide (op ≤ 2) && zeroFrom (j.w 3) 21 && decide (off < secretSize)
             && (op == 2 || (decide (1 ≤ len) && decide (off + len ≤ secretSize))), .badArgument),
           (u.lc.state == lcIntegration || u.lc.state == lcFielded, .state)]
          (if op = 0 then storeJob j (j.w 1) (flashRead u (secretBase + off) len) .ok (wordsOf [word len]) u
           else if op = 1 then fetchJob j (j.w 1) len u
           else decideJob j .ok (wordsOf [word z]) (flashErase (secretBase + off / z * z) z u)) refuse)

/-! ## PKE, DIG and ING -/

/-- The PKE commands (R275, R276, R285, R286, R290, R292, R295, R296): offline PKE answers ST_FAULT; past the orders
of Table 9-6 a job whose kind of block is gone ends ST_RETIRED, and any other takes its blocks and reads its input, or
computes at once when it has none; the freed choice is made again. A curve command changes its slot's state.
HYBRID_SECOND_PART (R286): the oldest job with a part that waits takes a free block of the part's kind, and a job that
has its input submits the part's first unit at once. Where a rule leaves room, the model's reading stands in
assumption entries 3, 23 and 67. -/
def Obligations.PkeWork : Prop :=
  (∀ (s u : State) (j : Job),
      let k := kindsOf j.op j.alg
      let v := giveBlocks j u
      let curve := j.op == .pkeCurveLoad || j.op == .pkeCurveClear
      let checks : List (Bool × Status) :=
        [(!curve || isHmb j.seat, .denied), (pkeArgsOk u j, .badArgument), (pkeRightsOk u j, .denied), (pkeStateOk u j, .state)]
      let under : State := match v.job? j.id with
        | none => v
        | some x => if x.inLen = 0 || x.op == .pkePublic then compute x.id v else fetchJob x (x.w 1) x.inLen v
      let begun : State := if k.1 && kindGone u false || k.2 && kindGone u true then failJob j .retired u else under
      let mark (t : State) : State := match t.job? j.id with
        | some x => if u.pke.curves[j.curveIx].st == .empty && x.stage == .fetch then
            modCurve j.curveIx (fun c => { c with st := .checking }) t else t
        | none => t
      let plain (o : Op) (c : Instr) (f : State → State) : Prop := PkeTurn o s j u →
        (u.core.pkeOffline = true → exec c s = .next (choosePke (f (failJob j .fault u))))
        ∧ (u.core.pkeOffline = false →
            Admits c s checks (choosePke (f begun)) (fun st => choosePke (f (refuseJob j st u))))
      plain .pkeSign .pkeSign id ∧ plain .pkeVerify .pkeVerify id ∧ plain .pkeHybridSign .pkeHybridSign id
      ∧ plain .pkeHybridVerify .pkeHybridVerify id ∧ plain .pkeEcdh .pkeEcdh id ∧ plain .pkeKemEncaps .pkeKemEncaps id
      ∧ plain .pkeKemDecaps .pkeKemDecaps id ∧ plain .pkePublic .pkePublic id ∧ plain .pkeRsaSign .pkeRsaSign id
      ∧ plain .pkeRsaVerify .pkeRsaVerify id ∧ plain .pkeCurveLoad .pkeCurveLoad mark
      ∧ (PkeTurn .pkeCurveClear s j u →
          (u.core.pkeOffline = true → exec .pkeCurveClear s = .next (choosePke (failJob j .fault u)))
          ∧ (u.core.pkeOffline = false → Admits .pkeCurveClear s
              [(isHmb j.seat, .denied), (pkeArgsOk u j, .badArgument), (pkeRightsOk u j, .denied), (pkeStateOk u j, .state)]
              (choosePke (settle (modCurve j.curveIx (fun c => { c with st := .clearing, clearJob := some j.id }) u)))
              (fun st => choosePke (refuseJob j st u)))))
  ∧ (∀ (s : State), ctrlUp s = true → engInReset s .pke = false →
        (∀ (x : Job) (b : Fin 6), s.jobs.find? (fun y => y.lt == .waiting && (freeBlock s true).isSome
            || y.bn == .waiting && (freeBlock s false).isSome) = some x →
          let lat := x.lt == .waiting && (freeBlock s true).isSome
          freeBlock s lat = some b →
          exec .hybridSecondPart s = .next
            (if x.stage = .engine then submitUnit { owner := .pke x.id b } (takeBlock x.id lat b s) else takeBlock x.id lat b s))
        ∧ (s.jobs.find? (fun y => y.lt == .waiting && (freeBlock s true).isSome
            || y.bn == .waiting && (freeBlock s false).isSome) = none → exec .hybridSecondPart s = .next s))

/-- The DIG commands (R305, R306, R315 to R325) by the check orders of Table 10-4: offline DIG answers ST_FAULT, and
no healthy pipeline ST_RETIRED but for DIG_ABORT and DIG_COMPARE; a yielded job at its turn gets its context back; a
drain starts at its seat's turn. Where a rule leaves room, the model's reading stands in assumption entries 3 and 68.
-/
def Obligations.DigCommands : Prop :=
  ∀ (s u : State) (j : Job),
    let i := jobMsg u j
    let m := u.msg (i.getD 0)
    let slots := decide ((seatMsgs u j.seat).length < 4)
    let key := (u.slot ((ownSlot u j.seat (j.f 2 0 16)).getD 0)).content
    let named : List (Bool × Status) :=
      [(msgArgsOk u j, .badArgument), (msgRightsOk u j, .denied), (digStateOk u, .state),
       (msgState u m != .failed || j.op == .digAbort, msgFailStatus m), (stateAdmits m (msgState u m) j.op, .state),
       (!(j.op == .digFinal && m.dest == 2) || quotaFree u j.seat, .state)]
    let piped (t : State) : State := if pipesOk u = 0 then failJob j .retired u else t
    let job (o : Op) (c : Instr) (checks : List (Bool × Status)) (effect : State) : Prop := DigTurn o s j u →
      (u.core.digOffline = true → exec c s = .next (failJob j .fault u))
      ∧ (u.core.digOffline = false → Admits c s checks effect (fun st => refuseJob j st (settleKey j u)))
    let again (o : Op) (c : Instr) : Prop := ∀ n a (x : Job), mayStart s .dig = true → pipeFree s = true →
      arbTurn s .dig (digWork s) = some (n, a) → yielded s n = some x → x.op = o →
      exec c s = .next (digContext x { s with arbs := vset s.arbs (engineIx .dig) a })
    job .digOpen .digOpen
      [(openArgsOk u j, .badArgument), (openRightsOk u j, .denied),
       (digStateOk u && slots && (j.f 0 24 2 != 2 || quotaFree u j.seat), .state)]
      (piped (if j.f 5 0 9 = 0 then digContext j u else fetchJob { j with holds := true } (j.w 4) (j.f 5 0 9) u))
    ∧ job .digRestore .digRestore [((j.w 0).toNat % 1024 == 0, .badArgument), (digStateOk u && slots, .state)]
      (piped (fetchJob { j with holds := true } (j.w 0) 620 u))
    ∧ job .digAbsorb .digAbsorb named (piped (digContext j u))
    ∧ job .digSave .digSave named (piped (digContext j u))
    ∧ job .digFinal .digFinal named
      (piped (if m.data.length < m.length then
          failJob j .digShort { u with dig := { u.dig with short := satInc u.dig.short } } else digContext j u))
    ∧ job .digCompare .digCompare named
      (if j.f 1 0 1 = 1 then endCompare j key u else fetchJob j (j.w 2) m.outLen u)
    ∧ job .digAbort .digAbort named (decideJob j .ok noWords (freeMsg (i.getD 0) u))
    ∧ again .digOpen .digOpen ∧ again .digAbsorb .digAbsorb ∧ again .digFinal .digFinal
    ∧ (∀ n a, mayStart s .dig = true → pipeFree s = true → arbTurn s .dig (digWork s) = some (n, a) →
        drainable s n = true → exec .digDrain s = .next (startDrain n { s with arbs := vset s.arbs (engineIx .dig) a }))

/-- The ING commands (R331, R333, R339, R346 to R349, R352, R355) by the check order of Table 11-7, which begins with
STRM's quarantine: the plan buffer read, a plan freed, the 192-byte shard record, the sweep rate, the model keys of a
partition zeroized, and a load that takes a stream lane, makes its plan LOADING and reads the envelope. Where a rule
leaves room, the model's reading stands in assumption entries 3, 23 and 80. -/
def Obligations.IngCommands : Prop :=
  ∀ (s u : State) (j : Job),
    let p := u.ing.plans[j.plan]
    let n := ingPart j
    let len := j.f 2 0 11
    let rate := j.f 0 0 7
    let job (o : Op) (c : Instr) (seats args right state : Bool) (effect : State) : Prop := IngTurn o s j u →
      Admits c s [(!u.core.strmQuar, .fault), (seats, .denied), (args, .badArgument), (right, .denied),
        (ingStateOk u && state, .state)] effect (fun st => refuseJob j st u)
    job .ingPlan .ingPlan (partOrMgmt j.seat)
      (zeroFrom (j.w 0) 6 && zeroFrom (j.w 2) 11 && decide (24 ≤ len) && decide (len ≤ 1032) && len % 16 == 8) true
      (partExists u n && !quarantined u n && (indices 256).any (fun i => u.ing.plans[i].st == .free))
      (fetchJob j (j.w 1) len u)
    ∧ job .ingPlanFree .ingPlanFree (partOrMgmt j.seat) (zeroFrom (j.w 0) 8 && planMine u j) true
      (p.st == .ready || p.st == .failed || p.st == .resident) (decideJob j .ok noWords (freePlan j.plan u))
    ∧ job .ingShardInfo .ingShardInfo (j.seat.val < 64 || isHmb j.seat) (zeroFrom (j.w 0) 8 && planMine u j) true
      (p.st != .free) (storeJob j (j.w 1) (shardRecord u j.plan) .ok (wordsOf [192]) u)
    ∧ job .ingSweepSet .ingSweepSet (isHmb j.seat) (zeroFrom (j.w 0) 7 && decide (1 ≤ rate) && decide (rate ≤ 64))
      (operatorRight u j.seat) true
      (decideJob j .ok (wordsOf [word rate]) { u with ing := { u.ing with rate := BitVec.ofNat 8 rate } })
    ∧ job .ingKeyDrop .ingKeyDrop (partOrMgmt j.seat) (zeroFrom (j.w 0) 6) true (partExists u n)
      (decideJob j .ok (wordsOf [word u.keys.models[n].length]) (zeroModelKeys n u))
    ∧ ∀ (k : Lane), freeLane u = some k →
      let l : Load := { job := j.id, plan := j.plan, part := p.part, lane := k, doorbell := j.w 2 }
      let v := u.modPlan j.plan (fun p => { p with st := .loading })
      job .ingLoad .ingLoad (partOrMgmt j.seat) (zeroFrom (j.w 0) 8 && fld (j.w 2) 0 6 == 0 && planMine u j) true
        ((p.st == .ready || p.st == .failed) && partExists u p.part && !quarantined u p.part)
        (if healthyCount v aesCells = 0 || healthyCount v keccakCells = 0 then
          failLoad l 0x0C .retired { v with ing := { v.ing with loads := v.ing.loads ++ [l] } }
         else fetchJob j (j.w 1) 10097 { v with ing := { v.ing with loads := v.ing.loads ++ [l] } })

/-! ## PART and REC -/

/-- The partition commands by the check orders of Table 12-7 (R360, R366 to R368, R371, R373, R378, R392): creation
resets the seat, counts and stamps; a build session takes the shadow; destroying departs the partition and starts the
teardown swap; a swap is validated before the units are asked; the other commands read their buffers first. Where a
rule leaves room, the model's reading stands in assumption entries 3 and 71 to 74. -/
def Obligations.PartCommands : Prop :=
  ∀ (s u : State) (j : Job),
    let n := j.part
    let hmb := isHmb j.seat
    let oper := operatorRight u j.seat
    let refuse (st : Status) : State := refuseJob j st u
    let owner : Bool × Status := (hmb && (u.part.session.isNone || u.part.session == some j.seat), .denied)
    let session : Bool := partPower u && partLc u && u.part.session == some j.seat && u.part.swap.isNone
    (Turn .partCreate s j u → Admits .partCreate s
        [(hmb, .denied), (fld (j.w 0) 6 2 == 0 && zeroFrom (j.w 0) 9, .badArgument), (oper, .denied),
         (partPower u && modeAdmitted u (j.f 0 8 1 == 1) && !u.lc.hold && !makerDebug u && u.part.recs[n].st == .free
           && !departedOf u n, .state)]
        (let v := zeroModelKeys n (resetSeat (seatNo n.val) u)
         let c := nextSeq v.part.creations
         let w := { v with part := { v.part with creations := c } }
         let t := w.modPart n (fun _ => { st := .active, conf := j.f 0 8 1 == 1, created := c, cstamp := stampNow w,
                                          digest := fbDigest w.part.active n, dbgHighest := w.lc.level })
         decideJob j .ok (wordsOf [c.zeroExtend 64, t.beat.lbeat]) t) refuse)
    ∧ (Turn .partDestroy s j u → Admits .partDestroy s
        [(hmb, .denied), (zeroFrom (j.w 0) 6, .badArgument), (oper, .denied),
         (partPower u && partLc u && u.part.recs[n].st == .active && u.part.session.isNone && !shadowTaken u
           && u.beat.mode == .locked, .state)]
        (teardownSwap n (departPartition n j.id u)) refuse)
    ∧ (Turn .partShadowBegin s j u → Admits .partShadowBegin s
        [(hmb, .denied), (zeroFrom (j.w 0) 1, .badArgument), (oper, .denied),
         (partPower u && partLc u && u.part.session.isNone && !shadowTaken u, .state)]
        (decideJob j .ok noWords (loadShadow (if j.w 0 = 0 then u.part.active else [])
          { u with part := { u.part with session := some j.seat } })) refuse)
    ∧ (Turn .partShadowWrite s j u → Admits .partShadowWrite s
        [owner, (zeroFrom (j.w 0) 12 && zeroFrom (j.w 2) 13 && decide (1 ≤ j.f 2 0 13)
          && decide (j.f 0 0 12 + j.f 2 0 13 ≤ 4096) && aligned64 (j.w 1), .badArgument), (oper, .denied),
         (session && true, .state)]
        (fetchJob j (j.w 1) (16 * j.f 2 0 13) u) refuse)
    ∧ (Turn .partShadowCancel s j u → Admits .partShadowCancel s
        [owner, (true, .badArgument), (oper, .denied), (session && true, .state)]
        (decideJob j .ok noWords (endBuild u)) refuse)
    ∧ (Turn .partSwap s j u →
        let beat := if j.w 0 = 0 then lbeat u + 512 else (j.w 0).toNat
        Admits .partSwap s
          [owner, (true, .badArgument), (oper, .denied),
           (session && (decide (lbeat u + 288 ≤ beat) && u.beat.mode == .locked), .state)]
          (match shadowFault u u.part.shadow with
            | some (c, i) => decideJob j .badArgument (wordsOf [0, word (c * 2 ^ 12 + i)]) u
            | none => askCrc { job := some j.id, beat := word beat } u) refuse)
    ∧ (Turn .partClearRetry s j u →
        let again (r : ClearRun) : ClearRun :=
          if r.part = n then { r with fails := 0, sent := false, settled := false, drewFailed := false } else r
        let v := u.modPart n (fun x => { x with st := .clearing, job := some j.id })
        Admits .partClearRetry s
          [(hmb, .denied), (zeroFrom (j.w 0) 6, .badArgument), (oper, .denied),
           (partPower u && partLc u && u.part.recs[n].st == .clearFailed, .state)]
          (pumpClearing { v with part := { v.part with runs := v.part.runs.map again } }) refuse)
    ∧ (Turn .partEvidence s j u → Admits .partEvidence s
        [(j.seat.val < 64 || hmb, .denied),
         (zeroFrom (j.w 0) 6 && zeroFrom (j.w 2) 7 && zeroFrom (j.w 4) 32 && decide (j.f 2 0 7 ≤ 64)
           && (j.f 2 0 7 == 0 || aligned64 (j.w 1)) && aligned64 (j.w 3), .badArgument),
         (partPower u && evidenceOk u && partExists u (evPart j), .state)]
        (if j.f 2 0 7 = 0 then evidenceView j [] u else fetchJob j (j.w 1) (j.f 2 0 7) u) refuse)
    ∧ (Turn .partGroveCollect s j u → Admits .partGroveCollect s
        [(hmb, .denied),
         (zeroFrom (j.w 1) 17 && zeroFrom (j.w 4) 32 && decide (1 ≤ j.f 1 0 17) && decide (j.f 1 0 17 ≤ 65536)
           && aligned64 (j.w 0) && aligned64 (j.w 2) && aligned64 (j.w 3) && aligned64 (j.w 5), .badArgument),
         (oper, .denied),
         (partPower u && evidenceOk u && u.part.collection.isNone
           && !u.jobs.any (fun x => x.op == .partGroveCollect && x.id != j.id && x.stage == .fetch), .state)]
        (fetchJob j (j.w 0) (64 * j.f 1 0 17) u) refuse)

/-- The recorder commands by the check orders of Table 13-10 (R401, R406, R412, R413, R419): copies of event records
and of heartwood records, the log restarted with its own record, a cell re-tested, and a dump that records itself and
reads the partition's memory 4 KiB at a time. Where a rule leaves room, the model's reading stands in assumption
entries 3, 20, 85 and 86. -/
def Obligations.RecCommands : Prop :=
  ∀ (s u : State) (j : Job),
    let n := j.part
    let hmb := isHmb j.seat
    let oper := operatorRight u j.seat
    let lc := u.lc.state
    let cell : Cell := Fin.ofNat 92 (j.f 0 0 7)
    let refuse (st : Status) : State := refuseJob j st u
    (Turn .recRead s j u → Admits .recRead s
        [(hmb, .denied),
         (zeroFrom (j.w 0) 13 && zeroFrom (j.w 2) 13 && decide (1 ≤ j.f 2 0 13)
           && decide (j.f 0 0 13 + j.f 2 0 13 ≤ 4096) && aligned64 (j.w 1), .badArgument),
         (oper || (isMaker u j.seat && (lc == lcBlank || lc == lcScrapped)), .denied)]
        (storeJob j (j.w 1) (eventCopy u (j.f 0 0 13) (j.f 2 0 13)) .ok
          (wordsOf [word (j.f 2 0 13), u.recd.headSeq.zeroExtend 64]) u) refuse)
    ∧ (Turn .recClear s j u → Admits .recClear s
        [(hmb, .denied), (zeroFrom (j.w 0) 32, .badArgument), (oper, .denied),
         (lc != lcScrapped && (j.w 0).toNat == u.recd.headSeq.toNat, .state)]
        (let v := record { code := 0x1002, seat := stampOf j.seat, opcode := opcodeOf .recClear,
                           detail := leBytes 2 u.recd.lost.toNat }
            { u with recd := { u.recd with recs := [], firstSeq := nextSeq u.recd.headSeq, lost := 0 } }
         decideJob j .ok (wordsOf [v.recd.firstSeq.zeroExtend 64]) v) refuse)
    ∧ (Turn .recHwRead s j u → Admits .recHwRead s
        [(hmb, .denied),
         (zeroFrom (j.w 0) 14 && zeroFrom (j.w 2) 15 && decide (1 ≤ j.f 2 0 15)
           && decide (j.f 0 0 14 + j.f 2 0 15 ≤ 16384) && aligned64 (j.w 1), .badArgument),
         (mayReadHeartwood u j.seat, .denied)]
        (storeJob j (j.w 1) (hwCopy u (j.f 0 0 14) (j.f 2 0 15)) .ok
          (wordsOf [word (j.f 2 0 15), word (u.recd.resNext * 2 ^ 16 + u.recd.genNext)]) u) refuse)
    ∧ (Turn .recRetest s j u → Admits .recRetest s
        [(hmb, .denied), (zeroFrom (j.w 0) 7 && decide (j.f 0 0 7 < 92), .badArgument), (oper, .denied),
         (lc != lcScrapped && u.cells[cell].retired && u.cells[cell].retest.isNone
           && !engOffline u (cellEngine cell) && !engInReset u (cellEngine cell)
           && (cellEngine cell != .ing || u.core.power == .full), .state)]
        (u.modCell cell (fun x => { x with retest := some j.id })) refuse)
    ∧ (Turn .recDumpRead s j u → Admits .recDumpRead s
        [(hmb, .denied),
         (zeroFrom (j.w 0) 6 && zeroFrom (j.w 3) 27 && decide (4096 ≤ j.f 3 0 27) && decide (j.f 3 0 27 ≤ 0x4000000)
           && j.f 3 0 27 % 4096 == 0 && (j.w 1).toNat % 4096 == 0 && aligned64 (j.w 2), .badArgument),
         (oper && !(partExists u n && u.part.recs[n].conf), .denied),
         (partPower u && lc != lcScrapped && partExists u n, .state)]
        (if dumpSource u n (j.w 1).toNat (j.f 3 0 27) = false then failJob j .badArgument u
         else issue { obo := BitVec.ofNat 8 n.val, addr := j.w 1 + word j.num, len := 4096, owner := .job j.id }
          (setJob { j with stage := .fetch }
            (record { code := 0x1001, seat := stampOf j.seat, part := BitVec.ofNat 8 n.val,
                      opcode := opcodeOf .recDumpRead, object := j.w 1, detail := leBytes 4 (j.f 3 0 27) } u))) refuse)

/-! ## Cells, engines, results and the initiator -/

/-- The outcome of a unit on a cell (R24 to R27): delivered and the cell's count of errors cleared; after an error the
fourth attempt ends the work with ST_TRANSIENT, otherwise the unit goes to the next cell, waits ahead of untried
units, or ends with ST_RETIRED. A test due that fails retires the cell; one that passes clears it (R29); with neither
a test due nor a re-test the event changes nothing. Where a rule leaves room, the model's reading stands in assumption
entry 24. -/
def Obligations.CellOutcomes : Prop :=
  ∀ (c : Cell) (s : State), cellRuns s c = true →
    let after (t : State) : State := placeWaiting (cellsLost t)
    (∀ u more, s.cells[c].work = some u →
      let v := idleCell c s
      let x : CellUnit := { u with attempts := u.attempts + 1, tried := u.tried ++ [c] }
      let w := cellError c (unitCode u.owner) (u.attempts + 1) v
      exec (.cellUnitDone c true more) s = .next (after (deliver u.owner c more (v.modCell c (fun y => { y with consecutive := 0 }))))
      ∧ (3 ≤ u.attempts → exec (.cellUnitDone c false more) s = .next (after (unitFailed u.owner .transient w)))
      ∧ (u.attempts < 3 →
        (placeUnit w x = .noneLeft → exec (.cellUnitDone c false more) s = .next (after (unitFailed u.owner .retired w)))
        ∧ (∀ d, placeUnit w x = .onCell d → exec (.cellUnitDone c false more) s = .next (after (giveUnit d x (countRetry x w))))
        ∧ (placeUnit w x = .wait → exec (.cellUnitDone c false more) s = .next
            (after (countRetry x { w with units := x :: w.units })))))
    ∧ (∀ id failed, s.cells[c].retest = some id →
        exec (.knownAnswerTestDone c failed) s = .next (endRetest c id failed s))
    ∧ (s.cells[c].retest = none → ∀ failed,
        (s.cells[c].testDue = false → exec (.knownAnswerTestDone c failed) s = .next s)
        ∧ (s.cells[c].testDue = true → failed = 0 → exec (.knownAnswerTestDone c failed) s = .next
            (placeWaiting (s.modCell c (fun y => { y with testDue := false }))))
        ∧ (s.cells[c].testDue = true → failed ≠ 0 → exec (.knownAnswerTestDone c failed) s = .next
            (after (retireCell c 3 s))))

/-- An engine fault (R31 to R36) is counted in its window, recorded in the log and the heartwood and signalled; the
third within 2^24 beats escalates by the engine, a fault of SEQ during the start is core fault 0x03, any other drops
the engine's work and resets it. The end of the reset retires the cells that failed their test and resumes. At each
multiple of 2^24 beats a microcode store that differs from its digest is an engine fault (R300). Where a rule leaves
room, the model's reading stands in assumption entries 65 and 66. -/
def Obligations.EngineFaultsAndResets : Prop :=
  ∀ (e : Engine) (s : State),
    (ctrlUp s = true → engOffline s e = false → (e = .ing → s.core.strmQuar = false) → ∀ cause,
      let w := faultWindow s e
      let u := raiseCore irqEng
        (hwNote 0x0020 (leBytes 1 (engineNum e) ++ leBytes 1 (engCauseCode cause) ++ leBytes 1 w.length)
          (record { code := 0x0301, object := word (engineNum e), detail := leBytes 1 (engCauseCode cause) }
            { s with core := { s.core with
                faultBeats := vset s.core.faultBeats (engineIx e) (if 3 ≤ w.length then [] else w) } }))
      (e = .seq → u.core.startDone = false → exec (.engineFault e cause) s = .next (coreFault 0x03 u))
      ∧ ((e = .seq → u.core.startDone = true) → 3 ≤ w.length →
          exec (.engineFault e cause) s = .next (escalate e (engCauseCode cause) w.length u))
      ∧ ((e = .seq → u.core.startDone = true) → w.length < 3 →
          exec (.engineFault e cause) s = .next (dropWork e (setEngReset e true u))))
    ∧ (ctrlUp s = true → engInReset s e = true → ∀ cs : List Cell,
        let bad := if e ≠ .ing ∨ s.core.power = .full then cs.filter (fun c => cellEngine c == e && healthy s c) else []
        exec (.engineResetDone e cs) s = .next (placeWaiting (cellsLost (resumeEngine e
          (record { code := 0x0302, object := word (engineNum e) }
            (setEngReset e false (freshCells e (retireCells bad 4 s))))))))
    ∧ (ctrlUp s = true → s.boot.mcLoaded = true → s.beat.lastDigest < lbeat s / 2 ^ 24 → ∀ p d,
        let u := { s with beat := { s.beat with lastDigest := lbeat s / 2 ^ 24 } }
        let v := if p = true ∨ Config.sha3_384 s.pke.store ≠ s.pke.storeDigest then engineFault .pke .microcode u else u
        exec (.microcodeDigestCheck p d) s = .next (if d = true then engineFault .dig .microcode v else v))

/-- A decided result is posted when its time has come (R121, log entry 4); the next queued heartwood record is written
with its read-backs, in order (R416); the background check of the chain digests sets its two flags and notes each
break (R418). Where a rule leaves room, the model's reading stands in assumption entries 4 and 87. -/
def Obligations.ResultsAndHeartwood : Prop :=
  ∀ (s : State),
    (∀ n c e id j st ws, (s.seat n).entries[entryIx c e].st = .started id → s.job? id = some j → j.stage = .ready st ws →
      exec (.jobComplete n c e) s = .next (finishJob j st ws s))
    ∧ (∀ h hs k, s.recd.queue = h :: hs → s.pins.porAonN = true →
      exec (.heartwoodWrite k) s = .next
        (hwWrite h.kind h.stamp h.detail h.cell k { s with recd := { s.recd with queue := hs } }).1)
    ∧ (s.recd.replayDone = true → s.recd.chainDone = false →
      let broken := (hwValid s.recd.heartwood).filter (hwBroken s.recd.heartwood)
      exec .heartwoodChainCheck s = .next (broken.foldl (fun s e => hwCondition 2 (hwNote 0x00B1 (leBytes 2 e.1) s))
        { s with recd := { s.recd with chainDone := true, chainOk := broken.isEmpty } }))

/-- The fabric's answers by tag (R71 to R74): a response goes to the transaction's owner with its read data, an error
or a timeout costs what R73 says, a timed-out tag stays late until its response comes, which is discarded and
recorded; a response of a tag that is not outstanding is discarded. Where a rule leaves room, the model's reading
stands in assumption entry 8. -/
def Obligations.InitiatorAnswers : Prop :=
  ∀ (tag : BitVec 6) (s : State),
    let gone := { s with fi := { s.fi with live := s.fi.live.filter (fun x => x.tag != tag) } }
    let late := s.fi.late.filter (· != tag) ++ [tag]
    let goneLate := { s with fi := { s.fi with live := s.fi.live.filter (fun x => x.tag != tag), late := late } }
    (∀ t, s.fi.live.find? (fun t => t.tag == tag) = some t → ctrlUp s = true →
      (∀ data, exec (.initiatorResponse tag data) s = .next (goOn (txnDone t (padTo t.len data) gone)))
      ∧ exec (.initiatorError tag) s = .next (goOn (txnFailed t gone))
      ∧ exec (.initiatorTimeout tag) s = .next (goOn (txnFailed t goneLate)))
    ∧ (s.fi.live.find? (fun t => t.tag == tag) = none →
      (∀ data, exec (.initiatorResponse tag data) s = .next (forgetTag tag s))
      ∧ exec (.initiatorError tag) s = .next (forgetTag tag s))
    ∧ (s.fi.late.contains tag = true → exec (.initiatorLateResponse tag) s = .next
        (record { code := 0x0603, object := tag.zeroExtend 64 }
          { s with fi := { s.fi with late := s.fi.late.filter (· != tag) } }))

/-! ## Ingest streams, HBM, the sweep and the links -/

/-- Chunks of a load, in STRM that runs (R76 to R79, R342): a chunk of the tag of a streaming load, with 257 beats and
its first-beat mark, goes to an AES-GCM lane while fewer than two wait; any other is dropped and counted. The 64th
good acknowledgement lands the chunk, an error fails the load; 2^20 beats without a chunk ask for the missing one.
Where a rule leaves room, the model's reading stands in assumption entry 79. -/
def Obligations.StreamsAndHbm : Prop :=
  ∀ (s : State),
    (strmRuns s = true → ∀ (k : Lane) (tag : BitVec 16) first beats data,
      let found := s.ing.loads.find? (fun l => l.phase == .streaming && l.tag == tag)
      (found = none → exec (.streamChunk k tag first beats data) s = .next (dropChunk tag s))
      ∧ (∀ l, found = some l → beats ≠ 257 ∨ first = false ∨ envChunks l.env ≤ l.accepted →
          exec (.streamChunk k tag first beats data) s = .next (dropChunk tag s))
      ∧ (∀ l, found = some l → beats = 257 → first = true → l.accepted < envChunks l.env → buffered s l.job < 2 →
          exec (.streamChunk k tag first beats data) s = .next (submitUnit { owner := .chunk l.job l.accepted }
            (setLoad { l with accepted := l.accepted + 1, rereqs := 0, lastBeat := s.beat.lbeat,
                              chunks := l.chunks ++ [{ index := l.accepted, cipher := padTo 4112 data }] } s))))
    ∧ (ctrlUp s = true → ∀ (k : Lane) (w : HbmWait) (l : Load) (c : Chunk), hbmFront s k = some w →
      let u := { s with ing := { s.ing with hbm := hbmStep k s.ing.hbm } }
      loadOf u w.job = some l → chunkOf l w.index = some c →
        exec (.hbmWriteAck k true) s = .next (failLoad l 0x0A .fault
          (record { code := 0x0D03, seat := loadSeat u l, part := BitVec.ofNat 8 l.part.val,
                    object := word (w.addr + 64 * (64 - w.left)) } u))
        ∧ (w.left ≤ 1 → exec (.hbmWriteAck k false) s = .next
            (foldChunks l.job (setLoad (setChunk { c with stage := .landed } l) u)))
        ∧ (1 < w.left → exec (.hbmWriteAck k false) s = .next u))
    ∧ (∀ (tag : BitVec 16) (l : Load),
        s.ing.loads.find? (fun l => l.phase == .streaming && l.tag == tag) = some l → strmRuns s = true →
        l.accepted < envChunks l.env → l.lastBeat.toNat + 2 ^ 20 ≤ lbeat s →
        exec (.ingestChunkTimeout tag) s = .next (missingChunk l s))

/-- The resident sweep (R80, R148, R353, R354): once per beat the credit grows by rate and period up to 64 KiB and
reads go out while it holds 4 KiB; data of an abandoned pass is discarded by count, data of the pass is kept for its
Keccak lane, and a read error ends the pass with READ_ERROR. Where a rule leaves room, the model's reading stands in
assumption entry 81. -/
def Obligations.SweepMoves : Prop :=
  ∀ (s : State),
    (ctrlUp s = true → s.beat.lastCredit ≠ lbeat s →
      let c := { s with ing := { s.ing with credit := min 65536 (s.ing.credit + s.ing.rate.toNat * periodInForce s / 256) },
                        beat := { s.beat with lastCredit := lbeat s } }
      let u := checkPass c
      exec .sweepCredit s = .next (if sweepRuns u then (List.range 16).foldl (fun s _ => sweepRead s) (beginPass u) else u))
    ∧ (strmRuns s = true → s.ing.stale ≠ 0 → ∀ x,
        exec (.sweepReadData x) s = .next { s with ing := { s.ing with stale := s.ing.stale - 1 } }
        ∧ exec .sweepReadError s = .next { s with ing := { s.ing with stale := s.ing.stale - 1 } })
    ∧ (strmRuns s = true → s.ing.stale = 0 → ∀ p, s.ing.pass = some p → s.ing.plans[p.plan].st = .resident →
        p.received < p.issued → ∀ x,
        exec (.sweepReadData x) s = .next (submitSweep { s with ing := { s.ing with
          pass := some { p with received := p.received + 1, data := p.data ++ [padTo 4096 x] } } })
        ∧ exec .sweepReadError s = .next (endPass { p with received := p.received + 1 } .readError s))

/-- Link exchanges (R235 to R238): a frame of a port goes to the handler of its type, but a STOPPED or DISABLED port
takes none; a HELLO is sent when due; an exchange 2^14 beats old fails; the next keys are installed 65,536 beats ahead
of the rotation and become current at their beat. KEYS_LINK_RESTART restarts each named port that is not DISABLED.
Where a rule leaves room, the model's reading stands in assumption entries 3 and 54. -/
def Obligations.LinkExchanges : Prop :=
  ∀ (k : Port) (s : State),
    let l := s.link k
    (∀ f, l.frame = some f → exchangeReady s = true →
      let u := s.modLink k (fun l => { l with frame := none, reading := false })
      let taken (t : State) : State := if l.mode = .stopped ∨ l.mode = .disabled then u else t
      (frameOk 1 f = true → exec (.linkHello k) s = .next (taken (onHello k f u)))
      ∧ (frameOk 2 f = true → exec (.linkReply k) s = .next (taken (onReply k f u)))
      ∧ (frameOk 3 f = true → exec (.linkFinish k) s = .next (taken (onFinish k f u)))
      ∧ (frameOk 4 f = true → exec (.linkReject k) s = .next (taken (onReject k f u))))
    ∧ (helloDue s k = true → exec (.linkHelloTimer k) s = .next (sendHello k s))
    ∧ (∀ x, l.exch = some x → keysUp s = true → x.start.toNat + 0x4000 ≤ lbeat s →
        exec (.linkExchangeTimeout k) s = .next (failExchange k s))
    ∧ (keysUp s = true → hasSecret s k = true → pkeOut s = false → l.rot * 2 ^ 24 ≤ lbeat s + 0x10000 →
        let u := s.modLink k (fun l => { l with rot := l.rot + 1 })
        exec (.linkKeyInstall k) s = .next
          (if s.beat.mode ≠ .locked ∨ l.rot * 2 ^ 24 < lbeat s + 4096 then u
           else if l.uses = 255 then clearPort k u else installKeys k (word (l.rot * 2 ^ 24)) l.rot u))
    ∧ (∀ x, l.next = some x → keysUp s = true → x.beat.toNat ≤ lbeat s →
        let u := s.modLink k (fun l => { l with
          next := none, epoch := BitVec.ofNat 16 x.e, uses := if x.e = initialE then 0 else satInc l.uses,
          mode := if l.mode = .stopped ∨ l.mode = .disabled then l.mode else .keyed })
        exec (.linkKeySwitch k) s = .next
          (if (u.link k).uses = 240 ∧ u.beat.mode = .locked ∧ exchangeReady u = true ∧ (u.link k).exch = none then
             sendHello k u else u))
    ∧ (l.next = none → keysUp s = true → hasSecret s k = true → pkeOut s = true → l.rot * 2 ^ 24 ≤ lbeat s →
        exec (.linkKeySwitch k) s = .next (clearPort k s))
    ∧ ∀ (u : State) (j : Job), Turn .keysLinkRestart s j u →
        let ports := restartPorts u (j.f 0 0 6)
        Admits .keysLinkRestart s
          [(isHmb j.seat, .denied), (zeroFrom (j.w 0) 6, .badArgument),
           (roleOf u j.seat == .installer || roleOf u j.seat == .operator, .denied),
           (u.lc.state == lcIntegration || u.lc.state == lcFielded, .state)]
          (decideJob j .ok (wordsOf [word (ports.foldl (fun a k => a + 2 ^ k.val) 0)])
            (ports.foldl (fun s k => restartLink k s) u)) (fun st => refuseJob j st u)

/-- Key delivery to a link port (R83 to R85): an acknowledgement sends the port's next message, and that of operation
0x02 lets an erasure that waits for it go on (R192); a refusal, or no answer for 2 µs, sends the message again, and
after the third attempt records the failure and clears the port's keys, while operation 0x02 itself is sent again. In
Watch the port answers no one (R102). Where a rule leaves room, the model's reading stands in assumption entries 2 and
55. -/
def Obligations.KeyDelivery : Prop :=
  ∀ (k : Port) (s : State) (m : KdMsg) (ms : List KdMsg),
    (inWatch s = true → exec (.kdAck k) s = .fault .portIdle ∧ exec (.kdNack k) s = .fault .portIdle)
    ∧ (inWatch s = false → ctrlUp s = true → (s.link k).kd = m :: ms →
      let again (t : State) : State := emit (.keyMessage k m) (t.modLink k (fun l => { l with attempts := (s.link k).attempts + 1 }))
      let gaveUp (t : State) : State := raiseCore irqLink (record { code := 0x0C03, object := word k.val } t)
      let lost (t : State) : State :=
        if m.op = 1 then clearPort k ((gaveUp t).modLink k (fun l => { l with kd := [] }))
        else emit (.keyMessage k m) ((gaveUp t).modLink k (fun l => { l with attempts := 1 }))
      let late := { s with now := s.now + 2 * Config.microsecond }
      let acked := match ms with
        | n :: ns => emit (.keyMessage k n) (s.modLink k (fun l => { l with kd := n :: ns, attempts := 1 }))
        | [] => s.modLink k (fun l => { l with kd := [], attempts := 0 })
      exec (.kdAck k) s = .next (pumpOtp (if m.op = 2 then clearAcked k acked else acked))
      ∧ ((s.link k).attempts < 3 →
          exec (.kdNack k) s = .next (again s) ∧ exec (.kdAckTimeout k) s = .next (again late))
      ∧ (3 ≤ (s.link k).attempts →
          exec (.kdNack k) s = .next (lost s) ∧ exec (.kdAckTimeout k) s = .next (lost late)))

/-! ## Firebreak and events of a beat or an instant -/

/-- The swap protocol (R86, R88, R368 to R371): each unit's shadow CRC is counted; when all have answered, equal CRCs
arm, a first difference rewrites the shadow and asks again, a second one ends the swap; ARMED is noted; a late unit,
or one silent at 32 beats before, disarms; at the swap beat, or at a unit's first SWAPPED, the shadow is adopted; the
last unit's answer completes it; a teardown's next try waits for its beat and LOCKED. In Watch no answer is taken
(R102). Where a rule leaves room, the model's reading stands in assumption entries 2 and 70. -/
def Obligations.SwapProtocol : Prop :=
  ∀ (i : Unit7) (s : State),
    (inWatch s = true → ∀ crc b,
      exec (.fbShadowCrcResponse i crc) s = .fault .portIdle ∧ exec (.fbArmed i) s = .fault .portIdle
      ∧ exec (.fbLate i) s = .fault .portIdle ∧ exec (.fbDisarmed i) s = .fault .portIdle
      ∧ exec (.fbSwapped i b) s = .fault .portIdle ∧ exec (.fbSwappedLate i b) s = .fault .portIdle)
    ∧ (ctrlUp s = true → inWatch s = false →
      exec (.fbDisarmed i) s = .next s
      ∧ ∀ w, s.part.swap = some w →
        let held (w : Swap) : State := { s with part := { s.part with swap := some w } }
        (w.phase = .crc → (unitsPresent s).contains i = true → w.answered.contains i = false → ∀ crc,
          let x : Swap := { w with
            answered := i :: w.answered, differs := w.differs || crc != tableCrc s.part.shadow }
          (allUnits s x.answered = false → exec (.fbShadowCrcResponse i crc) s = .next (held x))
          ∧ (allUnits s x.answered = true → x.differs = false →
            exec (.fbShadowCrcResponse i crc) s = .next (armSwap x s))
          ∧ (allUnits s x.answered = true → x.differs = true → w.rewritten = false →
            exec (.fbShadowCrcResponse i crc) s
              = .next (askCrc { x with rewritten := true, differs := false } (fbWriteShadow s)))
          ∧ (allUnits s x.answered = true → x.differs = true → w.rewritten = true →
            exec (.fbShadowCrcResponse i crc) s = .next (crcFailed x s)))
        ∧ (w.phase = .armed → w.answered.contains i = false →
            exec (.fbArmed i) s = .next (held { w with answered := i :: w.answered }))
        ∧ (w.phase = .armed → w.swapped = [] → w.adopted = false →
            ((unitsPresent s).contains i = true → exec (.fbLate i) s = .next (disarmSwap s))
            ∧ (allUnits s w.answered = false → w.beat.toNat ≤ lbeat s + 32 →
                exec .fbArmDeadline s = .next (disarmSwap s)))
        ∧ (w.phase = .armed → w.swapped.contains i = false → (unitsPresent s).contains i = true →
            (let x : Swap := { w with swapped := i :: w.swapped }
             let v := { s with part := { s.part with swap := some x } }
             ∀ b, exec (.fbSwapped i b) s = .next (completeSwap (if w.adopted then v else adoptSwap x v)))
            ∧ (let x : Swap := { w with swapped := i :: w.swapped, late := w.late + 1 }
               let v := { s with part := { s.part with swap := some x } }
               ∀ b, let u := raiseCore irqSwapLate (record { code := 0x0E03, object := word i.val, detail := wordBytes b } v)
                exec (.fbSwappedLate i b) s = .next (completeSwap (if w.adopted then u else adoptSwap x u)))))
    ∧ (ctrlUp s = true → ∀ w, s.part.swap = some w → w.phase = .armed → w.adopted = false → w.beat.toNat ≤ lbeat s →
        s.beat.mode = .locked ∨ w.swapped ≠ [] → exec .swapBeat s = .next (completeSwap (adoptSwap w s)))
    ∧ (ctrlUp s = true → engInReset s .part = false → s.beat.mode = .locked → ∀ n b, s.part.retryAt = some (n, b) →
        b.toNat ≤ lbeat s → exec .teardownSwapRetry s = .next (teardownSwap n s))

/-- Clearing and blocked writes (R371, R373, R375): a memory controller's answer settles, retries or fails its run
once every controller has answered; every 2^16 beats the units are asked for the blocked counts of the departed
owners, and an answer adds to the count of the oldest question of its unit. In Watch no answer is taken (R102). Where
a rule leaves room, the model's reading stands in assumption entry 2. -/
def Obligations.ScrubsAndBlockedWrites : Prop :=
  ∀ (i : Unit7) (s : State),
    (inWatch s = true → ∀ number k,
      exec (.fbScrubDone i number) s = .fault .portIdle ∧ exec (.fbScrubFailed i number) s = .fault .portIdle
      ∧ exec (.fbBlockedCount i k) s = .fault .portIdle)
    ∧ (ctrlUp s = true → inWatch s = false →
      (∀ number r,
        s.part.runs.find? (fun r => r.sent && !r.settled && r.number == number && r.waitingOn.contains i) = some r →
        let left := r.waitingOn.filter (· != i)
        let x : ClearRun := { r with waitingOn := left }
        let y : ClearRun := { r with waitingOn := left, drewFailed := true }
        (left ≠ [] → exec (.fbScrubDone i number) s = .next (setRun x s)
          ∧ exec (.fbScrubFailed i number) s = .next (setRun y s))
        ∧ (left = [] → r.drewFailed = false →
          exec (.fbScrubDone i number) s = .next (pumpClearing (setRun { x with settled := true, cleared := true } s)))
        ∧ (left = [] → r.fails < 2 →
          exec (.fbScrubFailed i number) s = .next (pumpClearing (setRun { y with fails := r.fails + 1, sent := false } s)))
        ∧ (left = [] → 2 ≤ r.fails →
          exec (.fbScrubFailed i number) s = .next (pumpClearing (setRun { y with fails := r.fails + 1, settled := true }
            (record { code := 0x0E03, part := BitVec.ofNat 8 r.part.val, object := word (r.startMiB * 2 ^ 20),
                      detail := leBytes 4 r.lenMiB } s)))))
      ∧ (∀ p (k : Word), s.part.polls.find? (fun p => p.1 == i) = some p →
          exec (.fbBlockedCount i k) s = .next { s with part := { s.part with
            polls := s.part.polls.erase p, blocked := vmod s.part.blocked p.2 (fun b => satAdd b k.toNat) } })
      ∧ (s.beat.lastPoll < lbeat s / 65536 → exec .blockedPoll s = .next
          ((departedOwners s.part.active).foldl (fun s n => readBlocked n s)
            { s with beat := { s.beat with lastPoll := lbeat s / 65536 } })))

/-- What comes due at a beat (R199, R259, R260, R268, R390, R392): the member contributes at B, the aggregator reads
its inbox at B + 65,536, a pending advance is tried again each 2^20 beats, a role lapses, a nonce of 2^24 beats is
gone, a PLDM session whose request waited 2^27 beats ends; the trial timer returns the slot, or in Watch wakes. Where
a rule leaves room, the model's reading stands in assumption entries 1, 76 and 95. -/
def Obligations.DueEvents : Prop :=
  ∀ (s : State),
    (∀ a, s.part.armed = some a → a.sent = false → ctrlUp s = true → a.beat.toNat ≤ lbeat s →
        exec .groveCollectionBeat s = .next (contribute a s))
    ∧ (∀ c, s.part.collection = some c → ctrlUp s = true → s.part.grovePhase = .waiting →
        c.beat.toNat + 65536 ≤ lbeat s →
        exec .groveWaitEnd s = .next (issue { addr := c.inbox, len := 192 * c.count, owner := .inboxRead }
          { s with part := { s.part with grovePhase := .building } }))
    ∧ (ctrlUp s = true → engInReset s .seq = false → s.boot.ctrPending = true → confirmOnPath s = false →
        s.boot.ctrRetryBeat.toNat ≤ lbeat s →
        exec .ctrPendingRetry s = .next (pumpOtp (confirmNext
          { s with boot := { s.boot with ctrRetryBeat := s.beat.lbeat + 0x100000 } })))
    ∧ (∀ n, ctrlUp s = true → (authOf s n).held.lapse.toNat ≤ lbeat s → exec (.roleLapse n) s = .next (endRole n 2 s))
    ∧ (∀ n, ctrlUp s = true → isHmb n = true →
        (∀ x, (authOf s n).roleNonce = some x → x.beat.toNat + 2 ^ 24 ≤ lbeat s →
          exec (.nonceExpiry n false) s = .next (modAuth n (fun a => { a with roleNonce := none }) s))
        ∧ (∀ x, (authOf s n).consentNonce = some x → x.beat.toNat + 2 ^ 24 ≤ lbeat s →
          exec (.nonceExpiry n true) s = .next (modAuth n (fun a => { a with consentNonce := none }) s)))
    ∧ (∀ x b, s.boot.pldm = some x → x.asked = some b → b.toNat + 2 ^ 27 ≤ lbeat s →
        exec .pldmSessionTimeout s = .next (setPldm none (dropStage s)))
    ∧ (∀ t, s.boot.trialEnd = some t → s.boot.sapling = true →
        (inWatch s = true → exec .trialTimerExpiry s = .next
          { s with now := max s.now t, boot := { s.boot with trialEnd := none, expiredWake := true } })
        ∧ (inWatch s = false → ctrlUp s = true → engInReset s .seq = false →
            exec .trialTimerExpiry s = .next (trialReturn { s with now := max s.now t })))

/-! ## SPDM and PLDM -/

/-- The SPDM responder's connection and slot 0 on a path it hears (R382 to R384, Tables 12-11, 12-12): each request in
its order, of its version, is answered as here, with an ERROR otherwise; the chain of slot 0 in portions of at most
4,088 bytes; a large response in chunks of its handle, in order; any other code with UnsupportedRequest. Where a rule
leaves room, the model's reading stands in assumption entry 26. -/
def Obligations.SpdmConnection : Prop :=
  ∀ (p : MctpPath) (s : State), spdmHeard p s = true →
    let c := spdmConn p s
    let err (n : String) : Host.Outcome State Fault Refusal := .next (sayError p n s)
    let ready (o : Host.Outcome State Fault Refusal) := if c.algs = true then o else err "UnexpectedRequest"
    let chain (slot : BitVec 8) (f : Bytes → State) : Host.Outcome State Fault Refusal :=
      if slot ≠ 0 then err "InvalidRequest" else match slotZero s with
        | none => err "Unspecified"
        | some x => .next (f x)
    (∀ v, exec (.getVersion p v) s = if v = 0x10 then
        .next (say p (.version 0x13) (modConn p (fun _ => { version := true }) s)) else err "VersionMismatch")
    ∧ (∀ v, exec (.getCapabilities p v) s = if c.version = false then err "UnexpectedRequest"
        else if v = 0x13 then .next (say p (.capabilities capabilityFlags 16 4096 65536)
          (modConn p (fun c => { c with caps := true }) s))
        else err "VersionMismatch")
    ∧ (∀ v, exec (.negotiateAlgorithms p v) s = if c.caps = false then err "UnexpectedRequest"
        else if v = 0x13 then .next (say p (.algorithms algorithmNames) (modConn p (fun c => { c with algs := true }) s))
        else err "VersionMismatch")
    ∧ exec (.getDigests p) s = ready (chain 0 (fun x => say p (.digests (Config.sha384 x)) s))
    ∧ (∀ slot off len, exec (.getCertificate p slot off len) s = ready (chain slot (fun x =>
        if x.length ≤ off then sayError p "InvalidRequest" s
        else say p (.certificate (slice x off (min len 4088)) (x.length - off - (slice x off (min len 4088)).length)) s)))
    ∧ (∀ slot nonce sig v, spdmSign s = (sig, v) → exec (.challenge p slot nonce) s = ready (chain slot (fun x =>
        if canSign s = true then say p (.challengeAuth (Config.sha384 x) sig) v else sayError p "Unspecified" s)))
    ∧ (∀ handle q last data,
        let ordered := q = 0 ∨ (handle = c.inHandle ∧ q = c.inNext)
        let whole := if q = 0 then data else c.inBytes ++ data
        let cleared := modConn p (fun c => { c with inHandle := 0, inNext := 0, inBytes := [] }) s
        exec (.chunkSend p handle q last data) s = ready (.next (
          if ¬ ordered ∨ 65536 < whole.length then sayError p "InvalidRequest" cleared
          else if last = true then onMessage p whole (say p (.chunkSendAck q) cleared)
          else say p (.chunkSendAck q) (modConn p (fun c => { c with inHandle := handle, inNext := q + 1, inBytes := whole }) s))))
    ∧ (∀ handle q,
        let rest := c.outBytes.drop (chunkRoom q)
        exec (.chunkGet p handle q) s = ready (.next (
          if c.outBytes = [] ∨ c.outHandle ≠ handle ∨ c.outNext ≠ q then sayError p "InvalidRequest" s
          else say p (.chunkResponse q rest.isEmpty (c.outBytes.take (chunkRoom q)))
            (modConn p (fun c => { c with outNext := q + 1, outBytes := rest }) s))))
    ∧ (∀ code, supportedCodes.contains code = false → exec (.spdmUnsupportedRequest p code) s = err "UnsupportedRequest")

/-- SPDM measurements and sessions on a path that is heard, with the algorithms settled (R378, R383, R385): the block
of an index as it stands, or a token made, signed and recorded for the request; at most four sessions; a FINISH with
the right proof makes the session live and a wrong one ends it; END_SESSION ends a live session. Where a rule leaves
room, the model's reading stands in assumption entry 26. -/
def Obligations.SpdmMeasurementsAndSessions : Prop :=
  ∀ (p : MctpPath) (s : State), spdmHeard p s = true →
    ((spdmConn p s).algs = true → ∀ index signed nonce,
      let own := if signed = true then padTo 32 nonce else []
      (signed = true → canSign s = false →
        exec (.getMeasurements p index signed nonce) s = .next (sayError p "Unspecified" s))
      ∧ (signed = true → canSign s = true → ∀ bs u x v sig w, blocksOf index.toNat own s = (.ok bs, u) →
          drawBytes 32 u = (x, v) → spdmSign v = (sig, w) →
          exec (.getMeasurements p index signed nonce) s = .next (sendMeasurements p bs x sig w))
      ∧ (signed = false → ∀ bs u x v, blocksOf index.toNat own s = (.ok bs, u) → drawBytes 32 u = (x, v) →
          exec (.getMeasurements p index signed nonce) s = .next (sendMeasurements p bs x [] v))
      ∧ ((signed = true → canSign s = true) → ∀ u, blocksOf index.toNat own s = (.error .noSuch, u) →
          exec (.getMeasurements p index signed nonce) s = .next (sayError p "InvalidRequest" u)))
    ∧ ((spdmConn p s).algs = true → ∀ chain, slotZero s = some chain → ∀ req key,
        (4 ≤ s.part.sessions.length → exec (.keyExchange p 0 req key) s = .next (sayError p "SessionLimitExceeded" s))
        ∧ (s.part.sessions.length < 4 → pointOk p384 (0x04#8 :: padTo 96 key) = true → canSign s = true →
          ∀ d u h v w x sig y, drawBytes 64 s = (d, u) → drawBytes 48 u = (h, v) → drawWord v = (w, x) →
          let z : SpdmSession := { id := sessionId req w x, path := p,
                                   secret := Config.spdmSecrets (ecdhX p384 (p384Scalar d) (0x04#8 :: padTo 96 key)) h }
          spdmSign { x with part := { x.part with
            sessions := x.part.sessions ++ [z], sessionCount := x.part.sessionCount + 1 } } = (sig, y) →
          exec (.keyExchange p 0 req key) s = .next (say p (.keyExchangeRsp z.id sig) y)))
    ∧ (∀ id verify, sessionOf s p id = none →
        exec (.spdmFinish p id verify) s = .next (sayError p "InvalidSession" s)
        ∧ exec (.endSession p id) s = .next (sayError p "InvalidSession" s))
    ∧ (∀ id x, sessionOf s p id = some x →
        let ended := { s with part := { s.part with sessions := s.part.sessions.filter (fun y => y.id != id) } }
        (x.live = false →
          exec (.spdmFinish p id (Config.spdmFinishMac x.secret)) s = .next (say p .finishRsp { s with part := { s.part with
            sessions := s.part.sessions.map (fun y => if y.id = id then { y with live := true } else y) } })
          ∧ (∀ verify, Config.spdmFinishMac x.secret ≠ verify →
              exec (.spdmFinish p id verify) s = .next (sayError p "DecryptError" ended))
          ∧ exec (.endSession p id) s = .next (sayError p "UnexpectedRequest" s))
        ∧ (x.live = true → exec (.endSession p id) s = .next (say p .endSessionAck ended)
          ∧ ∀ verify, exec (.spdmFinish p id verify) s = .next (sayError p "UnexpectedRequest" s)))

/-- The PLDM firmware device on a path it hears (R268, Table 8-14): the inventory and GetStatus answers; RequestUpdate
opens the one session; a component is begun and asked for piece by piece as in BOOT_STAGE_BEGIN, and finished after
its last piece; activation and cancelling end what they end; a path without its own session is told
NOT_IN_UPDATE_MODE, and any other command ERROR_UNSUPPORTED_PLDM_CMD. Where a rule leaves room, the model's reading
stands in assumption entry 27. -/
def Obligations.PldmDevice : Prop :=
  ∀ (p : MctpPath) (s : State), pldmHeard p s = true →
    let n := pathSeat p
    let done (name : String) (t : State) : State := tell p (.completion name) t
    exec (.queryDeviceIdentifiers p) s = .next (tell p (.identifiers Config.ianaEnterprise coreId (serial s)) s)
    ∧ exec (.getFirmwareParameters p) s = .next
        (tell p (.parameters s.keys.svn1 s.keys.family s.boot.svn0 s.boot.cfg.version) s)
    ∧ exec (.getStatus p) s = .next
        (tell p (.status s.boot.pldm.isSome (match pldmStage s with | some g => g.bytes | none => 0)) s)
    ∧ (∀ m, exec (.requestUpdate p m) s = .next (
        if s.boot.pldm ≠ none then done "ALREADY_IN_UPDATE_MODE" s
        else if agentRole s n = false ∨ s.boot.stage ≠ none ∨ bootLc s = false then done "UNABLE_TO_INITIATE_UPDATE" s
        else if m < 32 then done "ERROR_INVALID_DATA" s
        else tell p .ok { s with boot := { s.boot with pldm := some { seat := n, maxTransfer := m } } }))
    ∧ (∀ code, pldmCodes.contains code = false →
        exec (.pldmUnsupportedCmd p code) s = .next (done "ERROR_UNSUPPORTED_PLDM_CMD" s))
    ∧ (pldmOf p s = none → ∀ i l d,
        exec (.passComponentTable p i) s = .next (done "NOT_IN_UPDATE_MODE" s)
        ∧ exec (.updateComponent p i l) s = .next (done "NOT_IN_UPDATE_MODE" s)
        ∧ exec (.activateFirmware p) s = .next (done "NOT_IN_UPDATE_MODE" s)
        ∧ exec (.cancelUpdateComponent p) s = .next (done "NOT_IN_UPDATE_MODE" s)
        ∧ exec (.cancelUpdate p) s = .next (done "NOT_IN_UPDATE_MODE" s)
        ∧ exec (.requestFirmwareData p d) s = .next s)
    ∧ ∀ x, pldmOf p s = some x →
      let none' := { dropStage s with boot := { (dropStage s).boot with pldm := none } }
      (∀ i, exec (.passComponentTable p i) s = .next
        (tell p (.componentAccepted i (decide (1 ≤ i.toNat ∧ i.toNat ≤ 3))) s))
      ∧ (∀ i l, exec (.updateComponent p i l) s = .next (
          if x.comp ≠ none then done "INVALID_STATE_FOR_COMMAND" s
          else if updateAdmitted p i l.toNat s = true then askPiece p { x with comp := some i }
            (tell p (.componentAccepted i true) (stageBegin n true i.toNat l.toNat s))
          else tell p (.componentAccepted i false) s))
      ∧ (∀ d g b, x.asked = some b → pldmStage s = some g →
          let u := stageWrite g d s
          let h : StageSession := { g with bytes := g.bytes + d.length }
          exec (.requestFirmwareData p d) s = .next (
            if d.length ≠ pieceLength x g then askPiece p x s
            else if h.bytes < h.length then askPiece p x u else finishComponent p x h u))
      ∧ (x.comp = none → x.finished = [] → exec (.activateFirmware p) s = .next (done "INCOMPLETE_UPDATE" s))
      ∧ (x.comp = none → x.finished ≠ [] → x.finished.contains 1 = false → exec (.activateFirmware p) s = .next
          (done "SUCCESS" { s with boot := { s.boot with pldm := none } }))
      ∧ (x.comp = none → x.finished.contains 1 = true → exec (.activateFirmware p) s = .next
          (done (activateStaged p s).2 (setPldm none (activateStaged p s).1)))
      ∧ (x.comp ≠ none → exec (.activateFirmware p) s = .next (done "INVALID_STATE_FOR_COMMAND" s))
      ∧ (x.comp = none → exec (.cancelUpdateComponent p) s = .next (done "INVALID_STATE_FOR_COMMAND" s))
      ∧ (x.comp ≠ none → exec (.cancelUpdateComponent p) s = .next
          (tell p .ok (setPldm (some { x with comp := none, asked := none }) (dropStage s))))
      ∧ exec (.cancelUpdate p) s = .next (tell p .ok none')

/-! ## What changes the memories -/

/-- The fuses, the heartwood and the flash are unchanged by every command but those that the lists changesFuses,
writesHeartwood and programsFlash name: no register access, job start or event of any other row changes a bit of them.
-/
def Obligations.MemoriesChangeOnlyByTheirCommands : Prop :=
  ∀ (c : Instr) (s t : State), exec c s = .next t →
    (changesFuses c = false → t.otp.array = s.otp.array)
    ∧ (writesHeartwood c = false → t.recd.heartwood = s.recd.heartwood)
    ∧ (programsFlash c = false → t.boot.flash = s.boot.flash)
end

