-- ==== Sys2Proof/Laws/Access.lean ====
section
/-! SUPPORT. Laws of the register accesses: what a served request does, said once for every row of the access port. -/

namespace Sys2Proof.Machine

/-- A request that meets Served is not held (R67). -/
theorem waits_no {n : Seat} {rq : Req} {s : State} (h : Served n rq s) (w : Bool) (a : Nat) :
    waits (reqAccess w a rq) s = false := by simp [waits, h.up, h.awake]

/-- The stamp of a seat maps to that seat (Table 2-6). -/
theorem stamp_seat (n : Seat) : seatOfStamp (stampOf n) = some n := by revert n; decide

/-- The access of a request that meets Served. -/
theorem addr_of {n : Seat} {rq : Req} {s : State} (h : Served n rq s) (w : Bool) (a : Nat) :
    reqAccess w a rq = { write := w, addr := BitVec.ofNat 21 a, src := stampOf n, id := rq.id, wide := true, data := rq.data } := by
  simp [reqAccess, h.src, h.wide, h.low]

/-- What a served write of an aligned word below the operand window does: the write, and an answer without data. -/
theorem serve_wr {n : Seat} {rq : Req} {s : State} (h : Served n rq s) (a : Nat) (ha : a < 0x100000) (ha8 : a % 8 = 0)
    (hf : pageOf a = none ∨ pageOf a = some n) :
    serve (reqAccess true a rq) s = answered rq 0 (writeWide n a rq.data s) := by
  have hw := h.awake
  have hn : noteForeign n a s = s := by
    unfold noteForeign; rcases hf with h | h <;> simp [h]
  have : ¬ (0x100000 ≤ a) := by omega
  rw [serve, waits_no h, addr_of h]
  simp [answer, perform, stamp_seat, Access.xfer, Nat.mod_eq_of_lt (show a < 2097152 by omega), Xfer.aligned, ha8, hw,
    writeAccess, hn, respond, answered, this, h.src]

/-- What a served read does: the capture, the word, and what reading it does. -/
theorem serve_rd {n : Seat} {rq : Req} {s : State} (h : Served n rq s) (a : Nat) (ha : a < 0x100000) (ha8 : a % 8 = 0)
    (hf : pageOf a = none ∨ pageOf a = some n) :
    serve (reqAccess false a rq) s = answered rq (readWord n a (captureEffect n a s)) (readEffect n a (captureEffect n a s)) := by
  have hw := h.awake
  have hb : a / 8 * 8 = a := by omega
  have hn : noteForeign n a s = s := by
    unfold noteForeign; rcases hf with h | h <;> simp [h]
  have : ¬ (0x100000 ≤ a) := by omega
  rw [serve, waits_no h, addr_of h]
  simp [answer, perform, stamp_seat, Access.xfer, Nat.mod_eq_of_lt (show a < 2097152 by omega), Xfer.aligned, ha8, hw,
    readAccess, hn, respond, answered, this, h.src, Xfer.base, Xfer.lane, hb]

/-- An address of the seat's own page. -/
theorem pageOf_own (n : Seat) (off : Nat) (h : off < 0x1000) : pageOf (pageAddr n off) = some n := by
  unfold pageOf pageAddr
  have := n.isLt
  rw [if_pos (by omega)]
  have : (0x40000 + 0x1000 * n.val + off - 0x40000) / 0x1000 = n.val := by omega
  rw [this]; exact congrArg some (Fin.ext (Nat.mod_eq_of_lt n.isLt))

/-- Its offset in the page. -/
theorem page_mod (n : Seat) (off : Nat) (h : off < 0x1000) : pageAddr n off % 0x1000 = off := by unfold pageAddr; omega

/-- A served write in the seat's own page. -/
theorem serve_page {n : Seat} {rq : Req} {s : State} (h : Served n rq s) (off : Nat) (ho : off < 0x1000) (h8 : off % 8 = 0) :
    serve (reqAccess true (pageAddr n off) rq) s = answered rq 0 (writeSeat n off rq.data s) := by
  have := n.isLt
  rw [serve_wr h _ (by unfold pageAddr; omega) (by unfold pageAddr; omega) (.inr (pageOf_own n off ho))]
  simp [writeWide, pageOf_own n off ho, page_mod n off ho]

/-- A served read in the seat's own page. -/
theorem serve_page_rd {n : Seat} {rq : Req} {s : State} (h : Served n rq s) (off : Nat) (ho : off < 0x1000) (h8 : off % 8 = 0) :
    serve (reqAccess false (pageAddr n off) rq) s = answered rq (readSeat n off s) (if off = 0x70 then clearEmptied n false s else if off = 0x78 then clearEmptied n true s else s) := by
  have := n.isLt
  have hc : captureEffect n (pageAddr n off) s = s := by unfold captureEffect pageAddr; rw [if_neg (by omega)]
  rw [serve_rd h _ (by unfold pageAddr; omega) (by unfold pageAddr; omega) (.inr (pageOf_own n off ho)), hc]
  simp [readWord, readEffect, pageOf_own n off ho, page_mod n off ho]

end Sys2Proof.Machine
end

