-- ==== Sys2Proof/Laws/Notes.lean ====
section
/-! SUPPORT. Everything that recording and signalling can do, said once: an event record, a heartwood record, an
interrupt source and what they put on the ports leave all else as it was. -/

namespace Sys2Proof.Machine

/-- t is s after records and signals: only the logs, the interrupt registers, the initiator and the ports differ. -/
structure Notes (s t : State) : Prop where
  now : t.now = s.now
  orders : t.orders = s.orders
  pins : t.pins = s.pins
  held : t.held = s.held
  fw : t.fw = s.fw
  beat : t.beat = s.beat
  core : { t.core with watchEvents := s.core.watchEvents } = s.core
  cells : ∀ c : Cell, { t.cells[c] with volatileMap := s.cells[c].volatileMap } = s.cells[c]
  units : t.units = s.units
  entries : ∀ n, (t.seat n).entries = (s.seat n).entries
  jobs : t.jobs = s.jobs
  nextJob : t.nextJob = s.nextJob
  arbs : t.arbs = s.arbs
  mbx : t.mbx = s.mbx
  otp : t.otp = s.otp
  lc : t.lc = s.lc
  keys : t.keys = s.keys
  boot : t.boot = s.boot
  pke : t.pke = s.pke
  dig : t.dig = s.dig
  ing : t.ing = s.ing
  part : t.part = s.part
  recd : { t.recd with recs := s.recd.recs, headSeq := s.recd.headSeq, lost := s.recd.lost, limits := s.recd.limits,
                       queue := s.recd.queue, dropped := s.recd.dropped, writeErr := s.recd.writeErr } = s.recd
  pending : t.pending = s.pending

theorem Notes.refl (s : State) : Notes s s := by constructor <;> intros <;> rfl

theorem Notes.trans {s t u : State} (a : Notes s t) (b : Notes t u) : Notes s u where
  now := b.now.trans a.now
  orders := b.orders.trans a.orders
  pins := b.pins.trans a.pins
  held := b.held.trans a.held
  fw := b.fw.trans a.fw
  beat := b.beat.trans a.beat
  core := by
    have := congrArg (fun x : Core => { x with watchEvents := s.core.watchEvents }) b.core
    exact this.trans a.core
  cells c := by
    have := congrArg (fun x : CellState => { x with volatileMap := s.cells[c].volatileMap }) (b.cells c)
    exact this.trans (a.cells c)
  units := b.units.trans a.units
  entries n := (b.entries n).trans (a.entries n)
  jobs := b.jobs.trans a.jobs
  nextJob := b.nextJob.trans a.nextJob
  arbs := b.arbs.trans a.arbs
  mbx := b.mbx.trans a.mbx
  otp := b.otp.trans a.otp
  lc := b.lc.trans a.lc
  keys := b.keys.trans a.keys
  boot := b.boot.trans a.boot
  pke := b.pke.trans a.pke
  dig := b.dig.trans a.dig
  ing := b.ing.trans a.ing
  part := b.part.trans a.part
  recd := by
    have := congrArg (fun x : Recorder => { x with
      recs := s.recd.recs, headSeq := s.recd.headSeq, lost := s.recd.lost, limits := s.recd.limits,
      queue := s.recd.queue, dropped := s.recd.dropped, writeErr := s.recd.writeErr }) b.recd
    exact this.trans a.recd
  pending := b.pending.trans a.pending

theorem vmod_get {α : Type} {k : Nat} (v : Vector α k) (i j : Fin k) (f : α → α) :
    (vmod v i f)[j] = if i = j then f v[i] else v[j] := by
  simp only [vmod, vset, Fin.getElem_fin, Vector.getElem_set]
  split <;> rename_i h
  · rw [if_pos (Fin.ext h)]
  · rw [if_neg (fun e => h (congrArg Fin.val e))]

/-- The page of a seat after a change of one. -/
theorem seat_modSeat (s : State) (m n : Seat) (f : SeatPage → SeatPage) :
    (s.modSeat m f).seat n = if m = n then f (s.seat m) else s.seat n := by
  simp only [State.seat, State.modSeat]; exact vmod_get _ _ _ _

theorem modSeat_notes (n : Seat) (f : SeatPage → SeatPage) (hf : ∀ p, (f p).entries = p.entries) (s : State) :
    Notes s (s.modSeat n f) := by
  constructor <;> intros <;> try rfl
  rw [seat_modSeat]; split
  · rename_i h; subst h; exact hf _
  · rfl

theorem emit_notes (e : PortEvent) (s : State) : Notes s (emit e s) := by constructor <;> intros <;> rfl

theorem issue_notes (t : Txn) (s : State) : Notes s (issue t s) := by
  unfold issue launch; split <;> try dsimp only
  · split <;> constructor <;> intros <;> rfl
  · constructor <;> intros <;> rfl

theorem noteIrq_notes (b s : State) : Notes s (noteIrq b s) := by
  have h1 : ∀ s, Notes s (requestIbi s) := fun s => by
    unfold requestIbi; dsimp only; split
    · exact .trans (by constructor <;> intros <;> rfl) (emit_notes _ _)
    · constructor <;> intros <;> rfl
  have h2 : ∀ s, Notes s (ringNotice s) := fun s => by
    have h : Notes s (issue
        { write := true, addr := (s.seat peer).peerNotify, len := 64, data := ringNoticeBytes s, owner := .ringNotice }
        (s.modSeat peer (fun p => { p with lastRing := some (lbeat s) }))) :=
      .trans (modSeat_notes peer (fun p => { p with lastRing := some (lbeat s) }) (fun _ => rfl) s) (issue_notes _ _)
    unfold ringNotice; dsimp only; repeat' split
    all_goals first | exact .refl _ | exact h
  unfold noteIrq; dsimp only
  have h3 : Notes s (if (!isPending (b.seat bmc) && isPending (s.seat bmc)) = true then requestIbi s else s) := by
    split
    · exact h1 _
    · exact .refl _
  split
  · exact .trans h3 (h2 _)
  · exact h3

theorem modSeatIrq_notes (n : Seat) (f : SeatPage → SeatPage) (hf : ∀ p, (f p).entries = p.entries) (s : State) :
    Notes s (modSeatIrq n f s) := .trans (modSeat_notes n f hf s) (noteIrq_notes _ _)

theorem raiseFault_notes (n : Seat) (b : BitVec 6) (s : State) : Notes s (raiseFault n b s) :=
  modSeatIrq_notes n (setFault b) (fun _ => rfl) s

theorem raiseSeat_notes (n : Seat) (b : BitVec 7) (s : State) : Notes s (raiseSeat n b s) :=
  modSeatIrq_notes n (setIrq b) (fun _ => rfl) s

theorem setBanks_notes (b : BitVec 19) (s : State) : Notes s (setBanks b s) :=
  .trans (.trans (.trans (modSeat_notes host (setCoreIrq b) (fun _ => rfl) s)
    (modSeat_notes mgmt (setCoreIrq b) (fun _ => rfl) _)) (modSeat_notes bmc (setCoreIrq b) (fun _ => rfl) _))
    (noteIrq_notes s _)

theorem raiseCore_notes (i : Nat) (s : State) : Notes s (raiseCore i s) := by
  unfold raiseCore; split
  · exact .refl _
  · split
    · constructor <;> intros <;> rfl
    · exact setBanks_notes _ _

theorem writeEvent_notes (e : EventRec) (s : State) : Notes s (writeEvent e s) := by
  have h : ∀ r : List EventRec, ∀ q, Notes s { s with recd := { s.recd with recs := r, headSeq := q } } := by
    intros; constructor <;> intros <;> rfl
  unfold writeEvent; split <;> try dsimp only
  · split
    · exact .trans (h _ _) (raiseCore_notes _ _)
    · exact h _ _
  · constructor <;> intros <;> rfl

theorem record_notes (e : EventRec) (s : State) : Notes s (record e s) := by
  unfold record; dsimp only; split
  · exact .refl _
  · split
    · constructor <;> intros <;> rfl
    · exact writeEvent_notes _ _

theorem recordLimited_notes (k : LimitKey) (e : EventRec) (s : State) : Notes s (recordLimited k e s) := by
  unfold recordLimited; split
  · refine .trans ?_ (record_notes _ _)
    constructor <;> intros <;> rfl
  · exact .refl _

theorem setVolatile_notes (c : Option Cell) (s : State) : Notes s (setVolatile c s) := by
  unfold setVolatile; split
  · exact .refl _
  · rename_i c
    have h : Notes s (s.modCell c (fun x => { x with volatileMap := true })) := by
      constructor <;> intros <;> try rfl
      simp only [State.modCell, vmod_get]
      split
      · rename_i h; subst h; rfl
      · rfl
    generalize (s.modCell c (fun x => { x with volatileMap := true })) = t at h
    dsimp only; split
    · exact h
    · exact .trans h (raiseCore_notes _ _)

theorem hwCondition_notes (k : Nat) (s : State) : Notes s (hwCondition k s) := by
  unfold hwCondition; dsimp only; split
  · constructor <;> intros <;> rfl
  · exact .trans (record_notes _ _) (raiseCore_notes _ _)

theorem hwQueue_notes (kind : BitVec 16) (d : Bytes) (c : Option Cell) (s : State) : Notes s (hwQueue kind d c s) := by
  have h : ∀ s t c, Notes s t → Notes s (setVolatile c (hwCondition 5 t)) :=
    fun s t c k => .trans (.trans k (hwCondition_notes _ _)) (setVolatile_notes _ _)
  unfold hwQueue; dsimp only; split
  · constructor <;> intros <;> rfl
  · split
    · split
      · exact .refl _
      · exact h _ _ _ (by constructor <;> intros <;> rfl)
    · exact h _ _ _ (by constructor <;> intros <;> rfl)

theorem hwNote_notes (kind : BitVec 16) (d : Bytes) (s : State) : Notes s (hwNote kind d s) := hwQueue_notes _ _ _ _

/-- A field of a cell other than the mark of a map change held in AON only is as it was. -/
theorem Notes.cellField {s t : State} {α : Type} (h : Notes s t) (f : CellState → α)
    (hf : ∀ c w, f { c with volatileMap := w } = f c) (c : Cell) : f t.cells[c] = f s.cells[c] := by
  rw [← hf t.cells[c] s.cells[c].volatileMap]; exact congrArg f (h.cells c)

/-- A field of core other than what waits for wake is as it was. -/
theorem Notes.coreField {s t : State} {α : Type} (h : Notes s t) (f : Core → α)
    (hf : ∀ c w, f { c with watchEvents := w } = f c) : f t.core = f s.core := by
  rw [← hf t.core s.core.watchEvents]; exact congrArg f h.core

/-- CTRL runs after records and signals as it did before. -/
theorem Notes.ctrlUp {s t : State} (h : Notes s t) : ctrlUp t = ctrlUp s :=
  h.coreField (fun c => !c.ctrlReset && !c.fatal && (c.power == .full || c.power == .control)) (fun _ _ => rfl)

end Sys2Proof.Machine
end

