-- ==== Sys2Proof/Laws/Jobs.lean ====
section
/-! SUPPORT. Everything that the life of a job can do beyond its engine's own effect, said once: starting, deciding,
refusing and posting a job leave every part of the state but the job list, the seats, the initiator, the key slots in
use and the PKE blocks and curves as it was. -/

namespace Sys2Proof.Machine

/-- t is s after jobs were posted, decided or refused, and after records and signals. -/
structure Posts (s t : State) : Prop where
  now : t.now = s.now
  pins : t.pins = s.pins
  held : t.held = s.held
  fw : t.fw = s.fw
  beat : t.beat = s.beat
  core : { t.core with watchEvents := s.core.watchEvents } = s.core
  cells : ∀ c : Cell, { t.cells[c] with volatileMap := s.cells[c].volatileMap } = s.cells[c]
  units : t.units = s.units
  nextJob : t.nextJob = s.nextJob
  arbs : t.arbs = s.arbs
  mbx : t.mbx = s.mbx
  otp : t.otp = s.otp
  lc : t.lc = s.lc
  keys : { t.keys with slots := s.keys.slots } = s.keys
  boot : t.boot = s.boot
  pke : { t.pke with blocks := s.pke.blocks, idleSince := s.pke.idleSince, window := s.pke.window,
                     curves := s.pke.curves } = s.pke
  dig : t.dig = s.dig
  ing : t.ing = s.ing
  part : t.part = s.part
  recd : { t.recd with recs := s.recd.recs, headSeq := s.recd.headSeq, lost := s.recd.lost, limits := s.recd.limits,
                       queue := s.recd.queue, dropped := s.recd.dropped, writeErr := s.recd.writeErr } = s.recd
  pending : t.pending = s.pending

theorem Posts.refl (s : State) : Posts s s := by constructor <;> intros <;> rfl

theorem Notes.posts {s t : State} (h : Notes s t) : Posts s t where
  now := h.now
  pins := h.pins
  held := h.held
  fw := h.fw
  beat := h.beat
  core := h.core
  cells := h.cells
  units := h.units
  nextJob := h.nextJob
  arbs := h.arbs
  mbx := h.mbx
  otp := h.otp
  lc := h.lc
  keys := by rw [h.keys]
  boot := h.boot
  pke := by rw [h.pke]
  dig := h.dig
  ing := h.ing
  part := h.part
  recd := h.recd
  pending := h.pending

theorem Posts.trans {s t u : State} (a : Posts s t) (b : Posts t u) : Posts s u where
  now := b.now.trans a.now
  pins := b.pins.trans a.pins
  held := b.held.trans a.held
  fw := b.fw.trans a.fw
  beat := b.beat.trans a.beat
  core := by
    have := congrArg (fun x : Core => { x with watchEvents := s.core.watchEvents }) b.core
    exact this.trans a.core
  cells c := by
    have := congrArg (fun x : CellState => { x with volatileMap := s.cells[c].volatileMap }) (b.cells c)
    exact this.trans (a.cells c)
  units := b.units.trans a.units
  nextJob := b.nextJob.trans a.nextJob
  arbs := b.arbs.trans a.arbs
  mbx := b.mbx.trans a.mbx
  otp := b.otp.trans a.otp
  lc := b.lc.trans a.lc
  keys := by
    have := congrArg (fun x : Keys => { x with slots := s.keys.slots }) b.keys
    exact this.trans a.keys
  boot := b.boot.trans a.boot
  pke := by
    have := congrArg (fun x : Pke => { x with
      blocks := s.pke.blocks, idleSince := s.pke.idleSince, window := s.pke.window, curves := s.pke.curves }) b.pke
    exact this.trans a.pke
  dig := b.dig.trans a.dig
  ing := b.ing.trans a.ing
  part := b.part.trans a.part
  recd := by
    have := congrArg (fun x : Recorder => { x with
      recs := s.recd.recs, headSeq := s.recd.headSeq, lost := s.recd.lost, limits := s.recd.limits,
      queue := s.recd.queue, dropped := s.recd.dropped, writeErr := s.recd.writeErr }) b.recd
    exact this.trans a.recd
  pending := b.pending.trans a.pending

/-- A field of a cell other than the mark of a map change held in AON only is as it was. -/
theorem Posts.cellField {s t : State} {α : Type} (h : Posts s t) (f : CellState → α)
    (hf : ∀ c w, f { c with volatileMap := w } = f c) (c : Cell) : f t.cells[c] = f s.cells[c] := by
  rw [← hf t.cells[c] s.cells[c].volatileMap]; exact congrArg f (h.cells c)

/-- A field of core other than what waits for wake is as it was. -/
theorem Posts.coreField {s t : State} {α : Type} (h : Posts s t) (f : Core → α)
    (hf : ∀ c w, f { c with watchEvents := w } = f c) : f t.core = f s.core := by
  rw [← hf t.core s.core.watchEvents]; exact congrArg f h.core

theorem fold_keep {α β : Type} (P : β → Prop) (f : β → α → β) (hf : ∀ b a, P b → P (f b a)) (l : List α) (b : β)
    (h : P b) : P (l.foldl f b) := by
  induction l generalizing b with
  | nil => exact h
  | cons x xs ih => exact ih _ (hf _ _ h)

theorem fold_posts {α : Type} (f : State → α → State) (hf : ∀ s a, Posts s (f s a)) (l : List α) (s : State) :
    Posts s (l.foldl f s) :=
  fold_keep (fun t => Posts s t) f (fun b a h => h.trans (hf b a)) l s (.refl s)

theorem launch_posts (t : Txn) (s : State) : Posts s (launch t s) := by
  unfold launch; dsimp only; split <;> constructor <;> intros <;> rfl

theorem pump_posts (s : State) : Posts s (pump s) := by
  unfold pump; split
  · exact .refl _
  · split
    · exact .trans (by constructor <;> intros <;> rfl) (launch_posts _ _)
    · exact .refl _

theorem pumpOver_posts : ∀ (l : List Txn) (s : State), Posts s (pumpOver l s)
  | [], s => .refl s
  | _ :: ts, s => .trans (pump_posts s) (pumpOver_posts ts _)

theorem dropTxns_posts (id : Nat) (s : State) : Posts s (dropTxns id s) := by
  unfold dropTxns; dsimp only
  exact .trans (by constructor <;> intros <;> rfl) (pumpOver_posts _ _)

theorem removeJob_posts (id : Nat) (s : State) : Posts s (removeJob id s) := by
  unfold removeJob; exact .trans (by constructor <;> intros <;> rfl) (dropTxns_posts _ _)

theorem setJob_posts (j : Job) (s : State) : Posts s (setJob j s) := by constructor <;> intros <;> rfl

theorem settleSlots_posts (s : State) : Posts s (settleSlots s) := by constructor <;> intros <;> rfl

theorem settleCurves_posts (s : State) : Posts s (settleCurves s) := by
  unfold settleCurves
  refine fold_posts _ (fun s i => ?_) _ _
  dsimp only; split
  · split <;> constructor <;> intros <;> rfl
  · split
    · constructor <;> intros <;> rfl
    · exact .refl _

theorem settleBlocks_posts (s : State) : Posts s (settleBlocks s) := by
  unfold settleBlocks
  refine fold_posts _ (fun s i => ?_) _ _
  split
  · exact .refl _
  · split
    · exact .refl _
    · constructor <;> intros <;> rfl

theorem settle_posts (s : State) : Posts s (settle s) :=
  .trans (.trans (settleSlots_posts s) (settleCurves_posts _)) (settleBlocks_posts _)

theorem modSeatIrq_posts (n : Seat) (f : SeatPage → SeatPage) (s : State) : Posts s (modSeatIrq n f s) :=
  .trans (t := s.modSeat n f) (by constructor <;> intros <;> rfl) (noteIrq_notes s _).posts

theorem postEntry_posts (n : Seat) (c : QClass) (e : EntryIx) (st : Status) (ws : Words) (s : State) :
    Posts s (postEntry n c e st ws s) := modSeatIrq_posts _ _ _

/-- Ending a job here and now. -/
theorem finishJob_posts (j : Job) (st : Status) (ws : Words) (s : State) : Posts s (finishJob j st ws s) := by
  unfold finishJob; dsimp only; refine .trans (removeJob_posts j.id s) (.trans ?_ (settle_posts _)); split
  · exact .refl _
  · exact postEntry_posts _ _ _ _ _ _

/-- Deciding a job. -/
theorem decideJob_posts (j : Job) (st : Status) (ws : Words) (s : State) : Posts s (decideJob j st ws s) := by
  unfold decideJob; refine .trans ?_ (settle_posts _); split
  · exact removeJob_posts _ _
  · exact .trans (setJob_posts _ _) (dropTxns_posts _ _)

theorem failJob_posts (j : Job) (st : Status) (s : State) : Posts s (failJob j st s) := decideJob_posts j st noWords s

/-- Refusing a job. -/
theorem refuseJob_posts (j : Job) (st : Status) (s : State) : Posts s (refuseJob j st s) := by
  unfold refuseJob; dsimp only; refine .trans ?_ (failJob_posts _ _ _); split
  · exact (recordLimited_notes _ _ _).posts
  · exact .refl _

theorem jobRead_posts (j : Job) (a : Word) (n : Nat) (s : State) : Posts s (jobRead j a n s) := (issue_notes _ s).posts
theorem jobWrite_posts (j : Job) (a : Word) (d : Bytes) (s : State) : Posts s (jobWrite j a d s) := (issue_notes _ s).posts

theorem fetchJob_posts (j : Job) (a : Word) (n : Nat) (s : State) : Posts s (fetchJob j a n s) :=
  .trans (setJob_posts _ s) (jobRead_posts _ _ _ _)
theorem storeJob_posts (j : Job) (a : Word) (d : Bytes) (st : Status) (ws : Words) (s : State) :
    Posts s (storeJob j a d st ws s) := .trans (setJob_posts _ s) (jobWrite_posts _ _ _ _)

end Sys2Proof.Machine
end

