-- ==== Sys2Proof/Laws/Memory.lean ====
section
/-! SUPPORT. Laws of the canonical memories: a read after a write, reads elsewhere, and that every memory operation
keeps the canonical form. -/

namespace Sys2Proof.Machine

section
variable {α : Type} [DecidableEq α]

/-- Below the lower bound of a canonical memory every address reads as unlisted. -/
theorem memGet_below (d : α) (m : List (Nat × α)) (b x : Nat) (h : memWfFrom d (some b) m = true) (hx : x ≤ b) :
    memGet d m x = d := by
  induction m generalizing b with
  | nil => rfl
  | cons e m ih =>
    obtain ⟨b', w'⟩ := e
    simp only [memWfFrom, Bool.and_eq_true, decide_eq_true_eq] at h
    have : x ≠ b' := by omega
    simp only [memGet, this, if_false]
    exact ih b' h.2 (by omega)

/-- The canonical form from a lower bound is the canonical form from any lower one. -/
theorem memWfFrom_weaken (d : α) (m : List (Nat × α)) (a : Nat) (lo : Option Nat) (hlo : ∀ l, lo = some l → l ≤ a)
    (h : memWfFrom d (some a) m = true) : memWfFrom d lo m = true := by
  cases m with
  | nil => rfl
  | cons e m =>
    obtain ⟨b, w⟩ := e
    simp only [memWfFrom, Bool.and_eq_true, decide_eq_true_eq] at h
    cases lo with
    | none => simp [memWfFrom, h.1.2, h.2]
    | some l =>
      have := hlo l rfl
      simp [memWfFrom, h.1.2, h.2, Nat.lt_of_le_of_lt this h.1.1]

/-- Reading the address just written. -/
theorem memGet_memSet_same (d : α) (m : List (Nat × α)) (a : Nat) (v : α) (h : memWf d m = true) :
    memGet d (memSet d m a v) a = v := by
  suffices H : ∀ (lo : Option Nat), memWfFrom d lo m = true → memGet d (memSet d m a v) a = v from H none h
  clear h
  induction m with
  | nil => intro lo _; by_cases hv : v = d <;> simp [memSet, memGet, hv]
  | cons e m ih =>
    obtain ⟨b, w⟩ := e
    intro lo h
    simp only [memWfFrom, Bool.and_eq_true, decide_eq_true_eq] at h
    by_cases h1 : a < b
    · by_cases hv : v = d
      · simp only [memSet, h1, hv, if_true]
        have hne : a ≠ b := by omega
        simp only [memGet, hne, if_false]
        exact memGet_below d m b a h.2 (by omega)
      · simp [memSet, h1, hv, memGet]
    · by_cases h2 : a = b
      · subst h2
        by_cases hv : v = d
        · simp only [memSet, hv, if_true, Nat.lt_irrefl, if_false]
          exact memGet_below d m a a h.2 (Nat.le_refl a)
        · simp [memSet, hv, memGet]
      · simp only [memSet, h1, h2, if_false, memGet]
        exact ih (some b) h.2

/-- Reading the address just written with a value of its own, whatever form the list has. -/
theorem memGet_memSet_ne (d : α) (m : List (Nat × α)) (a : Nat) (v : α) (hv : v ≠ d) :
    memGet d (memSet d m a v) a = v := by
    induction m with
    | nil => simp [memSet, memGet, hv]
    | cons e m ih =>
      obtain ⟨b, w⟩ := e
      simp only [memSet]
      split
      · simp [memGet]
      · split
        · simp [memGet]
        · rename_i h1 h2; simp [memGet, h2, ih]

/-- A write leaves every other address alone. -/
theorem memGet_memSet_other (d : α) (m : List (Nat × α)) (a x : Nat) (v : α) (hx : x ≠ a) :
    memGet d (memSet d m a v) x = memGet d m x := by
  induction m with
  | nil => by_cases hv : v = d <;> simp [memSet, memGet, hv, hx]
  | cons e m ih =>
    obtain ⟨b, w⟩ := e
    simp only [memSet]
    split
    · split <;> simp [memGet, hx]
    · split
      · rename_i h; subst h
        split <;> simp [memGet, hx]
      · simp [memGet, ih]

/-- The canonical form from a lower bound is kept by a write above the bound. -/
theorem memSet_wfFrom (d : α) (m : List (Nat × α)) (a : Nat) (v : α) (lo : Option Nat)
    (h : memWfFrom d lo m = true) (hlo : ∀ l, lo = some l → l < a) : memWfFrom d lo (memSet d m a v) = true := by
  induction m generalizing lo with
  | nil =>
    by_cases hv : v = d
    · simp [memSet, hv, memWfFrom]
    · cases lo with
      | none => simp [memSet, hv, memWfFrom]
      | some l => simp [memSet, hv, memWfFrom, hlo l rfl]
  | cons e m ih =>
    obtain ⟨b, w⟩ := e
    have hb := h
    simp only [memWfFrom, Bool.and_eq_true, decide_eq_true_eq] at h
    simp only [memSet]
    split
    · rename_i hab
      split
      · exact hb
      · rename_i hv
        cases lo with
        | none => simp [memWfFrom, hv, hab, h.1.2, h.2]
        | some l => simp [memWfFrom, hv, hab, h.1.2, h.2, hlo l rfl]
    · split
      · rename_i hab; subst hab
        split
        · exact memWfFrom_weaken d m a lo (fun l hl => Nat.le_of_lt (hlo l hl)) h.2
        · rename_i hv
          simp only [memWfFrom, Bool.and_eq_true, decide_eq_true_eq]
          exact ⟨⟨h.1.1, hv⟩, h.2⟩
      · rename_i h1 h2
        simp only [memWfFrom, Bool.and_eq_true, decide_eq_true_eq]
        exact ⟨h.1, ih (some b) h.2 (by intro l hl; cases hl; omega)⟩

/-- A write keeps the canonical form. -/
theorem memSet_wf (d : α) (m : List (Nat × α)) (a : Nat) (v : α) (h : memWf d m = true) :
    memWf d (memSet d m a v) = true := memSet_wfFrom d m a v none h (by intro l hl; cases hl)

/-- The canonical form said with the library's order on lists. -/
theorem memWf_iff (d : α) (m : List (Nat × α)) :
    memWf d m = true ↔ m.Pairwise (fun x y => x.1 < y.1) ∧ ∀ e ∈ m, e.2 ≠ d := by
  have key : ∀ (m : List (Nat × α)) (lo : Option Nat),
      memWfFrom d lo m = true ↔
        (m.Pairwise (fun x y => x.1 < y.1) ∧ ∀ e ∈ m, e.2 ≠ d) ∧ ∀ l, lo = some l → ∀ e ∈ m, l < e.1 := by
    intro m
    induction m with
    | nil => intro lo; simp [memWfFrom]
    | cons e m ih =>
      obtain ⟨b, w⟩ := e
      intro lo
      simp only [memWfFrom, Bool.and_eq_true, decide_eq_true_eq, ih, List.pairwise_cons, List.mem_cons,
        forall_eq_or_imp, Option.some.injEq, forall_eq']
      constructor
      · rintro ⟨⟨h1, h2⟩, ⟨h3, h4⟩, h5⟩
        refine ⟨⟨⟨fun e he => h5 e he, h3⟩, h2, h4⟩, ?_⟩
        intro l hl
        subst hl
        simp only [decide_eq_true_eq] at h1
        exact ⟨h1, fun e he => Nat.lt_trans h1 (h5 e he)⟩
      · rintro ⟨⟨⟨h1, h2⟩, h3, h4⟩, h5⟩
        refine ⟨⟨?_, h3⟩, ⟨h2, h4⟩, h1⟩
        cases lo with
        | none => rfl
        | some l => simpa using (h5 l rfl).1
  simpa [memWf] using key m none

/-- What is left of a canonical memory is canonical. -/
theorem filter_wf (d : α) (p : Nat × α → Bool) (m : List (Nat × α)) (h : memWf d m = true) :
    memWf d (m.filter p) = true := by
  rw [memWf_iff] at h ⊢
  exact ⟨h.1.filter _, fun e he => h.2 e (List.mem_of_mem_filter he)⟩

/-- An erase keeps the canonical form. -/
theorem memErase_wf (d : α) (m : List (Nat × α)) (a n : Nat) (h : memWf d m = true) :
    memWf d (memErase m a n) = true := filter_wf d _ m h

/-- Addresses and values of the pairs that a run of values makes. -/
theorem memCells_mem (d : α) (a : Nat) (vs : List α) :
    ∀ e ∈ memCells d a vs, a ≤ e.1 ∧ e.1 < a + vs.length ∧ e.2 ≠ d := by
  induction vs generalizing a with
  | nil => simp [memCells]
  | cons v vs ih =>
    intro e he
    have hr : e ∈ memCells d (a + 1) vs → a ≤ e.1 ∧ e.1 < a + (v :: vs).length ∧ e.2 ≠ d := by
      intro h
      obtain ⟨h1, h2, h3⟩ := ih (a + 1) e h
      exact ⟨by omega, by simp; omega, h3⟩
    by_cases hv : v = d
    · exact hr (by simpa [memCells, hv] using he)
    · rcases (by simpa [memCells, hv] using he : e = (a, v) ∨ e ∈ memCells d (a + 1) vs) with h | h
      · subst h; exact ⟨Nat.le_refl a, by simp, hv⟩
      · exact hr h

/-- Those pairs are in order. -/
theorem memCells_sorted (d : α) (a : Nat) (vs : List α) :
    (memCells d a vs).Pairwise (fun x y => x.1 < y.1) := by
  induction vs generalizing a with
  | nil => simp [memCells]
  | cons v vs ih =>
    by_cases hv : v = d
    · simpa [memCells, hv] using ih (a + 1)
    · simp only [memCells, hv, if_false, List.pairwise_cons]
      exact ⟨fun e he => by have := (memCells_mem d (a + 1) vs e he).1; omega, ih (a + 1)⟩

/-- A write of several values keeps the canonical form. -/
theorem memWrite_wf (d : α) (m : List (Nat × α)) (a : Nat) (vs : List α) (h : memWf d m = true) :
    memWf d (memWrite d m a vs) = true := by
  rw [memWf_iff] at h ⊢
  have hm := memCells_mem d a vs
  refine ⟨?_, ?_⟩
  · rw [memWrite, List.append_assoc, List.pairwise_append, List.pairwise_append]
    refine ⟨h.1.filter _, ⟨memCells_sorted d a vs, h.1.filter _, ?_⟩, ?_⟩
    · intro x hx y hy
      have := hm x hx
      have := (List.mem_filter.mp hy).2
      simp only [decide_eq_true_eq] at this
      omega
    · intro x hx y hy
      have h1 := (List.mem_filter.mp hx).2
      simp only [decide_eq_true_eq] at h1
      rcases List.mem_append.mp hy with hy | hy
      · have := hm y hy; omega
      · have := (List.mem_filter.mp hy).2
        simp only [decide_eq_true_eq] at this
        omega
  · intro e he
    simp only [memWrite, List.mem_append, List.mem_filter] at he
    rcases he with (he | he) | he
    · exact h.2 e he.1
    · exact (hm e he).2.2
    · exact h.2 e he.1

end

/-- A flash program keeps the canonical form of the flash. -/
theorem programBytes_wf (m : List (Nat × Byte)) (a : Nat) (bs : Bytes) (h : memWf 0xFF m = true) :
    memWf 0xFF (programBytes m a bs) = true := memWrite_wf _ _ _ _ h

end Sys2Proof.Machine
end

