-- ==== Sys2Proof/Laws/Keeps.lean ====
section
/-! SUPPORT. What every command keeps, as a relation between the state before and after: the queue, every burned fuse
bit, and soundness. One lemma per function of the model follows in the files beside this one. -/

namespace Sys2Proof.Machine

/-- Which of the non-volatile memories is known to stay as it is. -/
structure Frame where
  fuses : Bool
  heartwood : Bool
  flash : Bool

/-- From s to t the queue is kept, no fuse bit that holds at the high margin is lost, soundness is kept, and the
memories the frame names are unchanged. -/
structure Keeps (fr : Frame) (s t : State) : Prop where
  pending : t.pending = s.pending
  fuses : ∀ a, Within (otpLive s a).2 (otpLive t a).2
  sound : Sound s → Sound t
  sameFuses : fr.fuses = true → t.otp.array = s.otp.array
  sameHeartwood : fr.heartwood = true → t.recd.heartwood = s.recd.heartwood
  sameFlash : fr.flash = true → t.boot.flash = s.boot.flash

theorem within_iff {x y : OtpWord} : Within x y ↔ ∀ i, x.getLsbD i = true → y.getLsbD i = true := by
  constructor
  · intro h i hx
    have hi : i < 72 := by
      rcases Nat.lt_or_ge i 72 with hi | hi
      · exact hi
      · rw [BitVec.getLsbD_of_ge _ _ hi] at hx; cases hx
    have := congrArg (fun v : OtpWord => v.getLsbD i) h
    simp [hx, hi] at this
    exact this
  · intro h
    apply BitVec.eq_of_getLsbD_eq
    intro i hi
    have := h i
    by_cases hx : x.getLsbD i = true
    · simp [hx, this hx]
    · simp [hx]

theorem Within.refl (x : OtpWord) : Within x x := within_iff.2 fun _ h => h

theorem Within.trans {x y z : OtpWord} (h : Within x y) (g : Within y z) : Within x z :=
  within_iff.2 fun i hx => within_iff.1 g i (within_iff.1 h i hx)

theorem Within.or_left (x y : OtpWord) : Within x (x ||| y) := within_iff.2 fun i h => by simp [h]

theorem Within.pulse {x y lo hi : OtpWord} (h : Within x y) : Within (x ||| hi) (y ||| lo ||| hi) :=
  within_iff.2 fun i hx => by
    have := within_iff.1 h i
    simp only [BitVec.getLsbD_or, Bool.or_eq_true] at hx ⊢
    tauto

theorem Within.cut {x y lo hi : OtpWord} (h : Within x y) : Within (x ||| (hi &&& lo)) (y ||| lo) :=
  within_iff.2 fun i hx => by
    have := within_iff.1 h i
    simp only [BitVec.getLsbD_or, BitVec.getLsbD_and, Bool.or_eq_true, Bool.and_eq_true] at hx ⊢
    tauto

theorem not_set {b : Bool} [h : Fact (b = false)] {p : Prop} (k : b = true) : p := absurd k (by rw [h.out]; decide)

theorem Keeps.refl {fr : Frame} (s : State) : Keeps fr s s :=
  ⟨rfl, fun _ => Within.refl _, id, fun _ => rfl, fun _ => rfl, fun _ => rfl⟩

theorem Keeps.trans {fr : Frame} {s t u : State} (h : Keeps fr s t) (g : Keeps fr t u) : Keeps fr s u :=
  ⟨g.pending.trans h.pending, fun a => Within.trans (h.fuses a) (g.fuses a), g.sound ∘ h.sound,
    fun k => (g.sameFuses k).trans (h.sameFuses k), fun k => (g.sameHeartwood k).trans (h.sameHeartwood k),
    fun k => (g.sameFlash k).trans (h.sameFlash k)⟩

/-- A change of none of the parts the relation speaks of. -/
theorem Keeps.same {fr : Frame} {s t : State} (hp : t.pending = s.pending) (ha : t.otp.array = s.otp.array)
    (hs : t.otp.sense = s.otp.sense) (hf : t.boot.flash = s.boot.flash) (hw : t.pke.window = s.pke.window)
    (hh : t.recd.heartwood = s.recd.heartwood) (hr : t.recd.recs = s.recd.recs) : Keeps fr s t where
  pending := hp
  fuses a := by simp [otpLive, ha, Within.refl]
  sameFuses _ := ha
  sameHeartwood _ := hh
  sameFlash _ := hf
  sound h :=
    { fuses := by rw [ha]; exact h.fuses
      margins := fun a => by simpa [otpLive, ha] using h.margins a
      sense := by rw [hs]; exact h.sense
      flash := by rw [hf]; exact h.flash
      window := by rw [hw]; exact h.window
      heartwood := by rw [hh]; exact h.heartwood
      log := by rw [hr]; exact h.log }

/-- The same, of a record of fields: how every update in place is seen to keep. -/
theorem Keeps.mk_iff {fr : Frame} {s₀ s : State}
    (a0 : Nat) (a1 : Nat) (a2 : Nat) (a3 : Pins) (a4 : FtRsp) (a5 : List Access) (a6 : FuseWires)
    (a7 : BitVec 128) (a8 : Bool) (a9 : Bool) (a10 : Beat) (a11 : Core) (a12 : Vector CellState 92)
    (a13 : List CellUnit) (a14 : Vector SeatPage 68) (a15 : List Job) (a16 : Nat) (a17 : Vector Arb 9)
    (a18 : Vector Mailbox 128) (a19 : Initiator) (a20 : Otp) (a21 : LifeCycle) (a22 : Keys) (a23 : Boot)
    (a24 : Pke) (a25 : Dig) (a26 : Ing) (a27 : Partitions) (a28 : Recorder) (a29 : List PortEvent)
    (ha : a20.array = s.otp.array) (hs : a20.sense = s.otp.sense) (hf : a23.flash = s.boot.flash)
    (hw : a24.window = s.pke.window) (hh : a28.heartwood = s.recd.heartwood) (hr : a28.recs = s.recd.recs) :
    Keeps fr s₀ (State.mk a0 a1 a2 a3 a4 a5 a6 a7 a8 a9 a10 a11 a12 a13 a14 a15 a16 a17 a18 a19 a20 a21 a22 a23 a24 a25 a26 a27 a28 a29 s.pending) ↔ Keeps fr s₀ s := by
  have h : Keeps fr s (State.mk a0 a1 a2 a3 a4 a5 a6 a7 a8 a9 a10 a11 a12 a13 a14 a15 a16 a17 a18 a19 a20 a21 a22 a23 a24 a25 a26 a27 a28 a29 s.pending) := Keeps.same rfl ha hs hf hw hh hr
  have g : Keeps fr (State.mk a0 a1 a2 a3 a4 a5 a6 a7 a8 a9 a10 a11 a12 a13 a14 a15 a16 a17 a18 a19 a20 a21 a22 a23 a24 a25 a26 a27 a28 a29 s.pending) s :=
    Keeps.same rfl ha.symm hs.symm hf.symm hw.symm hh.symm hr.symm
  exact ⟨fun k => k.trans g, fun k => k.trans h⟩

/-- A change of memories other than the fuse array, the heartwood and the flash that keeps each in canonical form, and
of a log that stays within its bound. -/
theorem Keeps.write {fr : Frame} {s₀ s t : State} (h : Keeps fr s₀ s) (hp : t.pending = s.pending)
    (ha : t.otp.array = s.otp.array) (hs : memWf (0, 0) s.otp.sense = true → memWf (0, 0) t.otp.sense = true)
    (hf : t.boot.flash = s.boot.flash) (hw : memWf 0 s.pke.window = true → memWf 0 t.pke.window = true)
    (hh : t.recd.heartwood = s.recd.heartwood) (hr : s.recd.recs.length ≤ 4096 → t.recd.recs.length ≤ 4096) :
    Keeps fr s₀ t :=
  h.trans
    { pending := hp
      fuses := fun a => by simp [otpLive, ha, Within.refl]
      sameFuses := fun _ => ha
      sameHeartwood := fun _ => hh
      sameFlash := fun _ => hf
      sound := fun k =>
        { fuses := by rw [ha]; exact k.fuses
          margins := fun a => by simpa [otpLive, ha] using k.margins a
          sense := hs k.sense
          flash := by rw [hf]; exact k.flash
          window := hw k.window
          heartwood := by rw [hh]; exact k.heartwood
          log := hr k.log } }

/-- The flash in another canonical form. -/
theorem Keeps.flashWrite {fr : Frame} [Fact (fr.flash = false)] {s₀ s : State} {m : List (Nat × Byte)} (h : Keeps fr s₀ s)
    (hf : memWf 0xFF s.boot.flash = true → memWf 0xFF m = true) :
    Keeps fr s₀ { s with boot := { s.boot with flash := m } } :=
  h.trans
    { pending := rfl, fuses := fun _ => Within.refl _, sameFuses := fun _ => rfl, sameHeartwood := fun _ => rfl
      sameFlash := not_set
      sound := fun k => { k with flash := hf k.flash } }

/-- A heartwood record written. -/
theorem Keeps.heartWrite {fr : Frame} [Fact (fr.heartwood = false)] {s₀ s : State} {r : Recorder} (h : Keeps fr s₀ s)
    (ix : Nat) (v : BitVec 512) (n : Nat) (hh : r.heartwood = memSet 0 s.recd.heartwood ix v)
    (hr : r.recs = s.recd.recs) : Keeps fr s₀ { s with recd := r, draws := n } :=
  h.trans
    { pending := rfl, fuses := fun _ => Within.refl _, sameFuses := fun _ => rfl, sameHeartwood := not_set
      sameFlash := fun _ => rfl
      sound := fun k =>
        { fuses := k.fuses, margins := k.margins, sense := k.sense, flash := k.flash, window := k.window
          heartwood := by show memWf 0 r.heartwood = true; rw [hh]; exact memSet_wf _ _ _ _ k.heartwood
          log := by show r.recs.length ≤ 4096; rw [hr]; exact k.log } }

/-- A fuse word written so that no high margin bit is lost and the margins keep their order. -/
theorem Keeps.burn {fr : Frame} [Fact (fr.fuses = false)] {s₀ s : State} (a : Nat) (r : Reads) (h : Keeps fr s₀ s) (hk : Within (otpLive s a).2 r.2)
    (hn : Within (otpLive s a).2 (otpLive s a).1 → Within r.2 r.1) :
    Keeps fr s₀ { s with otp := { s.otp with array := memSet (0, 0) s.otp.array a r } } :=
  h.trans
    { pending := rfl
      sameFuses := not_set
      sameHeartwood := fun _ => rfl
      sameFlash := fun _ => rfl
      fuses := fun x => by
        show Within (memGet (0, 0) s.otp.array x).2 (memGet (0, 0) (memSet (0, 0) s.otp.array a r) x).2
        by_cases hx : x = a
        · subst hx
          by_cases hr : r = (0, 0)
          · have : (memGet (0, 0) s.otp.array x).2 = 0 := by
              have := hk; rw [hr] at this
              exact BitVec.eq_of_getLsbD_eq fun i _ => by simpa [otpLive] using within_iff.1 this i
            rw [this]; simp [Within]
          · rw [memGet_memSet_ne _ _ _ _ hr]; exact hk
        · rw [memGet_memSet_other _ _ _ _ _ hx]; exact Within.refl _
      sound := fun k =>
        { fuses := memSet_wf _ _ _ _ k.fuses
          margins := fun x => by
            show Within (memGet (0, 0) (memSet (0, 0) s.otp.array a r) x).2
              (memGet (0, 0) (memSet (0, 0) s.otp.array a r) x).1
            by_cases hx : x = a
            · subst hx; rw [memGet_memSet_same _ _ _ _ k.fuses]; exact hn (k.margins x)
            · rw [memGet_memSet_other _ _ _ _ _ hx]; exact k.margins x
          sense := k.sense
          flash := k.flash
          window := k.window
          heartwood := k.heartwood
          log := k.log } }

theorem Keeps.foldl {fr : Frame} {β : Type} {s₀ : State} {g : State → β → State} {l : List β} {s : State}
    (h : ∀ s b, Keeps fr s₀ s → Keeps fr s₀ (g s b)) (hs : Keeps fr s₀ s) : Keeps fr s₀ (l.foldl g s) := by
  induction l generalizing s with
  | nil => exact hs
  | cons b l ih => exact ih (h s b hs)

theorem Keeps.foldl_at {fr : Frame} {α β : Type} {s₀ : State} (p : α → State) {g : α → β → α} {l : List β} {a : α}
    (h : ∀ a b, Keeps fr s₀ (p a) → Keeps fr s₀ (p (g a b))) (ha : Keeps fr s₀ (p a)) : Keeps fr s₀ (p (l.foldl g a)) := by
  induction l generalizing a with
  | nil => exact ha
  | cons b l ih => exact ih (h a b ha)

theorem Keeps.of_snd {fr : Frame} {α : Type} {s₀ : State} {p : α × State} {x : α} {t : State} (e : p = (x, t))
    (h : Keeps fr s₀ p.2) : Keeps fr s₀ t := by subst e; exact h

theorem Keeps.of_fst {fr : Frame} {α : Type} {s₀ : State} {p : State × α} {x : α} {t : State} (e : p = (t, x))
    (h : Keeps fr s₀ p.1) : Keeps fr s₀ t := by subst e; exact h

theorem Keeps.ite {fr : Frame} {s₀ s t : State} {c : Prop} [Decidable c] (h : Keeps fr s₀ s) (g : Keeps fr s₀ t) :
    Keeps fr s₀ (if c then s else t) := by split <;> assumption

end Sys2Proof.Machine
end

