-- ==== Sys2Proof/Laws/KeepsBase.lean ====
section
/-! SUPPORT. What the shared operations, the cells, the OTP path, the life-cycle base and KEYS keep:
the queue, every burned fuse bit and soundness (Laws/Keeps.lean). -/

namespace Sys2Proof.Machine

/-! ## Ops -/

theorem State.modSeat_keeps {fr : Frame} {s₀ : State} {s : State} {n : Seat} {f : SeatPage → SeatPage} (hK : Keeps fr s₀ s) :
    Keeps fr s₀ (State.modSeat s n f) := by
  unfold State.modSeat; try dsimp only
  repeat' first
    | with_reducible assumption | intro _ | with_reducible apply Keeps.foldl | split | simp only [Keeps.mk_iff]

theorem State.modCell_keeps {fr : Frame} {s₀ : State} {s : State} {c : Cell} {f : CellState → CellState} (hK : Keeps fr s₀ s) :
    Keeps fr s₀ (State.modCell s c f) := by
  unfold State.modCell; try dsimp only
  repeat' first
    | with_reducible assumption | intro _ | with_reducible apply Keeps.foldl | split | simp only [Keeps.mk_iff]

theorem State.modPart_keeps {fr : Frame} {s₀ : State} {s : State} {n : Part} {f : PartRec → PartRec} (hK : Keeps fr s₀ s) :
    Keeps fr s₀ (State.modPart s n f) := by
  unfold State.modPart; try dsimp only
  repeat' first
    | with_reducible assumption | intro _ | with_reducible apply Keeps.foldl | split | simp only [Keeps.mk_iff]

theorem State.modLink_keeps {fr : Frame} {s₀ : State} {s : State} {k : Port} {f : Link → Link} (hK : Keeps fr s₀ s) :
    Keeps fr s₀ (State.modLink s k f) := by
  unfold State.modLink; try dsimp only
  repeat' first
    | with_reducible assumption | intro _ | with_reducible apply Keeps.foldl | split | simp only [Keeps.mk_iff]

theorem State.modSlot_keeps {fr : Frame} {s₀ : State} {s : State} {i : Fin 256} {f : KeySlot → KeySlot} (hK : Keeps fr s₀ s) :
    Keeps fr s₀ (State.modSlot s i f) := by
  unfold State.modSlot; try dsimp only
  repeat' first
    | with_reducible assumption | intro _ | with_reducible apply Keeps.foldl | split | simp only [Keeps.mk_iff]

theorem State.modPlan_keeps {fr : Frame} {s₀ : State} {s : State} {i : PlanIx} {f : Plan → Plan} (hK : Keeps fr s₀ s) :
    Keeps fr s₀ (State.modPlan s i f) := by
  unfold State.modPlan; try dsimp only
  repeat' first
    | with_reducible assumption | intro _ | with_reducible apply Keeps.foldl | split | simp only [Keeps.mk_iff]

theorem State.modMsg_keeps {fr : Frame} {s₀ : State} {s : State} {i : Fin 272} {f : Msg → Msg} (hK : Keeps fr s₀ s) :
    Keeps fr s₀ (State.modMsg s i f) := by
  unfold State.modMsg; try dsimp only
  repeat' first
    | with_reducible assumption | intro _ | with_reducible apply Keeps.foldl | split | simp only [Keeps.mk_iff]

theorem emit_keeps {fr : Frame} {s₀ : State} {e : PortEvent} {s : State} (hK : Keeps fr s₀ s) :
    Keeps fr s₀ (emit e s) := by
  unfold emit; try dsimp only
  repeat' first
    | with_reducible assumption | intro _ | with_reducible apply Keeps.foldl | split | simp only [Keeps.mk_iff]

theorem drawBytes_keeps {fr : Frame} {s₀ : State} {n : Nat} {s : State} (hK : Keeps fr s₀ s) :
    Keeps fr s₀ (drawBytes n s).2 := by
  unfold drawBytes; try dsimp only
  repeat' first
    | with_reducible assumption | intro _ | with_reducible apply Keeps.foldl | split | simp only [Keeps.mk_iff]

theorem drawWord_keeps {fr : Frame} {s₀ : State} {s : State} (hK : Keeps fr s₀ s) : Keeps fr s₀ (drawWord s).2 := by
  unfold drawWord; try dsimp only
  repeat' first
    | with_reducible assumption | intro _ | with_reducible apply Keeps.foldl | split | simp only [Keeps.mk_iff]

theorem tick_keeps {fr : Frame} {s₀ : State} {s : State} (hK : Keeps fr s₀ s) : Keeps fr s₀ (tick s) := by
  unfold tick; try dsimp only
  repeat' first
    | with_reducible assumption | intro _ | with_reducible apply Keeps.foldl | split | simp only [Keeps.mk_iff]

theorem launch_keeps {fr : Frame} {s₀ : State} {t : Txn} {s : State} (hK : Keeps fr s₀ s) :
    Keeps fr s₀ (launch t s) := by
  unfold launch; try dsimp only
  repeat' first
    | with_reducible assumption | intro _ | with_reducible apply emit_keeps | with_reducible apply Keeps.foldl
    | split | simp only [Keeps.mk_iff]

theorem issue_keeps {fr : Frame} {s₀ : State} {t : Txn} {s : State} (hK : Keeps fr s₀ s) :
    Keeps fr s₀ (issue t s) := by
  unfold issue; try dsimp only
  repeat' first
    | with_reducible assumption | intro _ | with_reducible apply launch_keeps | with_reducible apply Keeps.foldl
    | split | simp only [Keeps.mk_iff]

theorem pump_keeps {fr : Frame} {s₀ : State} {s : State} (hK : Keeps fr s₀ s) : Keeps fr s₀ (pump s) := by
  unfold pump; try dsimp only
  repeat' first
    | with_reducible assumption | intro _ | with_reducible apply launch_keeps | with_reducible apply Keeps.foldl
    | split | simp only [Keeps.mk_iff]

theorem pumpOver_keeps {fr : Frame} {s₀ : State} {l : List Txn} {s : State} (h : Keeps fr s₀ s) :
    Keeps fr s₀ (pumpOver l s) := by
  induction l generalizing s with
  | nil => exact h
  | cons t l ih =>
    unfold pumpOver
    repeat' first | with_reducible assumption | apply ih | with_reducible apply pump_keeps

theorem pumpAll_keeps {fr : Frame} {s₀ : State} {s : State} (hK : Keeps fr s₀ s) : Keeps fr s₀ (pumpAll s) := by
  unfold pumpAll; try dsimp only
  repeat' first | with_reducible assumption | intro _ | with_reducible apply pumpOver_keeps

theorem jobRead_keeps {fr : Frame} {s₀ : State} {j : Job} {addr : Word} {len : Nat} {s : State} (hK : Keeps fr s₀ s) :
    Keeps fr s₀ (jobRead j addr len s) := by
  unfold jobRead; try dsimp only
  repeat' first | with_reducible assumption | intro _ | with_reducible apply issue_keeps

theorem jobWrite_keeps {fr : Frame} {s₀ : State} {j : Job} {addr : Word} {data : Bytes} {s : State} (hK : Keeps fr s₀ s) :
    Keeps fr s₀ (jobWrite j addr data s) := by
  unfold jobWrite; try dsimp only
  repeat' first | with_reducible assumption | intro _ | with_reducible apply issue_keeps

theorem dropTxns_keeps {fr : Frame} {s₀ : State} {id : Nat} {s : State} (hK : Keeps fr s₀ s) :
    Keeps fr s₀ (dropTxns id s) := by
  unfold dropTxns; try dsimp only
  repeat' first
    | with_reducible assumption | intro _ | with_reducible apply pumpAll_keeps | with_reducible apply Keeps.foldl
    | split | simp only [Keeps.mk_iff]

theorem requestIbi_keeps {fr : Frame} {s₀ : State} {s : State} (hK : Keeps fr s₀ s) : Keeps fr s₀ (requestIbi s) := by
  unfold requestIbi; try dsimp only
  repeat' first
    | with_reducible assumption | intro _ | with_reducible apply emit_keeps | with_reducible apply Keeps.foldl
    | split | simp only [Keeps.mk_iff]

theorem ringNotice_keeps {fr : Frame} {s₀ : State} {s : State} (hK : Keeps fr s₀ s) : Keeps fr s₀ (ringNotice s) := by
  unfold ringNotice; try dsimp only
  repeat' first
    | with_reducible assumption | intro _ | with_reducible apply issue_keeps
    | with_reducible apply State.modSeat_keeps | with_reducible apply Keeps.foldl | split

theorem noteIrq_keeps {fr : Frame} {s₀ : State} {before after : State} (hK : Keeps fr s₀ after) :
    Keeps fr s₀ (noteIrq before after) := by
  unfold noteIrq; try dsimp only
  repeat' first
    | with_reducible assumption | intro _ | with_reducible apply requestIbi_keeps
    | with_reducible apply ringNotice_keeps | with_reducible apply Keeps.foldl | split

theorem modSeatIrq_keeps {fr : Frame} {s₀ : State} {n : Seat} {f : SeatPage → SeatPage} {s : State} (hK : Keeps fr s₀ s) :
    Keeps fr s₀ (modSeatIrq n f s) := by
  unfold modSeatIrq; try dsimp only
  repeat' first
    | with_reducible assumption | intro _ | with_reducible apply State.modSeat_keeps
    | with_reducible apply noteIrq_keeps

theorem raiseFault_keeps {fr : Frame} {s₀ : State} {n : Seat} {b : BitVec 6} {s : State} (hK : Keeps fr s₀ s) :
    Keeps fr s₀ (raiseFault n b s) := by
  unfold raiseFault; try dsimp only
  repeat' first | with_reducible assumption | intro _ | with_reducible apply modSeatIrq_keeps

theorem raiseSeat_keeps {fr : Frame} {s₀ : State} {n : Seat} {b : BitVec 7} {s : State} (hK : Keeps fr s₀ s) :
    Keeps fr s₀ (raiseSeat n b s) := by
  unfold raiseSeat; try dsimp only
  repeat' first | with_reducible assumption | intro _ | with_reducible apply modSeatIrq_keeps

theorem setBanks_keeps {fr : Frame} {s₀ : State} {b : BitVec 19} {s : State} (hK : Keeps fr s₀ s) :
    Keeps fr s₀ (setBanks b s) := by
  unfold setBanks; try dsimp only
  repeat' first
    | with_reducible assumption | intro _ | with_reducible apply State.modSeat_keeps
    | with_reducible apply noteIrq_keeps

theorem raiseCore_keeps {fr : Frame} {s₀ : State} {i : Nat} {s : State} (hK : Keeps fr s₀ s) :
    Keeps fr s₀ (raiseCore i s) := by
  unfold raiseCore; try dsimp only
  repeat' first
    | with_reducible assumption | intro _ | with_reducible apply setBanks_keeps | with_reducible apply Keeps.foldl
    | split | simp only [Keeps.mk_iff]

theorem writeEvent_keeps {fr : Frame} {s₀ : State} {e : EventRec} {s : State} (h : Keeps fr s₀ s) :
    Keeps fr s₀ (writeEvent e s) := by
  unfold writeEvent
  split
  · rename_i hl
    have k : Keeps fr s₀ { s with recd := { s.recd with recs := s.recd.recs ++ [{ e with seq := nextSeq s.recd.headSeq }], headSeq := nextSeq s.recd.headSeq } } :=
      Keeps.write h rfl rfl id rfl id rfl (fun _ => by simp; omega)
    dsimp only
    split
    · exact raiseCore_keeps k
    · exact k
  · simp only [Keeps.mk_iff]; exact h

theorem record_keeps {fr : Frame} {s₀ : State} {e : EventRec} {s : State} (hK : Keeps fr s₀ s) :
    Keeps fr s₀ (record e s) := by
  unfold record; try dsimp only
  repeat' first
    | with_reducible assumption | intro _ | with_reducible apply writeEvent_keeps
    | with_reducible apply Keeps.foldl | split | simp only [Keeps.mk_iff]

theorem recordLimited_keeps {fr : Frame} {s₀ : State} {k : LimitKey} {e : EventRec} {s : State} (hK : Keeps fr s₀ s) :
    Keeps fr s₀ (recordLimited k e s) := by
  unfold recordLimited; try dsimp only
  repeat' first
    | with_reducible assumption | intro _ | with_reducible apply record_keeps | with_reducible apply Keeps.foldl
    | split | simp only [Keeps.mk_iff]

theorem setVolatile_keeps {fr : Frame} {s₀ : State} {c : Option Cell} {s : State} (hK : Keeps fr s₀ s) :
    Keeps fr s₀ (setVolatile c s) := by
  unfold setVolatile; try dsimp only
  repeat' first
    | with_reducible assumption | intro _ | with_reducible apply State.modCell_keeps
    | with_reducible apply raiseCore_keeps | with_reducible apply Keeps.foldl | split

theorem hwCondition_keeps {fr : Frame} {s₀ : State} {k : Nat} {s : State} (hK : Keeps fr s₀ s) :
    Keeps fr s₀ (hwCondition k s) := by
  unfold hwCondition; try dsimp only
  repeat' first
    | with_reducible assumption | intro _ | with_reducible apply raiseCore_keeps
    | with_reducible apply record_keeps | with_reducible apply Keeps.foldl | split | simp only [Keeps.mk_iff]

theorem hwWrite_keeps {fr : Frame} [Fact (fr.heartwood = false)] {s₀ : State} {kind : BitVec 16} {t : Stamp} {detail : Bytes} {cell : Option Cell} {failed : Nat}
    {s : State} (h : Keeps fr s₀ s) : Keeps fr s₀ (hwWrite kind t detail cell failed s).1 := by
  have k : ∀ (ix : Nat) (v : BitVec 512) (r : Recorder), r.heartwood = memSet 0 s.recd.heartwood ix v →
      r.recs = s.recd.recs → Keeps fr s₀ { s with recd := r } := fun ix v r hh hr => Keeps.heartWrite h ix v s.draws hh hr
  unfold hwWrite; dsimp only
  repeat' first
    | with_reducible assumption | with_reducible apply State.modCell_keeps
    | with_reducible apply hwCondition_keeps | with_reducible apply setVolatile_keeps | exact k _ _ _ rfl rfl
    | split | simp only [Keeps.mk_iff]

theorem hwQueue_keeps {fr : Frame} {s₀ : State} {kind : BitVec 16} {detail : Bytes} {cell : Option Cell} {s : State} (hK : Keeps fr s₀ s) :
    Keeps fr s₀ (hwQueue kind detail cell s) := by
  unfold hwQueue; try dsimp only
  repeat' first
    | with_reducible assumption | intro _ | with_reducible apply hwCondition_keeps
    | with_reducible apply setVolatile_keeps | with_reducible apply Keeps.foldl | split | simp only [Keeps.mk_iff]

theorem hwNote_keeps {fr : Frame} {s₀ : State} {kind : BitVec 16} {detail : Bytes} {s : State} (hK : Keeps fr s₀ s) :
    Keeps fr s₀ (hwNote kind detail s) := by
  unfold hwNote; try dsimp only
  repeat' first | with_reducible assumption | intro _ | with_reducible apply hwQueue_keeps

theorem coreFault_keeps {fr : Frame} {s₀ : State} {cause : Nat} {s : State} (hK : Keeps fr s₀ s) :
    Keeps fr s₀ (coreFault cause s) := by
  unfold coreFault; try dsimp only
  repeat' first
    | with_reducible assumption | intro _ | with_reducible apply hwNote_keeps | with_reducible apply Keeps.foldl
    | split | simp only [Keeps.mk_iff]

theorem setJob_keeps {fr : Frame} {s₀ : State} {j : Job} {s : State} (hK : Keeps fr s₀ s) :
    Keeps fr s₀ (setJob j s) := by
  unfold setJob; try dsimp only
  repeat' first
    | with_reducible assumption | intro _ | with_reducible apply Keeps.foldl | split | simp only [Keeps.mk_iff]

theorem removeJob_keeps {fr : Frame} {s₀ : State} {id : Nat} {s : State} (hK : Keeps fr s₀ s) :
    Keeps fr s₀ (removeJob id s) := by
  unfold removeJob; try dsimp only
  repeat' first
    | with_reducible assumption | intro _ | with_reducible apply dropTxns_keeps | with_reducible apply Keeps.foldl
    | split | simp only [Keeps.mk_iff]

theorem postEntry_keeps {fr : Frame} {s₀ : State} {n : Seat} {c : QClass} {e : EntryIx} {st : Status} {ws : Words} {s : State} (hK : Keeps fr s₀ s) :
    Keeps fr s₀ (postEntry n c e st ws s) := by
  unfold postEntry; try dsimp only
  repeat' first | with_reducible assumption | intro _ | with_reducible apply modSeatIrq_keeps

theorem settleSlots_keeps {fr : Frame} {s₀ : State} {s : State} (hK : Keeps fr s₀ s) :
    Keeps fr s₀ (settleSlots s) := by
  unfold settleSlots; try dsimp only
  repeat' first
    | with_reducible assumption | intro _ | with_reducible apply Keeps.foldl | split | simp only [Keeps.mk_iff]

theorem settleCurves_keeps {fr : Frame} {s₀ : State} {s : State} (hK : Keeps fr s₀ s) :
    Keeps fr s₀ (settleCurves s) := by
  unfold settleCurves; try dsimp only
  repeat' first
    | with_reducible assumption | intro _ | with_reducible apply Keeps.foldl | split | simp only [Keeps.mk_iff]

theorem settleBlocks_keeps {fr : Frame} {s₀ s : State} (h : Keeps fr s₀ s) : Keeps fr s₀ (settleBlocks s) := by
  unfold settleBlocks
  apply Keeps.foldl _ h
  intro s b h
  split
  · exact h
  · split
    · exact h
    · exact Keeps.write h rfl rfl id rfl (fun w => memErase_wf _ _ _ _ w) rfl id

theorem settle_keeps {fr : Frame} {s₀ : State} {s : State} (hK : Keeps fr s₀ s) : Keeps fr s₀ (settle s) := by
  unfold settle; try dsimp only
  repeat' first
    | with_reducible assumption | intro _ | with_reducible apply settleBlocks_keeps
    | with_reducible apply settleCurves_keeps | with_reducible apply settleSlots_keeps

theorem finishJob_keeps {fr : Frame} {s₀ : State} {j : Job} {st : Status} {ws : Words} {s : State} (hK : Keeps fr s₀ s) :
    Keeps fr s₀ (finishJob j st ws s) := by
  unfold finishJob; try dsimp only
  repeat' first
    | with_reducible assumption | intro _ | with_reducible apply postEntry_keeps
    | with_reducible apply removeJob_keeps | with_reducible apply settle_keeps | with_reducible apply Keeps.foldl
    | split

theorem decideJob_keeps {fr : Frame} {s₀ : State} {j : Job} {st : Status} {ws : Words} {s : State} (hK : Keeps fr s₀ s) :
    Keeps fr s₀ (decideJob j st ws s) := by
  unfold decideJob; try dsimp only
  repeat' first
    | with_reducible assumption | intro _ | with_reducible apply dropTxns_keeps
    | with_reducible apply removeJob_keeps | with_reducible apply setJob_keeps | with_reducible apply settle_keeps
    | with_reducible apply Keeps.foldl | split

theorem failJob_keeps {fr : Frame} {s₀ : State} {j : Job} {st : Status} {s : State} (hK : Keeps fr s₀ s) :
    Keeps fr s₀ (failJob j st s) := by
  unfold failJob; try dsimp only
  repeat' first | with_reducible assumption | intro _ | with_reducible apply decideJob_keeps

theorem refuseJob_keeps {fr : Frame} {s₀ : State} {j : Job} {st : Status} {s : State} (hK : Keeps fr s₀ s) :
    Keeps fr s₀ (refuseJob j st s) := by
  unfold refuseJob; try dsimp only
  repeat' first
    | with_reducible assumption | intro _ | with_reducible apply failJob_keeps
    | with_reducible apply recordLimited_keeps | with_reducible apply Keeps.foldl | split

theorem fetchJob_keeps {fr : Frame} {s₀ : State} {j : Job} {addr : Word} {len : Nat} {s : State} (hK : Keeps fr s₀ s) :
    Keeps fr s₀ (fetchJob j addr len s) := by
  unfold fetchJob; try dsimp only
  repeat' first
    | with_reducible assumption | intro _ | with_reducible apply jobRead_keeps | with_reducible apply setJob_keeps

theorem storeJob_keeps {fr : Frame} {s₀ : State} {j : Job} {addr : Word} {data : Bytes} {st : Status} {ws : Words} {s : State} (hK : Keeps fr s₀ s) :
    Keeps fr s₀ (storeJob j addr data st ws s) := by
  unfold storeJob; try dsimp only
  repeat' first
    | with_reducible assumption | intro _ | with_reducible apply jobWrite_keeps
    | with_reducible apply setJob_keeps

theorem startEntry_keeps {fr : Frame} {s₀ : State} {n : Seat} {i : Fin 32} {s : State} (hK : Keeps fr s₀ s) :
    Keeps fr s₀ (startEntry n i s).2 := by
  unfold startEntry; try dsimp only
  repeat' first
    | with_reducible assumption | intro _ | with_reducible apply State.modSeat_keeps
    | with_reducible apply Keeps.foldl | split | simp only [Keeps.mk_iff]

theorem startNext_keeps {fr : Frame} {s₀ : State} {o : Op} {ready : Bool} {s : State} (h :
    Keeps fr s₀ s) {j : Job} {t : State}
    (e : startNext o ready s = some (j, t)) : Keeps fr s₀ t := by
  unfold startNext at e; dsimp only at e
  (repeat' split at e) <;> first | contradiction | skip
  have k := congrArg Prod.snd (Option.some.inj e)
  rw [← show _ = t from k]
  apply startEntry_keeps
  simp only [Keeps.mk_iff]; exact h

theorem runJob_keeps {fr : Frame} {s₀ : State} {o : Op} {ready : Bool} {go : Job → State → State} {s : State} (hgo : ∀ y0 y1, Keeps fr s₀ y1 → Keeps fr s₀ (go y0 y1)) (hK : Keeps fr s₀ s) :
    Keeps fr s₀ (runJob o ready go s) := by
  unfold runJob; try dsimp only
  repeat' first
    | with_reducible assumption | intro _ | with_reducible apply hgo
    | with_reducible refine startNext_keeps ?_ (by assumption) | with_reducible apply Keeps.foldl | split

theorem zeroModelKeys_keeps {fr : Frame} {s₀ : State} {n : Part} {s : State} (hK : Keeps fr s₀ s) :
    Keeps fr s₀ (zeroModelKeys n s) := by
  unfold zeroModelKeys; try dsimp only
  repeat' first
    | with_reducible assumption | intro _ | with_reducible apply Keeps.foldl | split | simp only [Keeps.mk_iff]

theorem zeroAllModelKeys_keeps {fr : Frame} {s₀ : State} {s : State} (hK : Keeps fr s₀ s) :
    Keeps fr s₀ (zeroAllModelKeys s) := by
  unfold zeroAllModelKeys; try dsimp only
  repeat' first
    | with_reducible assumption | intro _ | with_reducible apply Keeps.foldl | split | simp only [Keeps.mk_iff]

theorem advanceG_keeps {fr : Frame} {s₀ : State} {n : Part} {s : State} (hK : Keeps fr s₀ s) :
    Keeps fr s₀ (advanceG n s) := by
  unfold advanceG; try dsimp only
  repeat' first
    | with_reducible assumption | intro _ | with_reducible apply State.modPart_keeps
    | with_reducible apply zeroModelKeys_keeps

theorem advanceAllG_keeps {fr : Frame} {s₀ : State} {s : State} (hK : Keeps fr s₀ s) :
    Keeps fr s₀ (advanceAllG s) := by
  unfold advanceAllG; try dsimp only
  repeat' first
    | with_reducible assumption | intro _ | with_reducible apply advanceG_keeps | with_reducible apply Keeps.foldl
    | split

theorem carryG_keeps {fr : Frame} {s₀ : State} {n : Part} {s : State} (hK : Keeps fr s₀ s) :
    Keeps fr s₀ (carryG n s) := by
  unfold carryG; try dsimp only
  repeat' first
    | with_reducible assumption | intro _ | with_reducible apply State.modPart_keeps
    | with_reducible apply Keeps.foldl | split | simp only [Keeps.mk_iff]

/-! ## Cells -/

theorem giveUnit_keeps {fr : Frame} {s₀ : State} {c : Cell} {u : CellUnit} {s : State} (hK : Keeps fr s₀ s) :
    Keeps fr s₀ (giveUnit c u s) := by
  unfold giveUnit; try dsimp only
  repeat' first | with_reducible assumption | intro _ | with_reducible apply State.modCell_keeps

theorem submitUnit_keeps {fr : Frame} {s₀ : State} {u : CellUnit} {s : State} (hK : Keeps fr s₀ s) :
    Keeps fr s₀ (submitUnit u s) := by
  unfold submitUnit; try dsimp only
  repeat' first
    | with_reducible assumption | intro _ | with_reducible apply giveUnit_keeps | with_reducible apply Keeps.foldl
    | split | simp only [Keeps.mk_iff]

theorem placeWaiting_keeps {fr : Frame} {s₀ : State} {s : State} (hK : Keeps fr s₀ s) :
    Keeps fr s₀ (placeWaiting s) := by
  unfold placeWaiting; try dsimp only
  repeat' first
    | with_reducible assumption | intro _ | with_reducible apply giveUnit_keeps | with_reducible apply Keeps.foldl
    | split | simp only [Keeps.mk_iff]

theorem idleCell_keeps {fr : Frame} {s₀ : State} {c : Cell} {s : State} (hK : Keeps fr s₀ s) :
    Keeps fr s₀ (idleCell c s) := by
  unfold idleCell; try dsimp only
  repeat' first
    | with_reducible assumption | intro _ | with_reducible apply State.modCell_keeps
    | with_reducible apply Keeps.foldl | split | simp only [Keeps.mk_iff]

theorem retireCell_keeps {fr : Frame} {s₀ : State} {c : Cell} {cause : Nat} {s : State} (hK : Keeps fr s₀ s) :
    Keeps fr s₀ (retireCell c cause s) := by
  unfold retireCell; try dsimp only
  repeat' first
    | with_reducible assumption | intro _ | with_reducible apply hwQueue_keeps
    | with_reducible apply State.modCell_keeps | with_reducible apply raiseCore_keeps
    | with_reducible apply record_keeps | with_reducible apply Keeps.foldl | split

theorem retireCells_keeps {fr : Frame} {s₀ : State} {cs : List Cell} {cause : Nat} {s : State} (hK : Keeps fr s₀ s) :
    Keeps fr s₀ (retireCells cs cause s) := by
  unfold retireCells; try dsimp only
  repeat' first
    | with_reducible assumption | intro _ | with_reducible apply retireCell_keeps
    | with_reducible apply Keeps.foldl

theorem dropUnits_keeps {fr : Frame} {s₀ : State} {mine : UnitOwner → Bool} {s : State} (hK : Keeps fr s₀ s) :
    Keeps fr s₀ (dropUnits mine s) := by
  unfold dropUnits; try dsimp only
  repeat' first
    | with_reducible assumption | intro _ | with_reducible apply idleCell_keeps | with_reducible apply Keeps.foldl
    | split | simp only [Keeps.mk_iff]

theorem freshCells_keeps {fr : Frame} {s₀ : State} {e : Engine} {s : State} (hK : Keeps fr s₀ s) :
    Keeps fr s₀ (freshCells e s) := by
  unfold freshCells; try dsimp only
  repeat' first
    | with_reducible assumption | intro _ | with_reducible apply State.modCell_keeps
    | with_reducible apply Keeps.foldl

/-! ## Otp -/

theorem endBurn_keeps {fr : Frame} {s₀ : State} {b : Burn} {st : Status} {s : State} (hK : Keeps fr s₀ s) :
    Keeps fr s₀ (endBurn b st s).1 := by
  unfold endBurn; try dsimp only
  repeat' first
    | with_reducible assumption | intro _ | with_reducible apply Keeps.foldl | split | simp only [Keeps.mk_iff]

theorem beginBurn_keeps {fr : Frame} {s₀ : State} {b : Burn} {s : State} (hK : Keeps fr s₀ s) :
    Keeps fr s₀ (beginBurn b s).1 := by
  unfold beginBurn; try dsimp only
  repeat' first
    | with_reducible assumption | intro _ | with_reducible apply endBurn_keeps | with_reducible apply Keeps.foldl
    | split | simp only [Keeps.mk_iff]

theorem pulseWord_keeps {fr : Frame} [Fact (fr.fuses = false)] {s₀ : State} {addr : Nat} {p : Pulse} {s : State} (h :
    Keeps fr s₀ s) :
    Keeps fr s₀ (pulseWord addr p s) :=
  Keeps.burn addr _ h (Within.or_left _ _) (fun k => Within.pulse k)

theorem afterPulse_keeps {fr : Frame} [Fact (fr.fuses = false)] {s₀ : State} {p : Pulse} {s : State} (hK : Keeps fr s₀ s) :
    Keeps fr s₀ (afterPulse p s).1 := by
  unfold afterPulse; try dsimp only
  repeat' first
    | with_reducible assumption | intro _ | with_reducible apply endBurn_keeps
    | with_reducible apply pulseWord_keeps | with_reducible apply Keeps.foldl | split | simp only [Keeps.mk_iff]

theorem inlineBurn_keeps {fr : Frame} [Fact (fr.fuses = false)] {s₀ : State} {s : State} {ps : List Pulse} (h :
    Keeps fr s₀ s) :
    Keeps fr s₀ (inlineBurn s ps).1 := by
  induction ps generalizing s with
  | nil => simp only [inlineBurn, Keeps.mk_iff]; exact h
  | cons p ps ih =>
    have k := afterPulse_keeps (p := p) h
    simp only [inlineBurn]
    split
    · rename_i e; rw [e] at k; exact k
    · rename_i e; rw [e] at k
      split
      · exact k
      · exact ih k

theorem burnNow_keeps {fr : Frame} [Fact (fr.fuses = false)] {s₀ : State} {todo : List WordBurn} {single : Bool} {ps : List Pulse} {s : State} (hK : Keeps fr s₀ s) :
    Keeps fr s₀ (burnNow todo single ps s).1 := by
  unfold burnNow; try dsimp only
  repeat' first
    | with_reducible assumption | intro _ | with_reducible apply beginBurn_keeps
    | with_reducible apply inlineBurn_keeps | with_reducible apply Keeps.foldl | split | simp only [Keeps.mk_iff]
    | refine Keeps.of_snd ‹_› ?_ | refine Keeps.of_fst ‹_› ?_

theorem supplyLost_keeps {fr : Frame} {s₀ : State} {s : State} (hK : Keeps fr s₀ s) : Keeps fr s₀ (supplyLost s) := by
  unfold supplyLost; try dsimp only
  repeat' first
    | with_reducible assumption | intro _ | with_reducible apply Keeps.foldl | split | simp only [Keeps.mk_iff]

theorem queueBurn_keeps {fr : Frame} {s₀ : State} {b : Burn} {s : State} (hK : Keeps fr s₀ s) :
    Keeps fr s₀ (queueBurn b s) := by
  unfold queueBurn; try dsimp only
  repeat' first
    | with_reducible assumption | intro _ | with_reducible apply Keeps.foldl | split | simp only [Keeps.mk_iff]

theorem jobBurn_keeps {fr : Frame} {s₀ : State} {j : Job} {todo : List WordBurn} {s : State} (hK : Keeps fr s₀ s) :
    Keeps fr s₀ (jobBurn j todo s) := by
  unfold jobBurn; try dsimp only
  repeat' first | with_reducible assumption | intro _ | with_reducible apply queueBurn_keeps

theorem otpDecide_keeps {fr : Frame} {s₀ : State} {j : Job} {st : Status} {ws : Words} {s : State} (hK : Keeps fr s₀ s) :
    Keeps fr s₀ (otpDecide j st ws s) := by
  unfold otpDecide; try dsimp only
  repeat' first
    | with_reducible assumption | intro _ | with_reducible apply decideJob_keeps
    | with_reducible apply Keeps.foldl | split | simp only [Keeps.mk_iff]

theorem otpRefuse_keeps {fr : Frame} {s₀ : State} {j : Job} {st : Status} {s : State} (hK : Keeps fr s₀ s) :
    Keeps fr s₀ (otpRefuse j st s) := by
  unfold otpRefuse; try dsimp only
  repeat' first
    | with_reducible assumption | intro _ | with_reducible apply refuseJob_keeps
    | with_reducible apply Keeps.foldl | split | simp only [Keeps.mk_iff]

theorem startOtpRead_keeps {fr : Frame} {s₀ : State} {j : Job} {s : State} (hK : Keeps fr s₀ s) :
    Keeps fr s₀ (startOtpRead j s) := by
  unfold startOtpRead; try dsimp only
  repeat' first
    | with_reducible assumption | intro _ | with_reducible apply otpRefuse_keeps
    | with_reducible apply submitUnit_keeps | with_reducible apply Keeps.foldl | split

theorem endOtpRead_keeps {fr : Frame} {s₀ : State} {j : Job} {s : State} (hK : Keeps fr s₀ s) :
    Keeps fr s₀ (endOtpRead j s) := by
  unfold endOtpRead; try dsimp only
  repeat' first | with_reducible assumption | intro _ | with_reducible apply otpDecide_keeps

theorem marginRead_keeps {fr : Frame} {s₀ : State} {id : Nat} {s : State} (hK : Keeps fr s₀ s) :
    Keeps fr s₀ (marginRead id s) := by
  unfold marginRead; try dsimp only
  repeat' first
    | with_reducible assumption | intro _ | with_reducible apply endOtpRead_keeps
    | with_reducible apply setJob_keeps | with_reducible apply submitUnit_keeps | with_reducible apply Keeps.foldl
    | split

theorem readFailed_keeps {fr : Frame} {s₀ : State} {id : Nat} {st : Status} {s : State} (hK : Keeps fr s₀ s) :
    Keeps fr s₀ (readFailed id st s) := by
  unfold readFailed; try dsimp only
  repeat' first
    | with_reducible assumption | intro _ | with_reducible apply otpDecide_keeps
    | with_reducible apply Keeps.foldl | split

theorem startOtpProgram_keeps {fr : Frame} {s₀ : State} {j : Job} {s : State} (hK : Keeps fr s₀ s) :
    Keeps fr s₀ (startOtpProgram j s) := by
  unfold startOtpProgram; try dsimp only
  repeat' first
    | with_reducible assumption | intro _ | with_reducible apply jobBurn_keeps
    | with_reducible apply otpRefuse_keeps | with_reducible apply Keeps.foldl | split

theorem refreshRegion_keeps {fr : Frame} {s₀ : State} {r : Nat} {s : State} (hK : Keeps fr s₀ s) :
    Keeps fr s₀ (refreshRegion r s) := by
  unfold refreshRegion; try dsimp only
  repeat' first
    | with_reducible assumption | intro _ | with_reducible apply Keeps.foldl | split | simp only [Keeps.mk_iff]

theorem refreshWord_keeps {fr : Frame} {s₀ : State} {a : Nat} {s : State} (hK : Keeps fr s₀ s) :
    Keeps fr s₀ (refreshWord a s) := by
  unfold refreshWord; try dsimp only
  repeat' first
    | with_reducible assumption | intro _ | with_reducible apply refreshRegion_keeps
    | with_reducible apply Keeps.foldl | split

theorem endOtpProgram_keeps {fr : Frame} {s₀ : State} {j : Job} {e : BurnEnd} {s : State} (hK : Keeps fr s₀ s) :
    Keeps fr s₀ (endOtpProgram j e s) := by
  unfold endOtpProgram; try dsimp only
  repeat' first
    | with_reducible assumption | intro _ | with_reducible apply otpDecide_keeps
    | with_reducible apply refreshWord_keeps

theorem startOtpLock_keeps {fr : Frame} {s₀ : State} {j : Job} {s : State} (hK : Keeps fr s₀ s) :
    Keeps fr s₀ (startOtpLock j s) := by
  unfold startOtpLock; try dsimp only
  repeat' first
    | with_reducible assumption | intro _ | with_reducible apply jobBurn_keeps
    | with_reducible apply otpRefuse_keeps | with_reducible apply Keeps.foldl | split

theorem endOtpLock_keeps {fr : Frame} {s₀ : State} {j : Job} {e : BurnEnd} {s : State} (hK : Keeps fr s₀ s) :
    Keeps fr s₀ (endOtpLock j e s) := by
  unfold endOtpLock; try dsimp only
  repeat' first
    | with_reducible assumption | intro _ | with_reducible apply otpDecide_keeps
    | with_reducible apply refreshRegion_keeps

theorem startOtpRepair_keeps {fr : Frame} {s₀ : State} {j : Job} {s : State} (hK : Keeps fr s₀ s) :
    Keeps fr s₀ (startOtpRepair j s) := by
  unfold startOtpRepair; try dsimp only
  repeat' first
    | with_reducible assumption | intro _ | with_reducible apply jobBurn_keeps
    | with_reducible apply otpRefuse_keeps | with_reducible apply setJob_keeps | with_reducible apply Keeps.foldl
    | split

theorem endOtpRepair_keeps {fr : Frame} {s₀ : State} {j : Job} {e : BurnEnd} {s : State} (hK : Keeps fr s₀ s) :
    Keeps fr s₀ (endOtpRepair j e s) := by
  unfold endOtpRepair; try dsimp only
  repeat' first
    | with_reducible assumption | intro _ | with_reducible apply otpDecide_keeps
    | with_reducible apply refreshWord_keeps | with_reducible apply Keeps.foldl | split | simp only [Keeps.mk_iff]

theorem startCtrAdvance_keeps {fr : Frame} {s₀ : State} {j : Job} {s : State} (hK : Keeps fr s₀ s) :
    Keeps fr s₀ (startCtrAdvance j s) := by
  unfold startCtrAdvance; try dsimp only
  repeat' first
    | with_reducible assumption | intro _ | with_reducible apply jobBurn_keeps
    | with_reducible apply otpRefuse_keeps | with_reducible apply Keeps.foldl | split

/-! ## LcBase -/

theorem setPolicy_keeps {fr : Frame} {s₀ : State} {s : State} (hK : Keeps fr s₀ s) : Keeps fr s₀ (setPolicy s) := by
  unfold setPolicy; try dsimp only
  repeat' first
    | with_reducible assumption | intro _ | with_reducible apply Keeps.foldl | split | simp only [Keeps.mk_iff]

theorem debugRecord_keeps {fr : Frame} {s₀ : State} {level : Nat} {part : BitVec 8} {kind : Nat} {by' : BitVec 8} {cause : Nat} {s : State} (hK : Keeps fr s₀ s) :
    Keeps fr s₀ (debugRecord level part kind by' cause s) := by
  unfold debugRecord; try dsimp only
  repeat' first | with_reducible assumption | intro _ | with_reducible apply record_keeps

theorem setLevel_keeps {fr : Frame} {s₀ : State} {level : BitVec 2} {opener : BitVec 8} {s : State} (hK : Keeps fr s₀ s) :
    Keeps fr s₀ (setLevel level opener s) := by
  unfold setLevel; try dsimp only
  repeat' first
    | with_reducible assumption | intro _ | with_reducible apply advanceAllG_keeps
    | with_reducible apply State.modPart_keeps | with_reducible apply raiseCore_keeps
    | with_reducible apply Keeps.foldl | split | simp only [Keeps.mk_iff]

theorem closeOper_keeps {fr : Frame} {s₀ : State} {by' : BitVec 8} {cause : Nat} {s : State} (hK : Keeps fr s₀ s) :
    Keeps fr s₀ (closeOper by' cause s) := by
  unfold closeOper; try dsimp only
  repeat' first
    | with_reducible assumption | intro _ | with_reducible apply debugRecord_keeps
    | with_reducible apply setLevel_keeps | with_reducible apply Keeps.foldl | split

theorem closeProf_keeps {fr : Frame} {s₀ : State} {n : Part} {by' : BitVec 8} {cause : Nat} {s : State} (hK : Keeps fr s₀ s) :
    Keeps fr s₀ (closeProf n by' cause s) := by
  unfold closeProf; try dsimp only
  repeat' first
    | with_reducible assumption | intro _ | with_reducible apply advanceG_keeps
    | with_reducible apply debugRecord_keeps | with_reducible apply Keeps.foldl | split | simp only [Keeps.mk_iff]

theorem modAuth_keeps {fr : Frame} {s₀ : State} {n : Seat} {f : Auth → Auth} {s : State} (hK : Keeps fr s₀ s) :
    Keeps fr s₀ (modAuth n f s) := by
  unfold modAuth; try dsimp only
  repeat' first
    | with_reducible assumption | intro _ | with_reducible apply Keeps.foldl | split | simp only [Keeps.mk_iff]

theorem endBuild_keeps {fr : Frame} {s₀ : State} {s : State} (hK : Keeps fr s₀ s) : Keeps fr s₀ (endBuild s) := by
  unfold endBuild; try dsimp only
  repeat' first
    | with_reducible assumption | intro _ | with_reducible apply emit_keeps | with_reducible apply failJob_keeps
    | with_reducible apply Keeps.foldl | split | simp only [Keeps.mk_iff]

theorem endRole_keeps {fr : Frame} {s₀ : State} {n : Seat} {cause : Nat} {s : State} (hK : Keeps fr s₀ s) :
    Keeps fr s₀ (endRole n cause s) := by
  unfold endRole; try dsimp only
  repeat' first
    | with_reducible assumption | intro _ | with_reducible apply closeOper_keeps
    | with_reducible apply endBuild_keeps | with_reducible apply modAuth_keeps | with_reducible apply Keeps.foldl
    | split | simp only [Keeps.mk_iff]

theorem driftArray_keeps {fr : Frame} [Fact (fr.fuses = false)] {s₀ : State} {env : SenseEnv} {s : State} (h :
    Keeps fr s₀ s) :
    Keeps fr s₀ (driftArray env s) :=
  Keeps.foldl (fun _ _ h => Keeps.burn _ _ h (Within.or_left _ _) (fun _ => Within.or_left _ _)) h

theorem startNote_keeps {fr : Frame} {s₀ : State} {code : BitVec 16} {object : Nat} {s : State} (hK : Keeps fr s₀ s) :
    Keeps fr s₀ (startNote code object s) := by
  unfold startNote; try dsimp only
  repeat' first | with_reducible assumption | intro _ | with_reducible apply record_keeps

theorem reportSense_keeps {fr : Frame} {s₀ : State} {s : State} (hK : Keeps fr s₀ s) :
    Keeps fr s₀ (reportSense s) := by
  unfold reportSense; try dsimp only
  repeat' first
    | with_reducible assumption | intro _ | with_reducible apply hwNote_keeps
    | with_reducible apply startNote_keeps | with_reducible apply Keeps.foldl | split | simp only [Keeps.mk_iff]

theorem senseRegions_keeps {fr : Frame} {s₀ : State} {s : State} (hK : Keeps fr s₀ s) :
    Keeps fr s₀ (senseRegions s) := by
  unfold senseRegions; try dsimp only
  repeat' first
    | with_reducible assumption | intro _ | with_reducible apply hwNote_keeps
    | with_reducible apply startNote_keeps | with_reducible apply Keeps.foldl | split | simp only [Keeps.mk_iff]

theorem driveWires_keeps {fr : Frame} {s₀ : State} {s : State} (hK : Keeps fr s₀ s) : Keeps fr s₀ (driveWires s) := by
  unfold driveWires; try dsimp only
  repeat' first
    | with_reducible assumption | intro _ | with_reducible apply startNote_keeps
    | with_reducible apply Keeps.foldl | split | simp only [Keeps.mk_iff]

theorem senseLc_keeps {fr : Frame} {s₀ : State} {s : State} (hK : Keeps fr s₀ s) : Keeps fr s₀ (senseLc s) := by
  unfold senseLc; try dsimp only
  repeat' first
    | with_reducible assumption | intro _ | with_reducible apply startNote_keeps
    | with_reducible apply Keeps.foldl | split | simp only [Keeps.mk_iff]

theorem fuseSense_keeps {fr : Frame} [Fact (fr.fuses = false)] {s₀ : State} {env : SenseEnv} {s : State} (h : Keeps fr s₀ s) :
    Keeps fr s₀ (fuseSense env s) := by
  unfold fuseSense
  dsimp only
  split
  · exact coreFault_keeps (retireCells_keeps h)
  · apply setPolicy_keeps; apply driveWires_keeps; apply reportSense_keeps; apply senseLc_keeps; apply senseRegions_keeps
    have k := driftArray_keeps (env := env) (retireCells_keeps (cs := (env.groupsFailed.map (fun g => (Fin.ofNat 92 (84 + g.val) : Cell))).filter (healthy s)) (cause := 2) h)
    refine k.trans ?_
    exact { pending := rfl, fuses := fun _ => Within.refl _, sameFuses := fun _ => rfl, sameHeartwood := fun _ => rfl, sameFlash := fun _ => rfl, sound := fun q => { q with sense := q.fuses } }

theorem execFuseSense_keeps {fr : Frame} [Fact (fr.fuses = false)] {s₀ : State} {env : SenseEnv} {s : State} (hK : Keeps fr s₀ s) {t} (e : execFuseSense env s = .next t) :
    Keeps fr s₀ t := by
  unfold execFuseSense at e
  obtain rfl := Host.Outcome.next.inj e
  try dsimp only
  repeat' first
    | with_reducible assumption | intro _ | with_reducible apply fuseSense_keeps
    | with_reducible apply Keeps.foldl | split

/-! ## Keys -/

theorem ecdsaDraw_keeps {fr : Frame} {s₀ : State} {c : CurveParams} {d : Nat} {digest : Bytes} {n : Nat} {s : State}
    (h : Keeps fr s₀ s) : Keeps fr s₀ (ecdsaDraw c d digest n s).2 := by
  induction n generalizing s with
  | zero => exact h
  | succ n ih =>
    simp only [ecdsaDraw]
    repeat' first | with_reducible assumption | apply ih | with_reducible apply drawBytes_keeps | split

theorem dualSign_keeps {fr : Frame} {s₀ : State} {ec ml msg : Bytes} {s : State} (hK : Keeps fr s₀ s) :
    Keeps fr s₀ (dualSign ec ml msg s).2 := by
  unfold dualSign; try dsimp only
  repeat' first
    | with_reducible assumption | intro _ | with_reducible apply drawBytes_keeps
    | with_reducible apply ecdsaDraw_keeps

theorem newSlot_keeps {fr : Frame} {s₀ : State} {n : Seat} {cu : Cu} {content : Bytes} {origin : Nat} {s : State} (hK : Keeps fr s₀ s) :
    Keeps fr s₀ (newSlot n cu content origin s).2 := by
  unfold newSlot; try dsimp only
  repeat' first
    | with_reducible assumption | intro _ | with_reducible apply State.modSlot_keeps
    | with_reducible apply Keeps.foldl | split

theorem setInternal_keeps {fr : Frame} {s₀ : State} {i : Nat} {content : Bytes} {cls : BitVec 2} {s : State} (hK : Keeps fr s₀ s) :
    Keeps fr s₀ (setInternal i content cls s) := by
  unfold setInternal; try dsimp only
  repeat' first | with_reducible assumption | intro _ | with_reducible apply State.modSlot_keeps

theorem releaseSlot_keeps {fr : Frame} {s₀ : State} {i : Fin 256} {s : State} (hK : Keeps fr s₀ s) :
    Keeps fr s₀ (releaseSlot i s) := by
  unfold releaseSlot; try dsimp only
  repeat' first
    | with_reducible assumption | intro _ | with_reducible apply State.modSlot_keeps
    | with_reducible apply Keeps.foldl | split

theorem freeSeatSlots_keeps {fr : Frame} {s₀ : State} {n : Seat} {s : State} (hK : Keeps fr s₀ s) :
    Keeps fr s₀ (freeSeatSlots n s) := by
  unfold freeSeatSlots; try dsimp only
  repeat' first
    | with_reducible assumption | intro _ | with_reducible apply State.modSlot_keeps
    | with_reducible apply Keeps.foldl | split

theorem zeroizeStore_keeps {fr : Frame} {s₀ : State} {s : State} (hK : Keeps fr s₀ s) :
    Keeps fr s₀ (zeroizeStore s) := by
  unfold zeroizeStore; try dsimp only
  repeat' first
    | with_reducible assumption | intro _ | with_reducible apply Keeps.foldl | split | simp only [Keeps.mk_iff]

theorem freshContextKey_keeps {fr : Frame} {s₀ : State} {s : State} (hK : Keeps fr s₀ s) :
    Keeps fr s₀ (freshContextKey s) := by
  unfold freshContextKey; try dsimp only
  repeat' first
    | with_reducible assumption | intro _ | with_reducible apply drawBytes_keeps
    | with_reducible apply setInternal_keeps | with_reducible apply Keeps.foldl | split | simp only [Keeps.mk_iff]

theorem deriveFixed_keeps {fr : Frame} {s₀ : State} {s : State} (hK : Keeps fr s₀ s) :
    Keeps fr s₀ (deriveFixed s) := by
  unfold deriveFixed; try dsimp only
  repeat' first | with_reducible assumption | intro _ | with_reducible apply setInternal_keeps

theorem deriveLayer0_keeps {fr : Frame} {s₀ : State} {s : State} (hK : Keeps fr s₀ s) :
    Keeps fr s₀ (deriveLayer0 s) := by
  unfold deriveLayer0; try dsimp only
  repeat' first | with_reducible assumption | intro _ | with_reducible apply setInternal_keeps

theorem deriveLayer1_keeps {fr : Frame} {s₀ : State} {s : State} (hK : Keeps fr s₀ s) :
    Keeps fr s₀ (deriveLayer1 s) := by
  unfold deriveLayer1; try dsimp only
  repeat' first | with_reducible assumption | intro _ | with_reducible apply setInternal_keeps

theorem clearLayer1_keeps {fr : Frame} {s₀ : State} {s : State} (hK : Keeps fr s₀ s) :
    Keeps fr s₀ (clearLayer1 s) := by
  unfold clearLayer1; try dsimp only
  repeat' first
    | with_reducible assumption | intro _ | with_reducible apply State.modSlot_keeps
    | with_reducible apply Keeps.foldl | split | simp only [Keeps.mk_iff]

theorem issueCert_keeps {fr : Frame} {s₀ : State} {kind : Nat} {s : State} (hK : Keeps fr s₀ s) :
    Keeps fr s₀ (issueCert kind s) := by
  unfold issueCert; try dsimp only
  repeat' first
    | with_reducible assumption | intro _ | with_reducible apply dualSign_keeps | with_reducible apply Keeps.foldl
    | split | simp only [Keeps.mk_iff]

theorem startGenerate_keeps {fr : Frame} {s₀ : State} {j : Job} {s : State} (hK : Keeps fr s₀ s) :
    Keeps fr s₀ (startGenerate j s) := by
  unfold startGenerate; try dsimp only
  repeat' first
    | with_reducible assumption | intro _ | with_reducible apply decideJob_keeps
    | with_reducible apply drawBytes_keeps | with_reducible apply newSlot_keeps
    | with_reducible apply refuseJob_keeps | with_reducible apply Keeps.foldl | split

theorem execKeysGenerate_keeps {fr : Frame} {s₀ : State} {s : State} (hK : Keeps fr s₀ s) {t} (e : execKeysGenerate s = .next t) :
    Keeps fr s₀ t := by
  unfold execKeysGenerate at e
  obtain rfl := Host.Outcome.next.inj e
  try dsimp only
  repeat' first
    | with_reducible assumption | intro _ | with_reducible apply runJob_keeps
    | with_reducible apply startGenerate_keeps

theorem startImport_keeps {fr : Frame} {s₀ : State} {j : Job} {s : State} (hK : Keeps fr s₀ s) :
    Keeps fr s₀ (startImport j s) := by
  unfold startImport; try dsimp only
  repeat' first
    | with_reducible assumption | intro _ | with_reducible apply fetchJob_keeps
    | with_reducible apply refuseJob_keeps | with_reducible apply Keeps.foldl | split

theorem execKeysImport_keeps {fr : Frame} {s₀ : State} {s : State} (hK : Keeps fr s₀ s) {t} (e : execKeysImport s = .next t) :
    Keeps fr s₀ t := by
  unfold execKeysImport at e
  obtain rfl := Host.Outcome.next.inj e
  try dsimp only
  repeat' first
    | with_reducible assumption | intro _ | with_reducible apply runJob_keeps
    | with_reducible apply startImport_keeps

theorem createSlot_keeps {fr : Frame} {s₀ : State} {j : Job} {cu : Cu} {content : Bytes} {origin : Nat} {s : State} (hK : Keeps fr s₀ s) :
    Keeps fr s₀ (createSlot j cu content origin s) := by
  unfold createSlot; try dsimp only
  repeat' first
    | with_reducible assumption | intro _ | with_reducible apply decideJob_keeps
    | with_reducible apply newSlot_keeps | with_reducible apply refuseJob_keeps | with_reducible apply Keeps.foldl
    | split

theorem startExport_keeps {fr : Frame} {s₀ : State} {j : Job} {s : State} (hK : Keeps fr s₀ s) :
    Keeps fr s₀ (startExport j s) := by
  unfold startExport; try dsimp only
  repeat' first
    | with_reducible assumption | intro _ | with_reducible apply refuseJob_keeps
    | with_reducible apply storeJob_keeps | with_reducible apply Keeps.foldl | split

theorem execKeysExport_keeps {fr : Frame} {s₀ : State} {s : State} (hK : Keeps fr s₀ s) {t} (e : execKeysExport s = .next t) :
    Keeps fr s₀ t := by
  unfold execKeysExport at e
  obtain rfl := Host.Outcome.next.inj e
  try dsimp only
  repeat' first
    | with_reducible assumption | intro _ | with_reducible apply runJob_keeps
    | with_reducible apply startExport_keeps

theorem endDerive_keeps {fr : Frame} {s₀ : State} {j : Job} {ctx : Bytes} {s : State} (hK : Keeps fr s₀ s) :
    Keeps fr s₀ (endDerive j ctx s) := by
  unfold endDerive; try dsimp only
  repeat' first | with_reducible assumption | intro _ | with_reducible apply createSlot_keeps

theorem fetchCtx_keeps {fr : Frame} {s₀ : State} {j : Job} {s : State} (hK : Keeps fr s₀ s) :
    Keeps fr s₀ (fetchCtx j s) := by
  unfold fetchCtx; try dsimp only
  repeat' first
    | with_reducible assumption | intro _ | with_reducible apply endDerive_keeps
    | with_reducible apply fetchJob_keeps | with_reducible apply Keeps.foldl | split

theorem startDerive_keeps {fr : Frame} {s₀ : State} {j : Job} {s : State} (hK : Keeps fr s₀ s) :
    Keeps fr s₀ (startDerive j s) := by
  unfold startDerive; try dsimp only
  repeat' first
    | with_reducible assumption | intro _ | with_reducible apply fetchCtx_keeps
    | with_reducible apply refuseJob_keeps | with_reducible apply Keeps.foldl | split

theorem execKeysDerive_keeps {fr : Frame} {s₀ : State} {s : State} (hK : Keeps fr s₀ s) {t} (e : execKeysDerive s = .next t) :
    Keeps fr s₀ t := by
  unfold execKeysDerive at e
  obtain rfl := Host.Outcome.next.inj e
  try dsimp only
  repeat' first
    | with_reducible assumption | intro _ | with_reducible apply runJob_keeps
    | with_reducible apply startDerive_keeps

theorem startSealDerive_keeps {fr : Frame} {s₀ : State} {j : Job} {s : State} (hK : Keeps fr s₀ s) :
    Keeps fr s₀ (startSealDerive j s) := by
  unfold startSealDerive; try dsimp only
  repeat' first
    | with_reducible assumption | intro _ | with_reducible apply fetchCtx_keeps
    | with_reducible apply refuseJob_keeps | with_reducible apply Keeps.foldl | split

theorem execKeysSealDerive_keeps {fr : Frame} {s₀ : State} {s : State} (hK : Keeps fr s₀ s) {t} (e : execKeysSealDerive s = .next t) :
    Keeps fr s₀ t := by
  unfold execKeysSealDerive at e
  obtain rfl := Host.Outcome.next.inj e
  try dsimp only
  repeat' first
    | with_reducible assumption | intro _ | with_reducible apply runJob_keeps
    | with_reducible apply startSealDerive_keeps

theorem startInstallerDerive_keeps {fr : Frame} {s₀ : State} {j : Job} {s : State} (hK : Keeps fr s₀ s) :
    Keeps fr s₀ (startInstallerDerive j s) := by
  unfold startInstallerDerive; try dsimp only
  repeat' first
    | with_reducible assumption | intro _ | with_reducible apply fetchCtx_keeps
    | with_reducible apply refuseJob_keeps | with_reducible apply Keeps.foldl | split

theorem execKeysInstallerDerive_keeps {fr : Frame} {s₀ : State} {s : State} (hK : Keeps fr s₀ s) {t} (e : execKeysInstallerDerive s = .next t) :
    Keeps fr s₀ t := by
  unfold execKeysInstallerDerive at e
  obtain rfl := Host.Outcome.next.inj e
  try dsimp only
  repeat' first
    | with_reducible assumption | intro _ | with_reducible apply runJob_keeps
    | with_reducible apply startInstallerDerive_keeps

theorem startFree_keeps {fr : Frame} {s₀ : State} {j : Job} {s : State} (hK : Keeps fr s₀ s) :
    Keeps fr s₀ (startFree j s) := by
  unfold startFree; try dsimp only
  repeat' first
    | with_reducible assumption | intro _ | with_reducible apply decideJob_keeps
    | with_reducible apply refuseJob_keeps | with_reducible apply releaseSlot_keeps
    | with_reducible apply Keeps.foldl | split

theorem execKeysFree_keeps {fr : Frame} {s₀ : State} {s : State} (hK : Keeps fr s₀ s) {t} (e : execKeysFree s = .next t) :
    Keeps fr s₀ t := by
  unfold execKeysFree at e
  obtain rfl := Host.Outcome.next.inj e
  try dsimp only
  repeat' first
    | with_reducible assumption | intro _ | with_reducible apply runJob_keeps
    | with_reducible apply startFree_keeps

theorem startInfo_keeps {fr : Frame} {s₀ : State} {j : Job} {s : State} (hK : Keeps fr s₀ s) :
    Keeps fr s₀ (startInfo j s) := by
  unfold startInfo; try dsimp only
  repeat' first
    | with_reducible assumption | intro _ | with_reducible apply decideJob_keeps
    | with_reducible apply refuseJob_keeps | with_reducible apply Keeps.foldl | split

theorem execKeysInfo_keeps {fr : Frame} {s₀ : State} {s : State} (hK : Keeps fr s₀ s) {t} (e : execKeysInfo s = .next t) :
    Keeps fr s₀ t := by
  unfold execKeysInfo at e
  obtain rfl := Host.Outcome.next.inj e
  try dsimp only
  repeat' first
    | with_reducible assumption | intro _ | with_reducible apply runJob_keeps
    | with_reducible apply startInfo_keeps

theorem startCertRead_keeps {fr : Frame} {s₀ : State} {j : Job} {s : State} (hK : Keeps fr s₀ s) :
    Keeps fr s₀ (startCertRead j s) := by
  unfold startCertRead; try dsimp only
  repeat' first
    | with_reducible assumption | intro _ | with_reducible apply refuseJob_keeps
    | with_reducible apply storeJob_keeps | with_reducible apply Keeps.foldl | split

theorem execKeysCertRead_keeps {fr : Frame} {s₀ : State} {s : State} (hK : Keeps fr s₀ s) {t} (e : execKeysCertRead s = .next t) :
    Keeps fr s₀ t := by
  unfold execKeysCertRead at e
  obtain rfl := Host.Outcome.next.inj e
  try dsimp only
  repeat' first
    | with_reducible assumption | intro _ | with_reducible apply runJob_keeps
    | with_reducible apply startCertRead_keeps

theorem startRootProvision_keeps {fr : Frame} {s₀ : State} {j : Job} {s : State} (hK : Keeps fr s₀ s) :
    Keeps fr s₀ (startRootProvision j s) := by
  unfold startRootProvision; try dsimp only
  repeat' first
    | with_reducible assumption | intro _ | with_reducible apply drawBytes_keeps
    | with_reducible apply queueBurn_keeps | with_reducible apply refuseJob_keeps
    | with_reducible apply Keeps.foldl | split

theorem endRootProvision_keeps {fr : Frame} {s₀ : State} {j : Job} {e : BurnEnd} {s : State} (hK : Keeps fr s₀ s) :
    Keeps fr s₀ (endRootProvision j e s) := by
  unfold endRootProvision; try dsimp only
  repeat' first
    | with_reducible assumption | intro _ | with_reducible apply deriveFixed_keeps
    | with_reducible apply failJob_keeps | with_reducible apply issueCert_keeps
    | with_reducible apply refreshRegion_keeps | with_reducible apply refuseJob_keeps
    | with_reducible apply storeJob_keeps | with_reducible apply Keeps.foldl | split | simp only [Keeps.mk_iff]

end Sys2Proof.Machine
end

