-- ==== Sys2Proof/Laws/KeepsUnits.lean ====
section
/-! SUPPORT. What the links, DIG, PKE, the flash, the life cycle, the mailboxes, the swap and the beat keep:
the queue, every burned fuse bit and soundness (Laws/Keeps.lean). -/

namespace Sys2Proof.Machine

/-! ## Links -/

theorem zeroSlot_keeps {fr : Frame} {s₀ : State} {i : Nat} {s : State} (hK : Keeps fr s₀ s) :
    Keeps fr s₀ (zeroSlot i s) := by
  unfold zeroSlot; try dsimp only
  repeat' first | with_reducible assumption | intro _ | with_reducible apply State.modSlot_keeps

theorem kdSend_keeps {fr : Frame} {s₀ : State} {k : Port} {m : KdMsg} {s : State} (hK : Keeps fr s₀ s) :
    Keeps fr s₀ (kdSend k m s) := by
  unfold kdSend; try dsimp only
  repeat' first
    | with_reducible assumption | intro _ | with_reducible apply emit_keeps
    | with_reducible apply State.modLink_keeps | with_reducible apply Keeps.foldl | split

theorem kdNext_keeps {fr : Frame} {s₀ : State} {k : Port} {s : State} (hK : Keeps fr s₀ s) :
    Keeps fr s₀ (kdNext k s) := by
  unfold kdNext; try dsimp only
  repeat' first
    | with_reducible assumption | intro _ | with_reducible apply emit_keeps
    | with_reducible apply State.modLink_keeps | with_reducible apply Keeps.foldl | split

theorem clearPort_keeps {fr : Frame} {s₀ : State} {k : Port} {s : State} (hK : Keeps fr s₀ s) :
    Keeps fr s₀ (clearPort k s) := by
  unfold clearPort; try dsimp only
  repeat' first
    | with_reducible assumption | intro _ | with_reducible apply kdSend_keeps
    | with_reducible apply State.modLink_keeps | with_reducible apply zeroSlot_keeps

theorem kdGiveUp_keeps {fr : Frame} {s₀ : State} {k : Port} {s : State} (hK : Keeps fr s₀ s) :
    Keeps fr s₀ (kdGiveUp k s) := by
  unfold kdGiveUp; try dsimp only
  repeat' first
    | with_reducible assumption | intro _ | with_reducible apply clearPort_keeps | with_reducible apply emit_keeps
    | with_reducible apply State.modLink_keeps | with_reducible apply raiseCore_keeps
    | with_reducible apply record_keeps | with_reducible apply Keeps.foldl | split

theorem kdFail_keeps {fr : Frame} {s₀ : State} {k : Port} {s : State} (hK : Keeps fr s₀ s) :
    Keeps fr s₀ (kdFail k s) := by
  unfold kdFail; try dsimp only
  repeat' first
    | with_reducible assumption | intro _ | with_reducible apply emit_keeps | with_reducible apply kdGiveUp_keeps
    | with_reducible apply State.modLink_keeps | with_reducible apply Keeps.foldl | split

theorem execKdNack_keeps {fr : Frame} {s₀ : State} {k : Port} {s : State} (hK : Keeps fr s₀ s) {t} (e : execKdNack k s = .next t) :
    Keeps fr s₀ t := by
  unfold execKdNack at e; try dsimp only at e
  (repeat' split at e) <;> first | contradiction | (cases e)
  all_goals
    repeat' first | with_reducible assumption | intro _ | with_reducible apply kdFail_keeps

theorem execKdAckTimeout_keeps {fr : Frame} {s₀ : State} {k : Port} {s : State} (hK : Keeps fr s₀ s) {t} (e : execKdAckTimeout k s = .next t) :
    Keeps fr s₀ t := by
  unfold execKdAckTimeout at e
  obtain rfl := Host.Outcome.next.inj e
  try dsimp only
  repeat' first
    | with_reducible assumption | intro _ | with_reducible apply kdFail_keeps | with_reducible apply Keeps.foldl
    | split | simp only [Keeps.mk_iff]

theorem installKeys_keeps {fr : Frame} {s₀ : State} {k : Port} {b : Word} {e : Nat} {s : State} (hK : Keeps fr s₀ s) :
    Keeps fr s₀ (installKeys k b e s) := by
  unfold installKeys; try dsimp only
  repeat' first
    | with_reducible assumption | intro _ | with_reducible apply kdSend_keeps
    | with_reducible apply State.modLink_keeps

theorem reinstallLinks_keeps {fr : Frame} {s₀ : State} {s : State} (hK : Keeps fr s₀ s) :
    Keeps fr s₀ (reinstallLinks s) := by
  unfold reinstallLinks; try dsimp only
  repeat' first
    | with_reducible assumption | intro _ | with_reducible apply installKeys_keeps
    | with_reducible apply Keeps.foldl | split

theorem linkKeyInstall_keeps {fr : Frame} {s₀ : State} {k : Port} {s : State} (hK : Keeps fr s₀ s) :
    Keeps fr s₀ (linkKeyInstall k s) := by
  unfold linkKeyInstall; try dsimp only
  repeat' first
    | with_reducible assumption | intro _ | with_reducible apply clearPort_keeps
    | with_reducible apply installKeys_keeps | with_reducible apply State.modLink_keeps
    | with_reducible apply Keeps.foldl | split

theorem execLinkKeyInstall_keeps {fr : Frame} {s₀ : State} {k : Port} {s : State} (hK : Keeps fr s₀ s) {t} (e : execLinkKeyInstall k s = .next t) :
    Keeps fr s₀ t := by
  unfold execLinkKeyInstall at e
  obtain rfl := Host.Outcome.next.inj e
  try dsimp only
  repeat' first | with_reducible assumption | intro _ | with_reducible apply linkKeyInstall_keeps

theorem sendFrame_keeps {fr : Frame} {s₀ : State} {k : Port} {frame : Bytes} {s : State} (hK : Keeps fr s₀ s) :
    Keeps fr s₀ (sendFrame k frame s) := by
  unfold sendFrame; try dsimp only
  repeat' first | with_reducible assumption | intro _ | with_reducible apply issue_keeps

theorem ringDoorbell_keeps {fr : Frame} {s₀ : State} {k : Port} {len : Nat} {s : State} (hK : Keeps fr s₀ s) :
    Keeps fr s₀ (ringDoorbell k len s) := by
  unfold ringDoorbell; try dsimp only
  repeat' first | with_reducible assumption | intro _ | with_reducible apply issue_keeps

theorem sendHello_keeps {fr : Frame} {s₀ : State} {k : Port} {s : State} (hK : Keeps fr s₀ s) :
    Keeps fr s₀ (sendHello k s) := by
  unfold sendHello; try dsimp only
  repeat' first
    | with_reducible assumption | intro _ | with_reducible apply drawBytes_keeps
    | with_reducible apply State.modLink_keeps | with_reducible apply sendFrame_keeps
    | with_reducible apply setInternal_keeps

theorem failExchange_keeps {fr : Frame} {s₀ : State} {k : Port} {s : State} (hK : Keeps fr s₀ s) :
    Keeps fr s₀ (failExchange k s) := by
  unfold failExchange; try dsimp only
  repeat' first
    | with_reducible assumption | intro _ | with_reducible apply hwNote_keeps
    | with_reducible apply State.modLink_keeps | with_reducible apply raiseCore_keeps
    | with_reducible apply record_keeps | with_reducible apply zeroSlot_keeps | with_reducible apply Keeps.foldl
    | split

theorem rejectFrame_keeps {fr : Frame} {s₀ : State} {k : Port} {reason : Nat} {s : State} (hK : Keeps fr s₀ s) :
    Keeps fr s₀ (rejectFrame k reason s) := by
  unfold rejectFrame; try dsimp only
  repeat' first
    | with_reducible assumption | intro _ | with_reducible apply failExchange_keeps
    | with_reducible apply sendFrame_keeps

theorem sendReply_keeps {fr : Frame} {s₀ : State} {k : Port} {hello : Bytes} {s : State} (hK : Keeps fr s₀ s) :
    Keeps fr s₀ (sendReply k hello s) := by
  unfold sendReply; try dsimp only
  repeat' first
    | with_reducible assumption | intro _ | with_reducible apply drawBytes_keeps
    | with_reducible apply dualSign_keeps | with_reducible apply State.modLink_keeps
    | with_reducible apply sendFrame_keeps

theorem finishExchange_keeps {fr : Frame} {s₀ : State} {k : Port} {ss h2 : Bytes} {b0 : Word} {s : State} (hK : Keeps fr s₀ s) :
    Keeps fr s₀ (finishExchange k ss h2 b0 s) := by
  unfold finishExchange; try dsimp only
  repeat' first
    | with_reducible assumption | intro _ | with_reducible apply installKeys_keeps
    | with_reducible apply State.modLink_keeps | with_reducible apply setInternal_keeps
    | with_reducible apply zeroSlot_keeps

theorem sendFinish_keeps {fr : Frame} {s₀ : State} {k : Port} {x : Exchange} {reply : Bytes} {s : State} (hK : Keeps fr s₀ s) :
    Keeps fr s₀ (sendFinish k x reply s) := by
  unfold sendFinish; try dsimp only
  repeat' first
    | with_reducible assumption | intro _ | with_reducible apply dualSign_keeps
    | with_reducible apply finishExchange_keeps | with_reducible apply State.modLink_keeps
    | with_reducible apply sendFrame_keeps

theorem onHello_keeps {fr : Frame} {s₀ : State} {k : Port} {f : Bytes} {s : State} (hK : Keeps fr s₀ s) :
    Keeps fr s₀ (onHello k f s) := by
  unfold onHello; try dsimp only
  repeat' first
    | with_reducible assumption | intro _ | with_reducible apply failExchange_keeps
    | with_reducible apply State.modLink_keeps | with_reducible apply rejectFrame_keeps
    | with_reducible apply sendFrame_keeps | with_reducible apply sendReply_keeps
    | with_reducible apply Keeps.foldl | split

theorem onReply_keeps {fr : Frame} {s₀ : State} {k : Port} {f : Bytes} {s : State} (hK : Keeps fr s₀ s) :
    Keeps fr s₀ (onReply k f s) := by
  unfold onReply; try dsimp only
  repeat' first
    | with_reducible assumption | intro _ | with_reducible apply rejectFrame_keeps
    | with_reducible apply sendFinish_keeps | with_reducible apply Keeps.foldl | split

theorem onFinish_keeps {fr : Frame} {s₀ : State} {k : Port} {f : Bytes} {s : State} (hK : Keeps fr s₀ s) :
    Keeps fr s₀ (onFinish k f s) := by
  unfold onFinish; try dsimp only
  repeat' first
    | with_reducible assumption | intro _ | with_reducible apply finishExchange_keeps
    | with_reducible apply rejectFrame_keeps | with_reducible apply Keeps.foldl | split

theorem onReject_keeps {fr : Frame} {s₀ : State} {k : Port} {u1 : Bytes} {s : State} (hK : Keeps fr s₀ s) :
    Keeps fr s₀ (onReject k u1 s) := by
  unfold onReject; try dsimp only
  repeat' first
    | with_reducible assumption | intro _ | with_reducible apply failExchange_keeps
    | with_reducible apply Keeps.foldl | split

theorem onFrame_keeps {fr : Frame} {s₀ : State} {type : Nat} {k : Port} {go : Port → Bytes → State → State} {s : State} (hgo : ∀ y0 y1 y2, Keeps fr s₀ y2 → Keeps fr s₀ (go y0 y1 y2)) (hK : Keeps fr s₀ s) :
    Keeps fr s₀ (onFrame type k go s) := by
  unfold onFrame; try dsimp only
  repeat' first
    | with_reducible assumption | intro _ | with_reducible apply hgo | with_reducible apply State.modLink_keeps
    | with_reducible apply Keeps.foldl | split

theorem execLinkHello_keeps {fr : Frame} {s₀ : State} {k : Port} {s : State} (hK : Keeps fr s₀ s) {t} (e : execLinkHello k s = .next t) :
    Keeps fr s₀ t := by
  unfold execLinkHello at e
  obtain rfl := Host.Outcome.next.inj e
  try dsimp only
  repeat' first
    | with_reducible assumption | intro _ | with_reducible apply onFrame_keeps
    | with_reducible apply onHello_keeps

theorem execLinkReply_keeps {fr : Frame} {s₀ : State} {k : Port} {s : State} (hK : Keeps fr s₀ s) {t} (e : execLinkReply k s = .next t) :
    Keeps fr s₀ t := by
  unfold execLinkReply at e
  obtain rfl := Host.Outcome.next.inj e
  try dsimp only
  repeat' first
    | with_reducible assumption | intro _ | with_reducible apply onFrame_keeps
    | with_reducible apply onReply_keeps

theorem execLinkFinish_keeps {fr : Frame} {s₀ : State} {k : Port} {s : State} (hK : Keeps fr s₀ s) {t} (e : execLinkFinish k s = .next t) :
    Keeps fr s₀ t := by
  unfold execLinkFinish at e
  obtain rfl := Host.Outcome.next.inj e
  try dsimp only
  repeat' first
    | with_reducible assumption | intro _ | with_reducible apply onFinish_keeps
    | with_reducible apply onFrame_keeps

theorem execLinkReject_keeps {fr : Frame} {s₀ : State} {k : Port} {s : State} (hK : Keeps fr s₀ s) {t} (e : execLinkReject k s = .next t) :
    Keeps fr s₀ t := by
  unfold execLinkReject at e
  obtain rfl := Host.Outcome.next.inj e
  try dsimp only
  repeat' first
    | with_reducible assumption | intro _ | with_reducible apply onFrame_keeps
    | with_reducible apply onReject_keeps

theorem execLinkHelloTimer_keeps {fr : Frame} {s₀ : State} {k : Port} {s : State} (hK : Keeps fr s₀ s) {t} (e : execLinkHelloTimer k s = .next t) :
    Keeps fr s₀ t := by
  unfold execLinkHelloTimer at e
  obtain rfl := Host.Outcome.next.inj e
  try dsimp only
  repeat' first
    | with_reducible assumption | intro _ | with_reducible apply sendHello_keeps
    | with_reducible apply Keeps.foldl | split

theorem execLinkExchangeTimeout_keeps {fr : Frame} {s₀ : State} {k : Port} {s : State} (hK : Keeps fr s₀ s) {t} (e : execLinkExchangeTimeout k s = .next t) :
    Keeps fr s₀ t := by
  unfold execLinkExchangeTimeout at e
  obtain rfl := Host.Outcome.next.inj e
  try dsimp only
  repeat' first
    | with_reducible assumption | intro _ | with_reducible apply failExchange_keeps
    | with_reducible apply Keeps.foldl | split

theorem linkKeySwitch_keeps {fr : Frame} {s₀ : State} {k : Port} {s : State} (hK : Keeps fr s₀ s) :
    Keeps fr s₀ (linkKeySwitch k s) := by
  unfold linkKeySwitch; try dsimp only
  repeat' first
    | with_reducible assumption | intro _ | with_reducible apply clearPort_keeps
    | with_reducible apply State.modLink_keeps | with_reducible apply sendHello_keeps
    | with_reducible apply Keeps.foldl | split

theorem execLinkKeySwitch_keeps {fr : Frame} {s₀ : State} {k : Port} {s : State} (hK : Keeps fr s₀ s) {t} (e : execLinkKeySwitch k s = .next t) :
    Keeps fr s₀ t := by
  unfold execLinkKeySwitch at e
  obtain rfl := Host.Outcome.next.inj e
  try dsimp only
  repeat' first | with_reducible assumption | intro _ | with_reducible apply linkKeySwitch_keeps

theorem linkDoorbellWrite_keeps {fr : Frame} {s₀ : State} {data : Word} {s : State} (hK : Keeps fr s₀ s) :
    Keeps fr s₀ (linkDoorbellWrite data s) := by
  unfold linkDoorbellWrite; try dsimp only
  repeat' first
    | with_reducible assumption | intro _ | with_reducible apply issue_keeps
    | with_reducible apply State.modLink_keeps | with_reducible apply record_keeps
    | with_reducible apply Keeps.foldl | split

theorem frameRead_keeps {fr : Frame} {s₀ : State} {k : Port} {data : Bytes} {s : State} (hK : Keeps fr s₀ s) :
    Keeps fr s₀ (frameRead k data s) := by
  unfold frameRead; try dsimp only
  repeat' first
    | with_reducible assumption | intro _ | with_reducible apply State.modLink_keeps
    | with_reducible apply record_keeps | with_reducible apply Keeps.foldl | split

theorem restartLink_keeps {fr : Frame} {s₀ : State} {k : Port} {s : State} (hK : Keeps fr s₀ s) :
    Keeps fr s₀ (restartLink k s) := by
  unfold restartLink; try dsimp only
  repeat' first
    | with_reducible assumption | intro _ | with_reducible apply State.modLink_keeps
    | with_reducible apply sendHello_keeps | with_reducible apply zeroSlot_keeps
    | with_reducible apply Keeps.foldl | split

theorem startLinkRestart_keeps {fr : Frame} {s₀ : State} {j : Job} {s : State} (hK : Keeps fr s₀ s) :
    Keeps fr s₀ (startLinkRestart j s) := by
  unfold startLinkRestart; try dsimp only
  repeat' first
    | with_reducible assumption | intro _ | with_reducible apply decideJob_keeps
    | with_reducible apply refuseJob_keeps | with_reducible apply restartLink_keeps
    | with_reducible apply Keeps.foldl | split

theorem execKeysLinkRestart_keeps {fr : Frame} {s₀ : State} {s : State} (hK : Keeps fr s₀ s) {t} (e : execKeysLinkRestart s = .next t) :
    Keeps fr s₀ t := by
  unfold execKeysLinkRestart at e
  obtain rfl := Host.Outcome.next.inj e
  try dsimp only
  repeat' first
    | with_reducible assumption | intro _ | with_reducible apply runJob_keeps
    | with_reducible apply startLinkRestart_keeps

theorem restartExchanges_keeps {fr : Frame} {s₀ : State} {s : State} (hK : Keeps fr s₀ s) :
    Keeps fr s₀ (restartExchanges s) := by
  unfold restartExchanges; try dsimp only
  repeat' first
    | with_reducible assumption | intro _ | with_reducible apply State.modLink_keeps
    | with_reducible apply sendHello_keeps | with_reducible apply zeroSlot_keeps
    | with_reducible apply Keeps.foldl | split

theorem freshLinks_keeps {fr : Frame} {s₀ : State} {s : State} (hK : Keeps fr s₀ s) : Keeps fr s₀ (freshLinks s) := by
  unfold freshLinks; try dsimp only
  repeat' first
    | with_reducible assumption | intro _ | with_reducible apply Keeps.foldl | split | simp only [Keeps.mk_iff]

/-! ## Dig -/

theorem failMsg_keeps {fr : Frame} {s₀ : State} {i : Fin 272} {st : Status} {s : State} (hK : Keeps fr s₀ s) :
    Keeps fr s₀ (failMsg i st s) := by
  unfold failMsg; try dsimp only
  repeat' first | with_reducible assumption | intro _ | with_reducible apply State.modMsg_keeps

theorem freeMsg_keeps {fr : Frame} {s₀ : State} {i : Fin 272} {s : State} (hK : Keeps fr s₀ s) :
    Keeps fr s₀ (freeMsg i s) := by
  unfold freeMsg; try dsimp only
  repeat' first | with_reducible assumption | intro _ | with_reducible apply State.modMsg_keeps

theorem appendBytes_keeps {fr : Frame} {s₀ : State} {i : Fin 272} {bs : Bytes} {s : State} (hK : Keeps fr s₀ s) :
    Keeps fr s₀ (appendBytes i bs s) := by
  unfold appendBytes; try dsimp only
  repeat' first | with_reducible assumption | intro _ | with_reducible apply State.modMsg_keeps

theorem wrapMsg_keeps {fr : Frame} {s₀ : State} {m : Msg} {s : State} (hK : Keeps fr s₀ s) :
    Keeps fr s₀ (wrapMsg m s).2 := by
  unfold wrapMsg; try dsimp only
  repeat' first
    | with_reducible assumption | intro _ | with_reducible apply drawBytes_keeps
    | with_reducible apply Keeps.foldl | split | simp only [Keeps.mk_iff]

theorem touchMsg_keeps {fr : Frame} {s₀ : State} {i : Fin 272} {s : State} (hK : Keeps fr s₀ s) :
    Keeps fr s₀ (touchMsg i s) := by
  unfold touchMsg; try dsimp only
  repeat' first
    | with_reducible assumption | intro _ | with_reducible apply State.modMsg_keeps
    | with_reducible apply Keeps.foldl | split | simp only [Keeps.mk_iff]

theorem spillMsg_keeps {fr : Frame} {s₀ : State} {i : Fin 272} {s : State} (hK : Keeps fr s₀ s) :
    Keeps fr s₀ (spillMsg i s) := by
  unfold spillMsg; try dsimp only
  repeat' first
    | with_reducible assumption | intro _ | with_reducible apply issue_keeps | with_reducible apply wrapMsg_keeps

theorem fillMsg_keeps {fr : Frame} {s₀ : State} {i : Fin 272} {s : State} (hK : Keeps fr s₀ s) :
    Keeps fr s₀ (fillMsg i s) := by
  unfold fillMsg; try dsimp only
  repeat' first | with_reducible assumption | intro _ | with_reducible apply issue_keeps

theorem releasePipe_keeps {fr : Frame} {s₀ : State} {id : Nat} {s : State} (hK : Keeps fr s₀ s) :
    Keeps fr s₀ (releasePipe id s) := by
  unfold releasePipe; try dsimp only
  repeat' first
    | with_reducible assumption | intro _ | with_reducible apply Keeps.foldl | split | simp only [Keeps.mk_iff]

theorem endDig_keeps {fr : Frame} {s₀ : State} {j : Job} {st : Status} {ws : Words} {s : State} (hK : Keeps fr s₀ s) :
    Keeps fr s₀ (endDig j st ws s) := by
  unfold endDig; try dsimp only
  repeat' first
    | with_reducible assumption | intro _ | with_reducible apply decideJob_keeps
    | with_reducible apply State.modMsg_keeps | with_reducible apply releasePipe_keeps
    | with_reducible apply Keeps.foldl | split

theorem newMsg_keeps {fr : Frame} {s₀ : State} {m : Msg} {s : State} (hK : Keeps fr s₀ s) :
    Keeps fr s₀ (newMsg m s).2 := by
  unfold newMsg; try dsimp only
  repeat' first
    | with_reducible assumption | intro _ | with_reducible apply State.modMsg_keeps
    | with_reducible apply touchMsg_keeps | with_reducible apply Keeps.foldl | split

theorem endOpen_keeps {fr : Frame} {s₀ : State} {j : Job} {s : State} (hK : Keeps fr s₀ s) :
    Keeps fr s₀ (endOpen j s) := by
  unfold endOpen; try dsimp only
  repeat' first
    | with_reducible assumption | intro _ | with_reducible apply endDig_keeps | with_reducible apply newMsg_keeps

theorem endFinal_keeps {fr : Frame} {s₀ : State} {j : Job} {i : Fin 272} {s : State} (hK : Keeps fr s₀ s) :
    Keeps fr s₀ (endFinal j i s) := by
  unfold endFinal; try dsimp only
  repeat' first
    | with_reducible assumption | intro _ | with_reducible apply decideJob_keeps
    | with_reducible apply freeMsg_keeps | with_reducible apply State.modMsg_keeps
    | with_reducible apply newSlot_keeps | with_reducible apply refuseJob_keeps
    | with_reducible apply releasePipe_keeps | with_reducible apply storeJob_keeps
    | with_reducible apply Keeps.foldl | split

theorem nextBlock_keeps {fr : Frame} {s₀ : State} {j : Job} {s : State} (hK : Keeps fr s₀ s) :
    Keeps fr s₀ (nextBlock j s) := by
  unfold nextBlock; try dsimp only
  repeat' first
    | with_reducible assumption | intro _ | with_reducible apply setJob_keeps
    | with_reducible apply submitUnit_keeps | with_reducible apply Keeps.foldl | split

theorem absorbStep_keeps {fr : Frame} {s₀ : State} {j : Job} {i : Fin 272} {s : State} (hK : Keeps fr s₀ s) :
    Keeps fr s₀ (absorbStep j i s) := by
  unfold absorbStep; try dsimp only
  repeat' first
    | with_reducible assumption | intro _ | with_reducible apply appendBytes_keeps
    | with_reducible apply endDig_keeps | with_reducible apply nextBlock_keeps | with_reducible apply Keeps.foldl
    | split

theorem absorbInput_keeps {fr : Frame} {s₀ : State} {j : Job} {b : Bytes} {s : State} (hK : Keeps fr s₀ s) :
    Keeps fr s₀ (absorbInput j b s) := by
  unfold absorbInput; try dsimp only
  repeat' first
    | with_reducible assumption | intro _ | with_reducible apply absorbStep_keeps
    | with_reducible apply endDig_keeps | with_reducible apply State.modMsg_keeps
    | with_reducible apply setJob_keeps | with_reducible apply Keeps.foldl | split

theorem digGo_keeps {fr : Frame} {s₀ : State} {j : Job} {s : State} (hK : Keeps fr s₀ s) :
    Keeps fr s₀ (digGo j s) := by
  unfold digGo; try dsimp only
  repeat' first
    | with_reducible assumption | intro _ | with_reducible apply absorbStep_keeps
    | with_reducible apply endDig_keeps | with_reducible apply endOpen_keeps | with_reducible apply fetchJob_keeps
    | with_reducible apply State.modMsg_keeps | with_reducible apply newMsg_keeps
    | with_reducible apply setJob_keeps | with_reducible apply storeJob_keeps
    | with_reducible apply submitUnit_keeps | with_reducible apply touchMsg_keeps
    | with_reducible apply wrapMsg_keeps | with_reducible apply Keeps.foldl | split

theorem drainWords_keeps {fr : Frame} {s₀ : State} {d : Drain} {n : Nat} {s : State} (h : Keeps fr s₀ s) :
    Keeps fr s₀ (drainWords d n s) := by
  induction n generalizing d s with
  | zero => exact h
  | succ n ih =>
    unfold drainWords; try dsimp only
    repeat' first
      | with_reducible assumption | apply ih | with_reducible apply appendBytes_keeps
      | with_reducible apply failMsg_keeps | with_reducible apply State.modSeat_keeps
      | with_reducible apply State.modMsg_keeps | with_reducible apply submitUnit_keeps | split
      | simp only [Keeps.mk_iff]

theorem drainGo_keeps {fr : Frame} {s₀ : State} {d : Drain} {s : State} (hK : Keeps fr s₀ s) :
    Keeps fr s₀ (drainGo d s) := by
  unfold drainGo; try dsimp only
  repeat' first
    | with_reducible assumption | intro _ | with_reducible apply drainWords_keeps
    | with_reducible apply State.modMsg_keeps | with_reducible apply touchMsg_keeps
    | with_reducible apply Keeps.foldl | split | simp only [Keeps.mk_iff]

theorem wantContext_keeps {fr : Frame} {s₀ : State} {i : Option (Fin 272)} {go : State → State} {s : State} (hgo : ∀ y0, Keeps fr s₀ y0 → Keeps fr s₀ (go y0)) (hK : Keeps fr s₀ s) :
    Keeps fr s₀ (wantContext i go s) := by
  unfold wantContext; try dsimp only
  repeat' first
    | with_reducible assumption | intro _ | with_reducible apply hgo | with_reducible apply fillMsg_keeps
    | with_reducible apply spillMsg_keeps | with_reducible apply Keeps.foldl | split

theorem pumpContexts_keeps {fr : Frame} {s₀ : State} {s : State} (hK : Keeps fr s₀ s) :
    Keeps fr s₀ (pumpContexts s) := by
  unfold pumpContexts; try dsimp only
  repeat' first
    | with_reducible assumption | intro _ | with_reducible apply digGo_keeps | with_reducible apply drainGo_keeps
    | with_reducible apply wantContext_keeps | with_reducible apply Keeps.foldl

theorem digContext_keeps {fr : Frame} {s₀ : State} {j : Job} {s : State} (hK : Keeps fr s₀ s) :
    Keeps fr s₀ (digContext j s) := by
  unfold digContext; try dsimp only
  repeat' first
    | with_reducible assumption | intro _ | with_reducible apply pumpContexts_keeps
    | with_reducible apply setJob_keeps

theorem settleKey_keeps {fr : Frame} {s₀ : State} {j : Job} {s : State} (hK : Keeps fr s₀ s) :
    Keeps fr s₀ (settleKey j s) := by
  unfold settleKey; try dsimp only
  repeat' first
    | with_reducible assumption | intro _ | with_reducible apply failMsg_keeps | with_reducible apply Keeps.foldl
    | split

theorem endCompare_keeps {fr : Frame} {s₀ : State} {j : Job} {expected : Bytes} {s : State} (hK : Keeps fr s₀ s) :
    Keeps fr s₀ (endCompare j expected s) := by
  unfold endCompare; try dsimp only
  repeat' first
    | with_reducible assumption | intro _ | with_reducible apply decideJob_keeps
    | with_reducible apply endDig_keeps | with_reducible apply freeMsg_keeps
    | with_reducible apply releasePipe_keeps | with_reducible apply Keeps.foldl | split

theorem startDig_keeps {fr : Frame} {s₀ : State} {j : Job} {s : State} (hK : Keeps fr s₀ s) :
    Keeps fr s₀ (startDig j s) := by
  unfold startDig; try dsimp only
  repeat' first
    | with_reducible assumption | intro _ | with_reducible apply decideJob_keeps
    | with_reducible apply digContext_keeps | with_reducible apply endCompare_keeps
    | with_reducible apply failJob_keeps | with_reducible apply fetchJob_keeps
    | with_reducible apply freeMsg_keeps | with_reducible apply refuseJob_keeps
    | with_reducible apply settleKey_keeps | with_reducible apply Keeps.foldl | split | simp only [Keeps.mk_iff]

theorem digInput_keeps {fr : Frame} {s₀ : State} {j : Job} {b : Bytes} {s : State} (hK : Keeps fr s₀ s) :
    Keeps fr s₀ (digInput j b s) := by
  unfold digInput; try dsimp only
  repeat' first
    | with_reducible assumption | intro _ | with_reducible apply absorbInput_keeps
    | with_reducible apply digContext_keeps | with_reducible apply endCompare_keeps
    | with_reducible apply endDig_keeps | with_reducible apply refuseJob_keeps
    | with_reducible apply releasePipe_keeps | with_reducible apply Keeps.foldl | split

theorem saveStored_keeps {fr : Frame} {s₀ : State} {j : Job} {s : State} (hK : Keeps fr s₀ s) :
    Keeps fr s₀ (saveStored j s) := by
  unfold saveStored; try dsimp only
  repeat' first
    | with_reducible assumption | intro _ | with_reducible apply decideJob_keeps
    | with_reducible apply endDig_keeps | with_reducible apply freeMsg_keeps
    | with_reducible apply releasePipe_keeps | with_reducible apply Keeps.foldl | split | simp only [Keeps.mk_iff]

theorem runDig_keeps {fr : Frame} {s₀ : State} {o : Op} {s : State} (hK : Keeps fr s₀ s) :
    Keeps fr s₀ (runDig o s) := by
  unfold runDig; try dsimp only
  repeat' first
    | with_reducible assumption | intro _ | with_reducible apply digContext_keeps
    | with_reducible apply startDig_keeps | with_reducible apply startEntry_keeps
    | with_reducible apply Keeps.foldl | split | simp only [Keeps.mk_iff]

theorem execDigOpen_keeps {fr : Frame} {s₀ : State} {s : State} (hK : Keeps fr s₀ s) {t} (e : execDigOpen s = .next t) :
    Keeps fr s₀ t := by
  unfold execDigOpen at e
  obtain rfl := Host.Outcome.next.inj e
  try dsimp only
  repeat' first | with_reducible assumption | intro _ | with_reducible apply runDig_keeps

theorem execDigAbsorb_keeps {fr : Frame} {s₀ : State} {s : State} (hK : Keeps fr s₀ s) {t} (e : execDigAbsorb s = .next t) :
    Keeps fr s₀ t := by
  unfold execDigAbsorb at e
  obtain rfl := Host.Outcome.next.inj e
  try dsimp only
  repeat' first | with_reducible assumption | intro _ | with_reducible apply runDig_keeps

theorem execDigFinal_keeps {fr : Frame} {s₀ : State} {s : State} (hK : Keeps fr s₀ s) {t} (e : execDigFinal s = .next t) :
    Keeps fr s₀ t := by
  unfold execDigFinal at e
  obtain rfl := Host.Outcome.next.inj e
  try dsimp only
  repeat' first | with_reducible assumption | intro _ | with_reducible apply runDig_keeps

theorem execDigCompare_keeps {fr : Frame} {s₀ : State} {s : State} (hK : Keeps fr s₀ s) {t} (e : execDigCompare s = .next t) :
    Keeps fr s₀ t := by
  unfold execDigCompare at e
  obtain rfl := Host.Outcome.next.inj e
  try dsimp only
  repeat' first | with_reducible assumption | intro _ | with_reducible apply runDig_keeps

theorem execDigSave_keeps {fr : Frame} {s₀ : State} {s : State} (hK : Keeps fr s₀ s) {t} (e : execDigSave s = .next t) :
    Keeps fr s₀ t := by
  unfold execDigSave at e
  obtain rfl := Host.Outcome.next.inj e
  try dsimp only
  repeat' first | with_reducible assumption | intro _ | with_reducible apply runDig_keeps

theorem execDigRestore_keeps {fr : Frame} {s₀ : State} {s : State} (hK : Keeps fr s₀ s) {t} (e : execDigRestore s = .next t) :
    Keeps fr s₀ t := by
  unfold execDigRestore at e
  obtain rfl := Host.Outcome.next.inj e
  try dsimp only
  repeat' first | with_reducible assumption | intro _ | with_reducible apply runDig_keeps

theorem execDigAbort_keeps {fr : Frame} {s₀ : State} {s : State} (hK : Keeps fr s₀ s) {t} (e : execDigAbort s = .next t) :
    Keeps fr s₀ t := by
  unfold execDigAbort at e
  obtain rfl := Host.Outcome.next.inj e
  try dsimp only
  repeat' first | with_reducible assumption | intro _ | with_reducible apply runDig_keeps

theorem dropWords_keeps {fr : Frame} {s₀ : State} {h : BitVec 16} {n : Seat} {s : State} (hK : Keeps fr s₀ s) :
    Keeps fr s₀ (dropWords h n s) := by
  unfold dropWords; try dsimp only
  repeat' first | with_reducible assumption | intro _ | with_reducible apply State.modSeat_keeps

theorem startDrain_keeps {fr : Frame} {s₀ : State} {n : Seat} {s : State} (hK : Keeps fr s₀ s) :
    Keeps fr s₀ (startDrain n s) := by
  unfold startDrain; try dsimp only
  repeat' first
    | with_reducible assumption | intro _ | with_reducible apply dropWords_keeps
    | with_reducible apply failMsg_keeps | with_reducible apply pumpContexts_keeps
    | with_reducible apply Keeps.foldl | split | simp only [Keeps.mk_iff]

theorem execDigDrain_keeps {fr : Frame} {s₀ : State} {s : State} (hK : Keeps fr s₀ s) {t} (e : execDigDrain s = .next t) :
    Keeps fr s₀ t := by
  unfold execDigDrain at e
  obtain rfl := Host.Outcome.next.inj e
  try dsimp only
  repeat' first
    | with_reducible assumption | intro _ | with_reducible apply startDrain_keeps
    | with_reducible apply Keeps.foldl | split | simp only [Keeps.mk_iff]

theorem digJobBlock_keeps {fr : Frame} {s₀ : State} {id : Nat} {more : Bool} {s : State} (hK : Keeps fr s₀ s) :
    Keeps fr s₀ (digJobBlock id more s) := by
  unfold digJobBlock; try dsimp only
  repeat' first
    | with_reducible assumption | intro _ | with_reducible apply absorbStep_keeps
    | with_reducible apply appendBytes_keeps | with_reducible apply endDig_keeps
    | with_reducible apply endFinal_keeps | with_reducible apply endOpen_keeps
    | with_reducible apply nextBlock_keeps | with_reducible apply setJob_keeps | with_reducible apply Keeps.foldl
    | split

theorem drainBlock_keeps {fr : Frame} {s₀ : State} {n : Seat} {s : State} (hK : Keeps fr s₀ s) :
    Keeps fr s₀ (drainBlock n s) := by
  unfold drainBlock; try dsimp only
  repeat' first
    | with_reducible assumption | intro _ | with_reducible apply appendBytes_keeps
    | with_reducible apply drainWords_keeps | with_reducible apply State.modSeat_keeps
    | with_reducible apply Keeps.foldl | split | simp only [Keeps.mk_iff]

theorem digJobFailed_keeps {fr : Frame} {s₀ : State} {id : Nat} {st : Status} {s : State} (hK : Keeps fr s₀ s) :
    Keeps fr s₀ (digJobFailed id st s) := by
  unfold digJobFailed; try dsimp only
  repeat' first
    | with_reducible assumption | intro _ | with_reducible apply endDig_keeps | with_reducible apply Keeps.foldl
    | split

theorem drainFailed_keeps {fr : Frame} {s₀ : State} {n : Seat} {s : State} (hK : Keeps fr s₀ s) :
    Keeps fr s₀ (drainFailed n s) := by
  unfold drainFailed; try dsimp only
  repeat' first
    | with_reducible assumption | intro _ | with_reducible apply State.modMsg_keeps
    | with_reducible apply Keeps.foldl | split | simp only [Keeps.mk_iff]

theorem spillDone_keeps {fr : Frame} {s₀ : State} {i : Fin 272} {gen : BitVec 7} {s : State} (hK : Keeps fr s₀ s) :
    Keeps fr s₀ (spillDone i gen s) := by
  unfold spillDone; try dsimp only
  repeat' first
    | with_reducible assumption | intro _ | with_reducible apply State.modMsg_keeps
    | with_reducible apply pumpContexts_keeps | with_reducible apply Keeps.foldl | split
    | simp only [Keeps.mk_iff]

theorem failWaiting_keeps {fr : Frame} {s₀ : State} {i : Fin 272} {s : State} (hK : Keeps fr s₀ s) :
    Keeps fr s₀ (failWaiting i s) := by
  unfold failWaiting; try dsimp only
  repeat' first
    | with_reducible assumption | intro _ | with_reducible apply endDig_keeps | with_reducible apply Keeps.foldl
    | split | simp only [Keeps.mk_iff]

theorem contextError_keeps {fr : Frame} {s₀ : State} {i : Fin 272} {gen : BitVec 7} {s : State} (hK : Keeps fr s₀ s) :
    Keeps fr s₀ (contextError i gen s) := by
  unfold contextError; try dsimp only
  repeat' first
    | with_reducible assumption | intro _ | with_reducible apply failMsg_keeps
    | with_reducible apply failWaiting_keeps | with_reducible apply pumpContexts_keeps
    | with_reducible apply raiseFault_keeps | with_reducible apply Keeps.foldl | split

theorem fillDone_keeps {fr : Frame} {s₀ : State} {i : Fin 272} {gen : BitVec 7} {b : Bytes} {s : State} (hK : Keeps fr s₀ s) :
    Keeps fr s₀ (fillDone i gen b s) := by
  unfold fillDone; try dsimp only
  repeat' first
    | with_reducible assumption | intro _ | with_reducible apply failMsg_keeps
    | with_reducible apply failWaiting_keeps | with_reducible apply State.modMsg_keeps
    | with_reducible apply pumpContexts_keeps | with_reducible apply record_keeps
    | with_reducible apply touchMsg_keeps | with_reducible apply Keeps.foldl | split | simp only [Keeps.mk_iff]

theorem overrunMsg_keeps {fr : Frame} {s₀ : State} {i : Fin 272} {s : State} (hK : Keeps fr s₀ s) :
    Keeps fr s₀ (overrunMsg i s) := by
  unfold overrunMsg; try dsimp only
  repeat' first
    | with_reducible assumption | intro _ | with_reducible apply failMsg_keeps
    | with_reducible apply State.modMsg_keeps

theorem writeWord_keeps {fr : Frame} {s₀ : State} {n : Seat} {wide : Bool} {bytes : Bytes} {s : State} (hK : Keeps fr s₀ s) :
    Keeps fr s₀ (writeWord n wide bytes s) := by
  unfold writeWord; try dsimp only
  repeat' first
    | with_reducible assumption | intro _ | with_reducible apply State.modSeat_keeps
    | with_reducible apply overrunMsg_keeps | with_reducible apply recordLimited_keeps
    | with_reducible apply Keeps.foldl | split

theorem clearSeatDig_keeps {fr : Frame} {s₀ : State} {n : Seat} {s : State} (hK : Keeps fr s₀ s) :
    Keeps fr s₀ (clearSeatDig n s) := by
  unfold clearSeatDig; try dsimp only
  repeat' first
    | with_reducible assumption | intro _ | with_reducible apply dropUnits_keeps
    | with_reducible apply freeMsg_keeps | with_reducible apply State.modSeat_keeps
    | with_reducible apply Keeps.foldl | split | simp only [Keeps.mk_iff]

theorem resetDig_keeps {fr : Frame} {s₀ : State} {s : State} (hK : Keeps fr s₀ s) : Keeps fr s₀ (resetDig s) := by
  unfold resetDig; try dsimp only
  repeat' first
    | with_reducible assumption | intro _ | with_reducible apply failMsg_keeps | with_reducible apply Keeps.foldl
    | split | simp only [Keeps.mk_iff]

theorem failAllMsgs_keeps {fr : Frame} {s₀ : State} {st : Status} {s : State} (hK : Keeps fr s₀ s) :
    Keeps fr s₀ (failAllMsgs st s) := by
  unfold failAllMsgs; try dsimp only
  repeat' first
    | with_reducible assumption | intro _ | with_reducible apply failMsg_keeps | with_reducible apply Keeps.foldl
    | split | simp only [Keeps.mk_iff]

theorem freeAllMsgs_keeps {fr : Frame} {s₀ : State} {s : State} (hK : Keeps fr s₀ s) :
    Keeps fr s₀ (freeAllMsgs s) := by
  unfold freeAllMsgs; try dsimp only
  repeat' first
    | with_reducible assumption | intro _ | with_reducible apply freeMsg_keeps | with_reducible apply Keeps.foldl
    | split | simp only [Keeps.mk_iff]

theorem clearDigCounts_keeps {fr : Frame} {s₀ : State} {s : State} (hK : Keeps fr s₀ s) :
    Keeps fr s₀ (clearDigCounts s) := by
  unfold clearDigCounts; try dsimp only
  repeat' first
    | with_reducible assumption | intro _ | with_reducible apply Keeps.foldl | split | simp only [Keeps.mk_iff]

/-! ## Pke -/

theorem takeBlock_keeps {fr : Frame} {s₀ : State} {id : Nat} {lattice : Bool} {b : Fin 6} {s : State} (hK : Keeps fr s₀ s) :
    Keeps fr s₀ (takeBlock id lattice b s) := by
  unfold takeBlock; try dsimp only
  repeat' first
    | with_reducible assumption | intro _ | with_reducible apply Keeps.foldl | split | simp only [Keeps.mk_iff]

theorem tryBlock_keeps {fr : Frame} {s₀ : State} {id : Nat} {lattice : Bool} {s : State} (hK : Keeps fr s₀ s) :
    Keeps fr s₀ (tryBlock id lattice s) := by
  unfold tryBlock; try dsimp only
  repeat' first
    | with_reducible assumption | intro _ | with_reducible apply takeBlock_keeps
    | with_reducible apply Keeps.foldl | split

theorem submitParts_keeps {fr : Frame} {s₀ : State} {id : Nat} {s : State} (hK : Keeps fr s₀ s) :
    Keeps fr s₀ (submitParts id s) := by
  unfold submitParts; try dsimp only
  repeat' first
    | with_reducible assumption | intro _ | with_reducible apply submitUnit_keeps
    | with_reducible apply Keeps.foldl | split

theorem needBlocks_keeps {fr : Frame} {s₀ : State} {j : Job} {bn lt : Bool} {s : State} (hK : Keeps fr s₀ s) :
    Keeps fr s₀ (needBlocks j bn lt s) := by
  unfold needBlocks; try dsimp only
  repeat' first
    | with_reducible assumption | intro _ | with_reducible apply setJob_keeps
    | with_reducible apply tryBlock_keeps | with_reducible apply Keeps.foldl | split

theorem nestedPke_keeps {fr : Frame} {s₀ : State} {j : Job} {s : State} (hK : Keeps fr s₀ s) :
    Keeps fr s₀ (nestedPke j s) := by
  unfold nestedPke; try dsimp only
  repeat' first
    | with_reducible assumption | intro _ | with_reducible apply needBlocks_keeps
    | with_reducible apply submitParts_keeps

theorem choosePke_keeps {fr : Frame} {s₀ : State} {s : State} (hK : Keeps fr s₀ s) : Keeps fr s₀ (choosePke s) := by
  unfold choosePke; try dsimp only
  repeat' first
    | with_reducible assumption | intro _ | with_reducible apply Keeps.foldl | split | simp only [Keeps.mk_iff]

theorem runPke_keeps {fr : Frame} {s₀ : State} {o : Op} {go : Job → State → State} {s : State} (hgo : ∀ y0 y1, Keeps fr s₀ y1 → Keeps fr s₀ (go y0 y1)) (hK : Keeps fr s₀ s) :
    Keeps fr s₀ (runPke o go s) := by
  unfold runPke; try dsimp only
  repeat' first
    | with_reducible assumption | intro _ | with_reducible apply hgo | with_reducible apply choosePke_keeps
    | with_reducible apply startEntry_keeps | with_reducible apply Keeps.foldl | split | simp only [Keeps.mk_iff]

theorem giveBlocks_keeps {fr : Frame} {s₀ : State} {j : Job} {s : State} (hK : Keeps fr s₀ s) :
    Keeps fr s₀ (giveBlocks j s) := by
  unfold giveBlocks; try dsimp only
  repeat' first | with_reducible assumption | intro _ | with_reducible apply needBlocks_keeps

theorem compute_keeps {fr : Frame} {s₀ : State} {id : Nat} {s : State} (hK : Keeps fr s₀ s) :
    Keeps fr s₀ (compute id s) := by
  unfold compute; try dsimp only
  repeat' first
    | with_reducible assumption | intro _ | with_reducible apply setJob_keeps
    | with_reducible apply submitParts_keeps | with_reducible apply Keeps.foldl | split

theorem startPke_keeps {fr : Frame} {s₀ : State} {j : Job} {s : State} (hK : Keeps fr s₀ s) :
    Keeps fr s₀ (startPke j s) := by
  unfold startPke; try dsimp only
  repeat' first
    | with_reducible assumption | intro _ | with_reducible apply compute_keeps
    | with_reducible apply failJob_keeps | with_reducible apply fetchJob_keeps
    | with_reducible apply giveBlocks_keeps | with_reducible apply refuseJob_keeps
    | with_reducible apply Keeps.foldl | split

theorem execPkeSign_keeps {fr : Frame} {s₀ : State} {s : State} (hK : Keeps fr s₀ s) {t} (e : execPkeSign s = .next t) :
    Keeps fr s₀ t := by
  unfold execPkeSign at e
  obtain rfl := Host.Outcome.next.inj e
  try dsimp only
  repeat' first
    | with_reducible assumption | intro _ | with_reducible apply runPke_keeps
    | with_reducible apply startPke_keeps

theorem execPkeVerify_keeps {fr : Frame} {s₀ : State} {s : State} (hK : Keeps fr s₀ s) {t} (e : execPkeVerify s = .next t) :
    Keeps fr s₀ t := by
  unfold execPkeVerify at e
  obtain rfl := Host.Outcome.next.inj e
  try dsimp only
  repeat' first
    | with_reducible assumption | intro _ | with_reducible apply runPke_keeps
    | with_reducible apply startPke_keeps

theorem execPkeHybridSign_keeps {fr : Frame} {s₀ : State} {s : State} (hK : Keeps fr s₀ s) {t} (e : execPkeHybridSign s = .next t) :
    Keeps fr s₀ t := by
  unfold execPkeHybridSign at e
  obtain rfl := Host.Outcome.next.inj e
  try dsimp only
  repeat' first
    | with_reducible assumption | intro _ | with_reducible apply runPke_keeps
    | with_reducible apply startPke_keeps

theorem execPkeHybridVerify_keeps {fr : Frame} {s₀ : State} {s : State} (hK : Keeps fr s₀ s) {t} (e : execPkeHybridVerify s = .next t) :
    Keeps fr s₀ t := by
  unfold execPkeHybridVerify at e
  obtain rfl := Host.Outcome.next.inj e
  try dsimp only
  repeat' first
    | with_reducible assumption | intro _ | with_reducible apply runPke_keeps
    | with_reducible apply startPke_keeps

theorem execPkeEcdh_keeps {fr : Frame} {s₀ : State} {s : State} (hK : Keeps fr s₀ s) {t} (e : execPkeEcdh s = .next t) :
    Keeps fr s₀ t := by
  unfold execPkeEcdh at e
  obtain rfl := Host.Outcome.next.inj e
  try dsimp only
  repeat' first
    | with_reducible assumption | intro _ | with_reducible apply runPke_keeps
    | with_reducible apply startPke_keeps

theorem execPkeKemEncaps_keeps {fr : Frame} {s₀ : State} {s : State} (hK : Keeps fr s₀ s) {t} (e : execPkeKemEncaps s = .next t) :
    Keeps fr s₀ t := by
  unfold execPkeKemEncaps at e
  obtain rfl := Host.Outcome.next.inj e
  try dsimp only
  repeat' first
    | with_reducible assumption | intro _ | with_reducible apply runPke_keeps
    | with_reducible apply startPke_keeps

theorem execPkeKemDecaps_keeps {fr : Frame} {s₀ : State} {s : State} (hK : Keeps fr s₀ s) {t} (e : execPkeKemDecaps s = .next t) :
    Keeps fr s₀ t := by
  unfold execPkeKemDecaps at e
  obtain rfl := Host.Outcome.next.inj e
  try dsimp only
  repeat' first
    | with_reducible assumption | intro _ | with_reducible apply runPke_keeps
    | with_reducible apply startPke_keeps

theorem execPkePublic_keeps {fr : Frame} {s₀ : State} {s : State} (hK : Keeps fr s₀ s) {t} (e : execPkePublic s = .next t) :
    Keeps fr s₀ t := by
  unfold execPkePublic at e
  obtain rfl := Host.Outcome.next.inj e
  try dsimp only
  repeat' first
    | with_reducible assumption | intro _ | with_reducible apply runPke_keeps
    | with_reducible apply startPke_keeps

theorem execPkeRsaSign_keeps {fr : Frame} {s₀ : State} {s : State} (hK : Keeps fr s₀ s) {t} (e : execPkeRsaSign s = .next t) :
    Keeps fr s₀ t := by
  unfold execPkeRsaSign at e
  obtain rfl := Host.Outcome.next.inj e
  try dsimp only
  repeat' first
    | with_reducible assumption | intro _ | with_reducible apply runPke_keeps
    | with_reducible apply startPke_keeps

theorem execPkeRsaVerify_keeps {fr : Frame} {s₀ : State} {s : State} (hK : Keeps fr s₀ s) {t} (e : execPkeRsaVerify s = .next t) :
    Keeps fr s₀ t := by
  unfold execPkeRsaVerify at e
  obtain rfl := Host.Outcome.next.inj e
  try dsimp only
  repeat' first
    | with_reducible assumption | intro _ | with_reducible apply runPke_keeps
    | with_reducible apply startPke_keeps

theorem modCurve_keeps {fr : Frame} {s₀ : State} {i : Fin 8} {f : CurveSlot → CurveSlot} {s : State} (hK : Keeps fr s₀ s) :
    Keeps fr s₀ (modCurve i f s) := by
  unfold modCurve; try dsimp only
  repeat' first
    | with_reducible assumption | intro _ | with_reducible apply Keeps.foldl | split | simp only [Keeps.mk_iff]

theorem startCurveLoad_keeps {fr : Frame} {s₀ : State} {j : Job} {s : State} (hK : Keeps fr s₀ s) :
    Keeps fr s₀ (startCurveLoad j s) := by
  unfold startCurveLoad; try dsimp only
  repeat' first
    | with_reducible assumption | intro _ | with_reducible apply modCurve_keeps
    | with_reducible apply startPke_keeps | with_reducible apply Keeps.foldl | split

theorem execPkeCurveLoad_keeps {fr : Frame} {s₀ : State} {s : State} (hK : Keeps fr s₀ s) {t} (e : execPkeCurveLoad s = .next t) :
    Keeps fr s₀ t := by
  unfold execPkeCurveLoad at e
  obtain rfl := Host.Outcome.next.inj e
  try dsimp only
  repeat' first
    | with_reducible assumption | intro _ | with_reducible apply runPke_keeps
    | with_reducible apply startCurveLoad_keeps

theorem startCurveClear_keeps {fr : Frame} {s₀ : State} {j : Job} {s : State} (hK : Keeps fr s₀ s) :
    Keeps fr s₀ (startCurveClear j s) := by
  unfold startCurveClear; try dsimp only
  repeat' first
    | with_reducible assumption | intro _ | with_reducible apply failJob_keeps
    | with_reducible apply modCurve_keeps | with_reducible apply refuseJob_keeps
    | with_reducible apply settle_keeps | with_reducible apply Keeps.foldl | split

theorem execPkeCurveClear_keeps {fr : Frame} {s₀ : State} {s : State} (hK : Keeps fr s₀ s) {t} (e : execPkeCurveClear s = .next t) :
    Keeps fr s₀ t := by
  unfold execPkeCurveClear at e
  obtain rfl := Host.Outcome.next.inj e
  try dsimp only
  repeat' first
    | with_reducible assumption | intro _ | with_reducible apply runPke_keeps
    | with_reducible apply startCurveClear_keeps

theorem secondPart_keeps {fr : Frame} {s₀ : State} {s : State} (hK : Keeps fr s₀ s) : Keeps fr s₀ (secondPart s) := by
  unfold secondPart; try dsimp only
  repeat' first
    | with_reducible assumption | intro _ | with_reducible apply submitUnit_keeps
    | with_reducible apply takeBlock_keeps | with_reducible apply Keeps.foldl | split

theorem execHybridSecondPart_keeps {fr : Frame} {s₀ : State} {s : State} (hK : Keeps fr s₀ s) {t} (e : execHybridSecondPart s = .next t) :
    Keeps fr s₀ t := by
  unfold execHybridSecondPart at e
  obtain rfl := Host.Outcome.next.inj e
  try dsimp only
  repeat' first
    | with_reducible assumption | intro _ | with_reducible apply secondPart_keeps
    | with_reducible apply Keeps.foldl | split

theorem pkeInput_keeps {fr : Frame} {s₀ : State} {j : Job} {b : Bytes} {s : State} (hK : Keeps fr s₀ s) :
    Keeps fr s₀ (pkeInput j b s) := by
  unfold pkeInput; try dsimp only
  repeat' first
    | with_reducible assumption | intro _ | with_reducible apply compute_keeps
    | with_reducible apply failJob_keeps | with_reducible apply setJob_keeps | with_reducible apply Keeps.foldl
    | split

theorem endCurveLoad_keeps {fr : Frame} {s₀ : State} {j : Job} {s : State} (hK : Keeps fr s₀ s) :
    Keeps fr s₀ (endCurveLoad j s) := by
  unfold endCurveLoad; try dsimp only
  repeat' first
    | with_reducible assumption | intro _ | with_reducible apply decideJob_keeps
    | with_reducible apply modCurve_keeps | with_reducible apply Keeps.foldl | split | simp only [Keeps.mk_iff]

theorem countReject_keeps {fr : Frame} {s₀ : State} {s : State} (hK : Keeps fr s₀ s) :
    Keeps fr s₀ (countReject s) := by
  unfold countReject; try dsimp only
  repeat' first
    | with_reducible assumption | intro _ | with_reducible apply Keeps.foldl | split | simp only [Keeps.mk_iff]

theorem countVerifyFail_keeps {fr : Frame} {s₀ : State} {s : State} (hK : Keeps fr s₀ s) :
    Keeps fr s₀ (countVerifyFail s) := by
  unfold countVerifyFail; try dsimp only
  repeat' first
    | with_reducible assumption | intro _ | with_reducible apply Keeps.foldl | split | simp only [Keeps.mk_iff]

theorem countAborted_keeps {fr : Frame} {s₀ : State} {s : State} (hK : Keeps fr s₀ s) :
    Keeps fr s₀ (countAborted s) := by
  unfold countAborted; try dsimp only
  repeat' first
    | with_reducible assumption | intro _ | with_reducible apply Keeps.foldl | split | simp only [Keeps.mk_iff]

theorem verifyFailed_keeps {fr : Frame} {s₀ : State} {j : Job} {s : State} (hK : Keeps fr s₀ s) :
    Keeps fr s₀ (verifyFailed j s) := by
  unfold verifyFailed; try dsimp only
  repeat' first
    | with_reducible assumption | intro _ | with_reducible apply countVerifyFail_keeps
    | with_reducible apply failJob_keeps

theorem mldsaEnd_keeps {fr : Frame} {s₀ : State} {j : Job} {sig : Bytes} {attempts : Nat} {pre : Bytes} {w3 : Nat} {s : State} (hK : Keeps fr s₀ s) :
    Keeps fr s₀ (mldsaEnd j sig attempts pre w3 s) := by
  unfold mldsaEnd; try dsimp only
  repeat' first
    | with_reducible assumption | intro _ | with_reducible apply failJob_keeps
    | with_reducible apply storeJob_keeps | with_reducible apply Keeps.foldl | split

theorem endSign_keeps {fr : Frame} {s₀ : State} {j : Job} {s : State} (hK : Keeps fr s₀ s) :
    Keeps fr s₀ (endSign j s) := by
  unfold endSign; try dsimp only
  repeat' first
    | with_reducible assumption | intro _ | with_reducible apply drawBytes_keeps
    | with_reducible apply ecdsaDraw_keeps | with_reducible apply mldsaEnd_keeps
    | with_reducible apply storeJob_keeps | with_reducible apply Keeps.foldl | split

theorem endVerify_keeps {fr : Frame} {s₀ : State} {j : Job} {s : State} (hK : Keeps fr s₀ s) :
    Keeps fr s₀ (endVerify j s) := by
  unfold endVerify; try dsimp only
  repeat' first
    | with_reducible assumption | intro _ | with_reducible apply decideJob_keeps
    | with_reducible apply verifyFailed_keeps | with_reducible apply Keeps.foldl | split

theorem endHybridSign_keeps {fr : Frame} {s₀ : State} {j : Job} {s : State} (hK : Keeps fr s₀ s) :
    Keeps fr s₀ (endHybridSign j s) := by
  unfold endHybridSign; try dsimp only
  repeat' first
    | with_reducible assumption | intro _ | with_reducible apply drawBytes_keeps
    | with_reducible apply ecdsaDraw_keeps | with_reducible apply mldsaEnd_keeps

theorem endHybridVerify_keeps {fr : Frame} {s₀ : State} {j : Job} {s : State} (hK : Keeps fr s₀ s) :
    Keeps fr s₀ (endHybridVerify j s) := by
  unfold endHybridVerify; try dsimp only
  repeat' first
    | with_reducible assumption | intro _ | with_reducible apply decideJob_keeps
    | with_reducible apply verifyFailed_keeps | with_reducible apply Keeps.foldl | split

theorem endEcdh_keeps {fr : Frame} {s₀ : State} {j : Job} {s : State} (hK : Keeps fr s₀ s) :
    Keeps fr s₀ (endEcdh j s) := by
  unfold endEcdh; try dsimp only
  repeat' first | with_reducible assumption | intro _ | with_reducible apply createSlot_keeps

theorem endEncaps_keeps {fr : Frame} {s₀ : State} {j : Job} {s : State} (hK : Keeps fr s₀ s) :
    Keeps fr s₀ (endEncaps j s) := by
  unfold endEncaps; try dsimp only
  repeat' first
    | with_reducible assumption | intro _ | with_reducible apply drawBytes_keeps
    | with_reducible apply storeJob_keeps

theorem encapsStored_keeps {fr : Frame} {s₀ : State} {j : Job} {s : State} (hK : Keeps fr s₀ s) :
    Keeps fr s₀ (encapsStored j s) := by
  unfold encapsStored; try dsimp only
  repeat' first
    | with_reducible assumption | intro _ | with_reducible apply decideJob_keeps
    | with_reducible apply newSlot_keeps | with_reducible apply refuseJob_keeps | with_reducible apply Keeps.foldl
    | split

theorem endPublic_keeps {fr : Frame} {s₀ : State} {j : Job} {s : State} (hK : Keeps fr s₀ s) :
    Keeps fr s₀ (endPublic j s) := by
  unfold endPublic; try dsimp only
  repeat' first | with_reducible assumption | intro _ | with_reducible apply storeJob_keeps

theorem endRsaSign_keeps {fr : Frame} {s₀ : State} {j : Job} {s : State} (hK : Keeps fr s₀ s) :
    Keeps fr s₀ (endRsaSign j s) := by
  unfold endRsaSign; try dsimp only
  repeat' first
    | with_reducible assumption | intro _ | with_reducible apply drawBytes_keeps
    | with_reducible apply storeJob_keeps | with_reducible apply Keeps.foldl | split

theorem endRsaVerify_keeps {fr : Frame} {s₀ : State} {j : Job} {s : State} (hK : Keeps fr s₀ s) :
    Keeps fr s₀ (endRsaVerify j s) := by
  unfold endRsaVerify; try dsimp only
  repeat' first
    | with_reducible assumption | intro _ | with_reducible apply decideJob_keeps
    | with_reducible apply failJob_keeps | with_reducible apply verifyFailed_keeps
    | with_reducible apply Keeps.foldl | split

theorem endPke_keeps {fr : Frame} {s₀ : State} {j : Job} {s : State} (hK : Keeps fr s₀ s) :
    Keeps fr s₀ (endPke j s) := by
  unfold endPke; try dsimp only
  repeat' first
    | with_reducible assumption | intro _ | with_reducible apply countReject_keeps
    | with_reducible apply createSlot_keeps | with_reducible apply endCurveLoad_keeps
    | with_reducible apply endEcdh_keeps | with_reducible apply endEncaps_keeps
    | with_reducible apply endHybridSign_keeps | with_reducible apply endHybridVerify_keeps
    | with_reducible apply endPublic_keeps | with_reducible apply endRsaSign_keeps
    | with_reducible apply endRsaVerify_keeps | with_reducible apply endSign_keeps
    | with_reducible apply endVerify_keeps | with_reducible apply failJob_keeps
    | with_reducible apply refuseJob_keeps | with_reducible apply Keeps.foldl | split

theorem clearPkeCounts_keeps {fr : Frame} {s₀ : State} {s : State} (hK : Keeps fr s₀ s) :
    Keeps fr s₀ (clearPkeCounts s) := by
  unfold clearPkeCounts; try dsimp only
  repeat' first
    | with_reducible assumption | intro _ | with_reducible apply Keeps.foldl | split | simp only [Keeps.mk_iff]

theorem windowWrite_keeps {fr : Frame} {s₀ : State} {off : Nat} {data : Bytes} {s : State} (hK : Keeps fr s₀ s) :
    Keeps fr s₀ (windowWrite off data s) := by
  unfold windowWrite
  split
  · split
    · exact hK
    · exact Keeps.write hK rfl rfl id rfl (fun w => memWrite_wf _ _ _ _ w) rfl id
  · exact hK

/-! ## Flash -/

theorem flashProgram_keeps {fr : Frame} [Fact (fr.flash = false)] {s₀ : State} {a : Nat} {bs : Bytes} {s : State} (hK :
    Keeps fr s₀ s) :
    Keeps fr s₀ (flashProgram a bs s) :=
  emit_keeps (Keeps.flashWrite hK (fun w => programBytes_wf _ _ _ w))

theorem flashErase_keeps {fr : Frame} [Fact (fr.flash = false)] {s₀ : State} {a n : Nat} {s : State} (hK : Keeps fr s₀ s) :
    Keeps fr s₀ (flashErase a n s) :=
  emit_keeps (Keeps.flashWrite hK (fun w => memErase_wf _ _ _ _ w))

/-! ## LifeCycle -/

theorem startAuthBegin_keeps {fr : Frame} {s₀ : State} {j : Job} {s : State} (hK : Keeps fr s₀ s) :
    Keeps fr s₀ (startAuthBegin j s) := by
  unfold startAuthBegin; try dsimp only
  repeat' first
    | with_reducible assumption | intro _ | with_reducible apply decideJob_keeps
    | with_reducible apply drawBytes_keeps | with_reducible apply modAuth_keeps
    | with_reducible apply refuseJob_keeps | with_reducible apply Keeps.foldl | split

theorem execLcAuthBegin_keeps {fr : Frame} {s₀ : State} {s : State} (hK : Keeps fr s₀ s) {t} (e : execLcAuthBegin s = .next t) :
    Keeps fr s₀ t := by
  unfold execLcAuthBegin at e
  obtain rfl := Host.Outcome.next.inj e
  try dsimp only
  repeat' first
    | with_reducible assumption | intro _ | with_reducible apply runJob_keeps
    | with_reducible apply startAuthBegin_keeps

theorem startAuthProve_keeps {fr : Frame} {s₀ : State} {j : Job} {s : State} (hK : Keeps fr s₀ s) :
    Keeps fr s₀ (startAuthProve j s) := by
  unfold startAuthProve; try dsimp only
  repeat' first
    | with_reducible assumption | intro _ | with_reducible apply endRole_keeps
    | with_reducible apply fetchJob_keeps | with_reducible apply refuseJob_keeps
    | with_reducible apply Keeps.foldl | split

theorem execLcAuthProve_keeps {fr : Frame} {s₀ : State} {s : State} (hK : Keeps fr s₀ s) {t} (e : execLcAuthProve s = .next t) :
    Keeps fr s₀ t := by
  unfold execLcAuthProve at e
  obtain rfl := Host.Outcome.next.inj e
  try dsimp only
  repeat' first
    | with_reducible assumption | intro _ | with_reducible apply runJob_keeps
    | with_reducible apply startAuthProve_keeps

theorem proveFetched_keeps {fr : Frame} {s₀ : State} {j : Job} {b : Bytes} {s : State} (hK : Keeps fr s₀ s) :
    Keeps fr s₀ (proveFetched j b s) := by
  unfold proveFetched; try dsimp only
  repeat' first
    | with_reducible assumption | intro _ | with_reducible apply failJob_keeps
    | with_reducible apply modAuth_keeps | with_reducible apply nestedPke_keeps | with_reducible apply Keeps.foldl
    | split

theorem credFailed_keeps {fr : Frame} {s₀ : State} {j : Job} {s : State} (hK : Keeps fr s₀ s) :
    Keeps fr s₀ (credFailed j s) := by
  unfold credFailed; try dsimp only
  repeat' first
    | with_reducible assumption | intro _ | with_reducible apply failJob_keeps | with_reducible apply record_keeps

theorem proveDone_keeps {fr : Frame} {s₀ : State} {j : Job} {s : State} (hK : Keeps fr s₀ s) :
    Keeps fr s₀ (proveDone j s) := by
  unfold proveDone; try dsimp only
  repeat' first
    | with_reducible assumption | intro _ | with_reducible apply credFailed_keeps
    | with_reducible apply decideJob_keeps | with_reducible apply modAuth_keeps | with_reducible apply Keeps.foldl
    | split

theorem startAuthEnd_keeps {fr : Frame} {s₀ : State} {j : Job} {s : State} (hK : Keeps fr s₀ s) :
    Keeps fr s₀ (startAuthEnd j s) := by
  unfold startAuthEnd; try dsimp only
  repeat' first
    | with_reducible assumption | intro _ | with_reducible apply decideJob_keeps
    | with_reducible apply endRole_keeps | with_reducible apply refuseJob_keeps | with_reducible apply Keeps.foldl
    | split

theorem execLcAuthEnd_keeps {fr : Frame} {s₀ : State} {s : State} (hK : Keeps fr s₀ s) {t} (e : execLcAuthEnd s = .next t) :
    Keeps fr s₀ t := by
  unfold execLcAuthEnd at e
  obtain rfl := Host.Outcome.next.inj e
  try dsimp only
  repeat' first
    | with_reducible assumption | intro _ | with_reducible apply runJob_keeps
    | with_reducible apply startAuthEnd_keeps

theorem lcHeart_keeps {fr : Frame} [Fact (fr.heartwood = false)] {s₀ : State} {kind : BitVec 16} {detail : Bytes} {s : State} (hK : Keeps fr s₀ s) :
    Keeps fr s₀ (lcHeart kind detail s) := by
  unfold lcHeart; try dsimp only
  repeat' first | with_reducible assumption | intro _ | with_reducible apply hwWrite_keeps

theorem stepVerified_keeps {fr : Frame} [Fact (fr.heartwood = false)] {s₀ : State} {step last : Nat} {s : State} (hK : Keeps fr s₀ s) :
    Keeps fr s₀ (stepVerified step last s) := by
  unfold stepVerified; try dsimp only
  repeat' first | with_reducible assumption | intro _ | with_reducible apply lcHeart_keeps

theorem eraseKeys_mid {fr : Frame} [Fact (fr.heartwood = false)] {s₀ u : State} (k : Keeps fr s₀ u) :
    Keeps fr s₀ { u with
    pke := { u.pke with window := [] },
    keys := { u.keys with rootLoaded := false, l0Done := false, l1Done := false } } :=
  Keeps.write k rfl rfl id rfl (fun _ => rfl) rfl id

theorem eraseKeys_keeps {fr : Frame} [Fact (fr.heartwood = false)] {s₀ s : State} (hK : Keeps fr s₀ s) :
    Keeps fr s₀ (eraseKeys s) := by
  unfold eraseKeys
  exact stepVerified_keeps (freshContextKey_keeps (eraseKeys_mid (failAllMsgs_keeps (zeroizeStore_keeps hK))))

theorem clearLinks_keeps {fr : Frame} {s₀ : State} {s : State} (hK : Keeps fr s₀ s) : Keeps fr s₀ (clearLinks s) := by
  unfold clearLinks; try dsimp only
  repeat' first
    | with_reducible assumption | intro _ | with_reducible apply clearPort_keeps | with_reducible apply step_keeps
    | with_reducible apply Keeps.foldl | split | simp only [Keeps.mk_iff]

theorem eraseSecrets_keeps {fr : Frame} [Fact (fr.flash = false)] {s₀ : State} {s : State} (hK : Keeps fr s₀ s) :
    Keeps fr s₀ (eraseSecrets s) := by
  unfold eraseSecrets; try dsimp only
  repeat' first | with_reducible assumption | intro _ | with_reducible apply flashErase_keeps

theorem verifySecrets_keeps {fr : Frame} [Fact (fr.flash = false)] {s₀ : State} {s : State} (hK : Keeps fr s₀ s) :
    Keeps fr s₀ (verifySecrets s) := by
  unfold verifySecrets; try dsimp only
  repeat' first
    | with_reducible assumption | intro _ | with_reducible apply eraseSecrets_keeps
    | with_reducible apply Keeps.foldl | split

theorem lcBurn_keeps {fr : Frame} {s₀ : State} {j : Job} {todo : List WordBurn} {single : Bool} {s : State} (hK : Keeps fr s₀ s) :
    Keeps fr s₀ (lcBurn j todo single s) := by
  unfold lcBurn; try dsimp only
  repeat' first | with_reducible assumption | intro _ | with_reducible apply queueBurn_keeps

theorem burnField_keeps {fr : Frame} [Fact (fr.heartwood = false)] {s₀ : State} {j : Job} {s : State} (hK : Keeps fr s₀ s) :
    Keeps fr s₀ (burnField j s) := by
  unfold burnField; try dsimp only
  repeat' first
    | with_reducible assumption | intro _ | with_reducible apply lcBurn_keeps | with_reducible apply lcHeart_keeps
    | with_reducible apply step_keeps | with_reducible apply Keeps.foldl | split | simp only [Keeps.mk_iff]

theorem burnErasure_keeps {fr : Frame} {s₀ : State} {j : Job} {s : State} (hK : Keeps fr s₀ s) :
    Keeps fr s₀ (burnErasure j s) := by
  unfold burnErasure; try dsimp only
  repeat' first
    | with_reducible assumption | intro _ | with_reducible apply lcBurn_keeps | with_reducible apply step_keeps
    | with_reducible apply Keeps.foldl | split | simp only [Keeps.mk_iff]

theorem beginTransition_keeps {fr : Frame} [Fact (fr.heartwood = false)] {s₀ : State} {j : Job} {s : State} (hK : Keeps fr s₀ s) :
    Keeps fr s₀ (beginTransition j s) := by
  unfold beginTransition; try dsimp only
  repeat' first
    | with_reducible assumption | intro _ | with_reducible apply burnField_keeps
    | with_reducible apply clearLinks_keeps | with_reducible apply eraseKeys_keeps
    | with_reducible apply step_keeps | with_reducible apply stepVerified_keeps | with_reducible apply Keeps.foldl
    | split | simp only [Keeps.mk_iff]

theorem startTransition_keeps {fr : Frame} [Fact (fr.heartwood = false)] {s₀ : State} {j : Job} {s : State} (hK : Keeps fr s₀ s) :
    Keeps fr s₀ (startTransition j s) := by
  unfold startTransition; try dsimp only
  repeat' first
    | with_reducible assumption | intro _ | with_reducible apply beginTransition_keeps
    | with_reducible apply refuseJob_keeps | with_reducible apply setJob_keeps | with_reducible apply step_keeps
    | with_reducible apply Keeps.foldl | split | simp only [Keeps.mk_iff]

theorem transitionCleared_keeps {fr : Frame} [Fact (fr.heartwood = false)] {s₀ : State} {j : Job} {s : State} (hK : Keeps fr s₀ s) :
    Keeps fr s₀ (transitionCleared j s) := by
  unfold transitionCleared; try dsimp only
  repeat' first
    | with_reducible assumption | intro _ | with_reducible apply burnErasure_keeps
    | with_reducible apply stepVerified_keeps

theorem erasureBurned_keeps {fr : Frame} [Fact (fr.heartwood = false)] [Fact (fr.flash = false)] {s₀ : State} {j : Job} {e : BurnEnd} {s : State} (hK : Keeps fr s₀ s) :
    Keeps fr s₀ (erasureBurned j e s) := by
  unfold erasureBurned; try dsimp only
  repeat' first
    | with_reducible assumption | intro _ | with_reducible apply burnField_keeps
    | with_reducible apply decideJob_keeps | with_reducible apply eraseSecrets_keeps
    | with_reducible apply refreshRegion_keeps | with_reducible apply setJob_keeps
    | with_reducible apply step_keeps | with_reducible apply stepVerified_keeps
    | with_reducible apply verifySecrets_keeps | with_reducible apply Keeps.foldl | split
    | simp only [Keeps.mk_iff]

theorem fieldBurned_keeps {fr : Frame} [Fact (fr.heartwood = false)] {s₀ : State} {j : Job} {e : BurnEnd} {s : State} (hK : Keeps fr s₀ s) :
    Keeps fr s₀ (fieldBurned j e s) := by
  unfold fieldBurned; try dsimp only
  repeat' first
    | with_reducible assumption | intro _ | with_reducible apply decideJob_keeps
    | with_reducible apply lcHeart_keeps | with_reducible apply step_keeps | with_reducible apply Keeps.foldl
    | split | simp only [Keeps.mk_iff]

theorem transitionBurned_keeps {fr : Frame} [Fact (fr.heartwood = false)] [Fact (fr.flash = false)] {s₀ : State} {j : Job} {e : BurnEnd} {s : State} (hK : Keeps fr s₀ s) :
    Keeps fr s₀ (transitionBurned j e s) := by
  unfold transitionBurned; try dsimp only
  repeat' first
    | with_reducible assumption | intro _ | with_reducible apply erasureBurned_keeps
    | with_reducible apply fieldBurned_keeps | with_reducible apply step_keeps | with_reducible apply Keeps.foldl
    | split

theorem beginMaker_keeps {fr : Frame} [Fact (fr.heartwood = false)] {s₀ : State} {j : Job} {s : State} (hK : Keeps fr s₀ s) :
    Keeps fr s₀ (beginMaker j s) := by
  unfold beginMaker; try dsimp only
  repeat' first
    | with_reducible assumption | intro _ | with_reducible apply clearLinks_keeps
    | with_reducible apply eraseKeys_keeps | with_reducible apply setJob_keeps | with_reducible apply settle_keeps
    | with_reducible apply step_keeps | with_reducible apply Keeps.foldl | split | simp only [Keeps.mk_iff]

theorem startDebugOpen_keeps {fr : Frame} [Fact (fr.heartwood = false)] {s₀ : State} {j : Job} {s : State} (hK : Keeps fr s₀ s) :
    Keeps fr s₀ (startDebugOpen j s) := by
  unfold startDebugOpen; try dsimp only
  repeat' first
    | with_reducible assumption | intro _ | with_reducible apply advanceG_keeps
    | with_reducible apply beginMaker_keeps | with_reducible apply debugRecord_keeps
    | with_reducible apply decideJob_keeps | with_reducible apply fetchJob_keeps
    | with_reducible apply refuseJob_keeps | with_reducible apply setLevel_keeps
    | with_reducible apply Keeps.foldl | split | simp only [Keeps.mk_iff]

theorem execLcDebugOpen_keeps {fr : Frame} [Fact (fr.heartwood = false)] {s₀ : State} {s : State} (hK : Keeps fr s₀ s) {t} (e : execLcDebugOpen s = .next t) :
    Keeps fr s₀ t := by
  unfold execLcDebugOpen at e
  obtain rfl := Host.Outcome.next.inj e
  try dsimp only
  repeat' first
    | with_reducible assumption | intro _ | with_reducible apply runJob_keeps
    | with_reducible apply startDebugOpen_keeps

theorem consentFetched_keeps {fr : Frame} {s₀ : State} {j : Job} {b : Bytes} {s : State} (hK : Keeps fr s₀ s) :
    Keeps fr s₀ (consentFetched j b s) := by
  unfold consentFetched; try dsimp only
  repeat' first
    | with_reducible assumption | intro _ | with_reducible apply failJob_keeps
    | with_reducible apply modAuth_keeps | with_reducible apply nestedPke_keeps | with_reducible apply Keeps.foldl
    | split

theorem consentDone_keeps {fr : Frame} [Fact (fr.heartwood = false)] {s₀ : State} {j : Job} {s : State} (hK : Keeps fr s₀ s) :
    Keeps fr s₀ (consentDone j s) := by
  unfold consentDone; try dsimp only
  repeat' first
    | with_reducible assumption | intro _ | with_reducible apply beginMaker_keeps
    | with_reducible apply credFailed_keeps | with_reducible apply refuseJob_keeps
    | with_reducible apply Keeps.foldl | split

theorem makerCleared_keeps {fr : Frame} [Fact (fr.heartwood = false)] {s₀ : State} {j : Job} {s : State} (hK : Keeps fr s₀ s) :
    Keeps fr s₀ (makerCleared j s) := by
  unfold makerCleared; try dsimp only
  repeat' first
    | with_reducible assumption | intro _ | with_reducible apply closeOper_keeps
    | with_reducible apply debugRecord_keeps | with_reducible apply decideJob_keeps
    | with_reducible apply hwNote_keeps | with_reducible apply setLevel_keeps
    | with_reducible apply stepVerified_keeps | with_reducible apply Keeps.foldl | split
    | simp only [Keeps.mk_iff]

theorem clearAcked_keeps {fr : Frame} [Fact (fr.heartwood = false)] {s₀ : State} {k : Port} {s : State} (hK : Keeps fr s₀ s) :
    Keeps fr s₀ (clearAcked k s) := by
  unfold clearAcked; try dsimp only
  repeat' first
    | with_reducible assumption | intro _ | with_reducible apply makerCleared_keeps
    | with_reducible apply transitionCleared_keeps | with_reducible apply Keeps.foldl | split
    | simp only [Keeps.mk_iff]

theorem startDebugClose_keeps {fr : Frame} {s₀ : State} {j : Job} {s : State} (hK : Keeps fr s₀ s) :
    Keeps fr s₀ (startDebugClose j s) := by
  unfold startDebugClose; try dsimp only
  repeat' first
    | with_reducible assumption | intro _ | with_reducible apply closeOper_keeps
    | with_reducible apply closeProf_keeps | with_reducible apply decideJob_keeps
    | with_reducible apply refuseJob_keeps | with_reducible apply Keeps.foldl | split

theorem execLcDebugClose_keeps {fr : Frame} {s₀ : State} {s : State} (hK : Keeps fr s₀ s) {t} (e : execLcDebugClose s = .next t) :
    Keeps fr s₀ t := by
  unfold execLcDebugClose at e
  obtain rfl := Host.Outcome.next.inj e
  try dsimp only
  repeat' first
    | with_reducible assumption | intro _ | with_reducible apply runJob_keeps
    | with_reducible apply startDebugClose_keeps

theorem startDebugPolicy_keeps {fr : Frame} {s₀ : State} {j : Job} {s : State} (hK : Keeps fr s₀ s) :
    Keeps fr s₀ (startDebugPolicy j s) := by
  unfold startDebugPolicy; try dsimp only
  repeat' first
    | with_reducible assumption | intro _ | with_reducible apply lcBurn_keeps
    | with_reducible apply refuseJob_keeps | with_reducible apply Keeps.foldl | split

theorem policyBurned_keeps {fr : Frame} {s₀ : State} {j : Job} {e : BurnEnd} {s : State} (hK : Keeps fr s₀ s) :
    Keeps fr s₀ (policyBurned j e s) := by
  unfold policyBurned; try dsimp only
  repeat' first | with_reducible assumption | intro _ | with_reducible apply decideJob_keeps

theorem settleClaims_keeps {fr : Frame} {s₀ : State} {s : State} (hK : Keeps fr s₀ s) :
    Keeps fr s₀ (settleClaims s) := by
  unfold settleClaims; try dsimp only
  repeat' first
    | with_reducible assumption | intro _ | with_reducible apply complete_keeps
    | with_reducible apply endRole_keeps | with_reducible apply Keeps.foldl | split

theorem settleOperators_keeps {fr : Frame} {s₀ : State} {s : State} (hK : Keeps fr s₀ s) :
    Keeps fr s₀ (settleOperators s) := by
  unfold settleOperators; try dsimp only
  repeat' first
    | with_reducible assumption | intro _ | with_reducible apply endRole_keeps | with_reducible apply Keeps.foldl
    | split

theorem resumeNote_keeps {fr : Frame} [Fact (fr.heartwood = false)] {s₀ : State} {k outcome mark : Nat} {s : State} (hK : Keeps fr s₀ s) :
    Keeps fr s₀ (resumeNote k outcome mark s) := by
  unfold resumeNote; try dsimp only
  repeat' first | with_reducible assumption | intro _ | with_reducible apply lcHeart_keeps

theorem resumeBlocked_keeps {fr : Frame} [Fact (fr.heartwood = false)] {s₀ : State} {k outcome mark : Nat} {s : State} (hK : Keeps fr s₀ s) :
    Keeps fr s₀ (resumeBlocked k outcome mark s) := by
  unfold resumeBlocked; try dsimp only
  repeat' first
    | with_reducible assumption | intro _ | with_reducible apply resumeNote_keeps
    | with_reducible apply step_keeps | with_reducible apply Keeps.foldl | split | simp only [Keeps.mk_iff]

theorem resumeMark_keeps {fr : Frame} [Fact (fr.fuses = false)] {s₀ : State} {k : Nat} {ps : List Pulse} {s : State} (hK : Keeps fr s₀ s) :
    Keeps fr s₀ (resumeMark k ps s).1 := by
  unfold resumeMark; try dsimp only
  repeat' first
    | with_reducible assumption | intro _ | with_reducible apply burnNow_keeps
    | with_reducible apply startNote_keeps | with_reducible apply Keeps.foldl | split

theorem resumeErasure_keeps {fr : Frame} [Fact (fr.fuses = false)] [Fact (fr.heartwood = false)] [Fact (fr.flash = false)] {s₀ : State} {acks : BitVec 6} {ps : List Pulse} {s : State} (hK : Keeps fr s₀ s) :
    Keeps fr s₀ (resumeErasure acks ps s).1 := by
  unfold resumeErasure; try dsimp only
  repeat' first
    | with_reducible assumption | intro _ | with_reducible apply burnNow_keeps | with_reducible apply emit_keeps
    | with_reducible apply refreshRegion_keeps | with_reducible apply step_keeps
    | with_reducible apply stepVerified_keeps | with_reducible apply verifySecrets_keeps
    | with_reducible apply Keeps.foldl | split | simp only [Keeps.mk_iff]

theorem resumeBits_keeps {fr : Frame} [Fact (fr.fuses = false)] [Fact (fr.heartwood = false)] {s₀ : State} {k mark : Nat} {ps : List Pulse} {s : State} (hK : Keeps fr s₀ s) :
    Keeps fr s₀ (resumeBits k mark ps s).1 := by
  unfold resumeBits; try dsimp only
  repeat' first
    | with_reducible assumption | intro _ | with_reducible apply burnNow_keeps
    | with_reducible apply resumeBlocked_keeps | with_reducible apply resumeNote_keeps
    | with_reducible apply step_keeps | with_reducible apply Keeps.foldl | split | simp only [Keeps.mk_iff]

theorem resumeField_keeps {fr : Frame} [Fact (fr.fuses = false)] [Fact (fr.heartwood = false)] [Fact (fr.flash = false)] {s₀ : State} {acks : BitVec 6} {ps : List Pulse} {s : State} (hK : Keeps fr s₀ s) :
    Keeps fr s₀ (resumeField acks ps s).1 := by
  unfold resumeField; try dsimp only
  repeat' first
    | with_reducible assumption | intro _ | with_reducible apply resumeBits_keeps
    | with_reducible apply resumeBlocked_keeps | with_reducible apply resumeErasure_keeps
    | with_reducible apply resumeMark_keeps | with_reducible apply step_keeps | with_reducible apply Keeps.foldl
    | split | simp only [Keeps.mk_iff]

theorem resumeFielded_keeps {fr : Frame} [Fact (fr.fuses = false)] [Fact (fr.heartwood = false)] {s₀ : State} {mark : Nat} {ps : List Pulse} {s : State} (hK : Keeps fr s₀ s) :
    Keeps fr s₀ (resumeFielded mark ps s).1 := by
  unfold resumeFielded; try dsimp only
  repeat' first
    | with_reducible assumption | intro _ | with_reducible apply resumeBits_keeps
    | with_reducible apply resumeBlocked_keeps | with_reducible apply Keeps.foldl | split

/-! ## Mailbox -/

theorem State.modBox_keeps {fr : Frame} {s₀ : State} {s : State} {m : Mbx} {f : Mailbox → Mailbox} (hK : Keeps fr s₀ s) :
    Keeps fr s₀ (State.modBox s m f) := by
  unfold State.modBox; try dsimp only
  repeat' first
    | with_reducible assumption | intro _ | with_reducible apply Keeps.foldl | split | simp only [Keeps.mk_iff]

theorem postNotice_keeps {fr : Frame} {s₀ : State} {m : Mbx} {n : Seat} {data : Word} {s : State} (hK : Keeps fr s₀ s) :
    Keeps fr s₀ (postNotice m n data s) := by
  unfold postNotice; try dsimp only
  repeat' first
    | with_reducible assumption | intro _ | with_reducible apply State.modBox_keeps
    | with_reducible apply State.modSeat_keeps | with_reducible apply raiseSeat_keeps
    | with_reducible apply recordLimited_keeps | with_reducible apply Keeps.foldl | split

theorem markEmptied_keeps {fr : Frame} {s₀ : State} {m : Mbx} {sender : Seat} {s : State} (hK : Keeps fr s₀ s) :
    Keeps fr s₀ (markEmptied m sender s) := by
  unfold markEmptied; try dsimp only
  repeat' first
    | with_reducible assumption | intro _ | with_reducible apply State.modSeat_keeps
    | with_reducible apply raiseSeat_keeps | with_reducible apply Keeps.foldl | split

theorem emptyBox_keeps {fr : Frame} {s₀ : State} {m : Mbx} {s : State} (hK : Keeps fr s₀ s) :
    Keeps fr s₀ (emptyBox m s) := by
  unfold emptyBox; try dsimp only
  repeat' first
    | with_reducible assumption | intro _ | with_reducible apply markEmptied_keeps
    | with_reducible apply State.modBox_keeps

theorem infoReadEffect_keeps {fr : Frame} {s₀ : State} {m : Mbx} {n : Seat} {s : State} (hK : Keeps fr s₀ s) :
    Keeps fr s₀ (infoReadEffect m n s) := by
  unfold infoReadEffect; try dsimp only
  repeat' first
    | with_reducible assumption | intro _ | with_reducible apply emptyBox_keeps | with_reducible apply Keeps.foldl
    | split

theorem stateWriteEffect_keeps {fr : Frame} {s₀ : State} {m : Mbx} {n : Seat} {data : Word} {s : State} (hK : Keeps fr s₀ s) :
    Keeps fr s₀ (stateWriteEffect m n data s) := by
  unfold stateWriteEffect; try dsimp only
  repeat' first
    | with_reducible assumption | intro _ | with_reducible apply emptyBox_keeps | with_reducible apply Keeps.foldl
    | split

theorem wakeNotices_keeps {fr : Frame} {s₀ : State} {s : State} (hK : Keeps fr s₀ s) :
    Keeps fr s₀ (wakeNotices s) := by
  unfold wakeNotices; try dsimp only
  repeat' first
    | with_reducible assumption | intro _ | with_reducible apply State.modBox_keeps
    | with_reducible apply raiseSeat_keeps | with_reducible apply Keeps.foldl | split

theorem dropBoxes_keeps {fr : Frame} {s₀ : State} {n : Seat} {s : State} (hK : Keeps fr s₀ s) :
    Keeps fr s₀ (dropBoxes n s) := by
  unfold dropBoxes; try dsimp only
  repeat' first
    | with_reducible assumption | intro _ | with_reducible apply State.modBox_keeps
    | with_reducible apply raiseFault_keeps | with_reducible apply Keeps.foldl | split

/-! ## Swap -/

theorem fbAll_keeps {fr : Frame} {s₀ : State} {op : Nat} {data : Nat} {s : State} (hK : Keeps fr s₀ s) :
    Keeps fr s₀ (fbAll op data s) := by
  unfold fbAll; try dsimp only
  repeat' first | with_reducible assumption | intro _ | with_reducible apply emit_keeps

theorem fbWriteEntry_keeps {fr : Frame} {s₀ : State} {i : Nat} {e : FbEntry} {s : State} (hK : Keeps fr s₀ s) :
    Keeps fr s₀ (fbWriteEntry i e s) := by
  unfold fbWriteEntry; try dsimp only
  repeat' first | with_reducible assumption | intro _ | with_reducible apply fbAll_keeps

theorem fbWriteShadow_keeps {fr : Frame} {s₀ : State} {s : State} (hK : Keeps fr s₀ s) :
    Keeps fr s₀ (fbWriteShadow s) := by
  unfold fbWriteShadow; try dsimp only
  repeat' first
    | with_reducible assumption | intro _ | with_reducible apply fbWriteEntry_keeps
    | with_reducible apply Keeps.foldl

theorem readBlocked_keeps {fr : Frame} {s₀ : State} {n : Part} {s : State} (hK : Keeps fr s₀ s) :
    Keeps fr s₀ (readBlocked n s) := by
  unfold readBlocked; try dsimp only
  repeat' first
    | with_reducible assumption | intro _ | with_reducible apply emit_keeps | with_reducible apply Keeps.foldl
    | split | simp only [Keeps.mk_iff]

theorem modSwap_keeps {fr : Frame} {s₀ : State} {f : Swap → Swap} {s : State} (hK : Keeps fr s₀ s) :
    Keeps fr s₀ (modSwap f s) := by
  unfold modSwap; try dsimp only
  repeat' first
    | with_reducible assumption | intro _ | with_reducible apply Keeps.foldl | split | simp only [Keeps.mk_iff]

theorem dropSwap_keeps {fr : Frame} {s₀ : State} {retry : Nat} {s : State} (hK : Keeps fr s₀ s) :
    Keeps fr s₀ (dropSwap retry s) := by
  unfold dropSwap; try dsimp only
  repeat' first
    | with_reducible assumption | intro _ | with_reducible apply finishJob_keeps
    | with_reducible apply Keeps.foldl | split | simp only [Keeps.mk_iff]

theorem disarmSwap_keeps {fr : Frame} {s₀ : State} {s : State} (hK : Keeps fr s₀ s) : Keeps fr s₀ (disarmSwap s) := by
  unfold disarmSwap; try dsimp only
  repeat' first
    | with_reducible assumption | intro _ | with_reducible apply dropSwap_keeps | with_reducible apply fbAll_keeps

theorem disarmUnanswered_keeps {fr : Frame} {s₀ : State} {s : State} (hK : Keeps fr s₀ s) :
    Keeps fr s₀ (disarmUnanswered s) := by
  unfold disarmUnanswered; try dsimp only
  repeat' first
    | with_reducible assumption | intro _ | with_reducible apply disarmSwap_keeps
    | with_reducible apply Keeps.foldl | split

theorem armSwap_keeps {fr : Frame} {s₀ : State} {w : Swap} {s : State} (hK : Keeps fr s₀ s) :
    Keeps fr s₀ (armSwap w s) := by
  unfold armSwap; try dsimp only
  repeat' first
    | with_reducible assumption | intro _ | with_reducible apply dropSwap_keeps | with_reducible apply fbAll_keeps
    | with_reducible apply readBlocked_keeps | with_reducible apply Keeps.foldl | split | simp only [Keeps.mk_iff]

theorem askCrc_keeps {fr : Frame} {s₀ : State} {w : Swap} {s : State} (hK : Keeps fr s₀ s) :
    Keeps fr s₀ (askCrc w s) := by
  unfold askCrc; try dsimp only
  repeat' first
    | with_reducible assumption | intro _ | with_reducible apply armSwap_keeps | with_reducible apply fbAll_keeps
    | with_reducible apply Keeps.foldl | split | simp only [Keeps.mk_iff]

theorem crcFailed_keeps {fr : Frame} {s₀ : State} {w : Swap} {s : State} (hK : Keeps fr s₀ s) :
    Keeps fr s₀ (crcFailed w s) := by
  unfold crcFailed; try dsimp only
  repeat' first
    | with_reducible assumption | intro _ | with_reducible apply dropSwap_keeps
    | with_reducible apply record_keeps | with_reducible apply Keeps.foldl | split

theorem shadowCrc_keeps {fr : Frame} {s₀ : State} {u : Unit7} {crc : BitVec 32} {s : State} (hK : Keeps fr s₀ s) :
    Keeps fr s₀ (shadowCrc u crc s) := by
  unfold shadowCrc; try dsimp only
  repeat' first
    | with_reducible assumption | intro _ | with_reducible apply armSwap_keeps | with_reducible apply askCrc_keeps
    | with_reducible apply crcFailed_keeps | with_reducible apply fbWriteShadow_keeps
    | with_reducible apply Keeps.foldl | split | simp only [Keeps.mk_iff]

theorem fbAnswer_keeps {fr : Frame} {s₀ : State} {f : State → State} {s : State} (hf : ∀ y0, Keeps fr s₀ y0 → Keeps fr s₀ (f y0)) (hK : Keeps fr s₀ s) {t} (e : fbAnswer f s = .next t) :
    Keeps fr s₀ t := by
  unfold fbAnswer at e; try dsimp only at e
  (repeat' split at e) <;> first | contradiction | (cases e)
  all_goals
    repeat' first | with_reducible assumption | intro _ | with_reducible apply hf

theorem execFbShadowCrcResponse_keeps {fr : Frame} {s₀ : State} {u : Unit7} {crc : BitVec 32} {s : State} (hK : Keeps fr s₀ s) {t} (e : execFbShadowCrcResponse u crc s = .next t) :
    Keeps fr s₀ t := by
  unfold execFbShadowCrcResponse at e
  refine fbAnswer_keeps ?_ hK e
  repeat' first | with_reducible exact id | with_reducible assumption | intro _ | with_reducible apply shadowCrc_keeps

theorem execFbArmed_keeps {fr : Frame} {s₀ : State} {u : Unit7} {s : State} (hK : Keeps fr s₀ s) {t} (e : execFbArmed u s = .next t) :
    Keeps fr s₀ t := by
  unfold execFbArmed at e
  refine fbAnswer_keeps ?_ hK e
  repeat' first | with_reducible exact id | with_reducible assumption | intro _ | with_reducible apply modSwap_keeps

theorem execFbLate_keeps {fr : Frame} {s₀ : State} {u : Unit7} {s : State} (hK : Keeps fr s₀ s) {t} (e : execFbLate u s = .next t) :
    Keeps fr s₀ t := by
  unfold execFbLate at e
  refine fbAnswer_keeps ?_ hK e
  repeat' first
    | with_reducible exact id | with_reducible assumption | intro _ | with_reducible apply disarmSwap_keeps
    | with_reducible apply Keeps.foldl | split

theorem execFbArmDeadline_keeps {fr : Frame} {s₀ : State} {s : State} (hK : Keeps fr s₀ s) {t} (e : execFbArmDeadline s = .next t) :
    Keeps fr s₀ t := by
  unfold execFbArmDeadline at e
  obtain rfl := Host.Outcome.next.inj e
  try dsimp only
  repeat' first
    | with_reducible assumption | intro _ | with_reducible apply disarmSwap_keeps
    | with_reducible apply Keeps.foldl | split

theorem execFbDisarmed_keeps {fr : Frame} {s₀ : State} {u : Unit7} {s : State} (hK :
    Keeps fr s₀ s) {t} (e : execFbDisarmed u s = .next t) :
    Keeps fr s₀ t := fbAnswer_keeps (fun _ h => h) hK e

/-! ## Beat -/

theorem loseIf_keeps {fr : Frame} {s₀ : State} {s : State} (hK : Keeps fr s₀ s) : Keeps fr s₀ (loseIf s) := by
  unfold loseIf; try dsimp only
  repeat' first
    | with_reducible assumption | intro _ | with_reducible apply disarmUnanswered_keeps
    | with_reducible apply raiseCore_keeps | with_reducible apply Keeps.foldl | split | simp only [Keeps.mk_iff]

theorem jumpRecord_keeps {fr : Frame} {s₀ : State} {count : Word} {s : State} (hK : Keeps fr s₀ s) :
    Keeps fr s₀ (jumpRecord count s) := by
  unfold jumpRecord; try dsimp only
  repeat' first | with_reducible assumption | intro _ | with_reducible apply record_keeps

theorem adoption_keeps {fr : Frame} {s₀ : State} {count : Word} {t : Nat} {slot : Word} {s : State} (hK : Keeps fr s₀ s) :
    Keeps fr s₀ (adoption count t slot s) := by
  unfold adoption; try dsimp only
  repeat' first
    | with_reducible assumption | intro _ | with_reducible apply disarmUnanswered_keeps
    | with_reducible apply jumpRecord_keeps | with_reducible apply raiseCore_keeps
    | with_reducible apply reinstallLinks_keeps | with_reducible apply Keeps.foldl | split
    | simp only [Keeps.mk_iff]

theorem edgeLocked_keeps {fr : Frame} {s₀ : State} {count : Word} {t : Nat} {k : EdgeClass} {s : State} (hK : Keeps fr s₀ s) :
    Keeps fr s₀ (edgeLocked count t k s) := by
  unfold edgeLocked; try dsimp only
  repeat' first
    | with_reducible assumption | intro _ | with_reducible apply raiseCore_keeps
    | with_reducible apply Keeps.foldl | split | simp only [Keeps.mk_iff]

theorem edgeHoldover_keeps {fr : Frame} {s₀ : State} {count : Word} {t : Nat} {k : EdgeClass} {became : Bool} {s : State} (hK : Keeps fr s₀ s) :
    Keeps fr s₀ (edgeHoldover count t k became s) := by
  unfold edgeHoldover; try dsimp only
  repeat' first
    | with_reducible assumption | intro _ | with_reducible apply adoption_keeps
    | with_reducible apply loseIf_keeps | with_reducible apply raiseCore_keeps | with_reducible apply Keeps.foldl
    | split | simp only [Keeps.mk_iff]

theorem edgeLost_keeps {fr : Frame} {s₀ : State} {count : Word} {t : Nat} {k : EdgeClass} {became : Bool} {s : State} (hK : Keeps fr s₀ s) :
    Keeps fr s₀ (edgeLost count t k became s) := by
  unfold edgeLost; try dsimp only
  repeat' first
    | with_reducible assumption | intro _ | with_reducible apply adoption_keeps | with_reducible apply Keeps.foldl
    | split | simp only [Keeps.mk_iff]

theorem shiftBeats_keeps {fr : Frame} {s₀ : State} {shift : Word → Word} {s : State} (hK : Keeps fr s₀ s) :
    Keeps fr s₀ (shiftBeats shift s) := by
  unfold shiftBeats; try dsimp only
  repeat' first
    | with_reducible assumption | intro _ | with_reducible apply Keeps.foldl | split | simp only [Keeps.mk_iff]

theorem rebaseEdge_keeps {fr : Frame} {s₀ : State} {j : Job} {count : Word} {t : Nat} {k : EdgeClass} {s : State} (hK : Keeps fr s₀ s) :
    Keeps fr s₀ (rebaseEdge j count t k s) := by
  unfold rebaseEdge; try dsimp only
  repeat' first
    | with_reducible assumption | intro _ | with_reducible apply edgeLost_keeps
    | with_reducible apply finishJob_keeps | with_reducible apply hwNote_keeps
    | with_reducible apply jumpRecord_keeps | with_reducible apply raiseCore_keeps
    | with_reducible apply reinstallLinks_keeps | with_reducible apply shiftBeats_keeps
    | with_reducible apply Keeps.foldl | split | simp only [Keeps.mk_iff]

theorem beatEdge_keeps {fr : Frame} {s₀ : State} {count : Word} {lock : Bool} {t : Nat} {s : State} (hK : Keeps fr s₀ s) :
    Keeps fr s₀ (beatEdge count lock t s) := by
  unfold beatEdge; try dsimp only
  repeat' first
    | with_reducible assumption | intro _ | with_reducible apply edgeHoldover_keeps
    | with_reducible apply edgeLocked_keeps | with_reducible apply edgeLost_keeps
    | with_reducible apply raiseCore_keeps | with_reducible apply rebaseEdge_keeps
    | with_reducible apply Keeps.foldl | split | simp only [Keeps.mk_iff]

theorem execBeatEdge_keeps {fr : Frame} {s₀ : State} {count : Word} {lock : Bool} {off : Nat} {s : State} (hK : Keeps fr s₀ s) {t} (e : execBeatEdge count lock off s = .next t) :
    Keeps fr s₀ t := by
  unfold execBeatEdge at e
  obtain rfl := Host.Outcome.next.inj e
  try dsimp only
  repeat' first
    | with_reducible assumption | intro _ | with_reducible apply beatEdge_keeps | with_reducible apply Keeps.foldl
    | split

theorem predictEdge_keeps {fr : Frame} {s₀ : State} {s : State} (hK : Keeps fr s₀ s) :
    Keeps fr s₀ (predictEdge s) := by
  unfold predictEdge; try dsimp only
  repeat' first
    | with_reducible assumption | intro _ | with_reducible apply loseIf_keeps | with_reducible apply Keeps.foldl
    | split | simp only [Keeps.mk_iff]

theorem execPredictedEdge_keeps {fr : Frame} {s₀ : State} {s : State} (hK : Keeps fr s₀ s) {t} (e : execPredictedEdge s = .next t) :
    Keeps fr s₀ t := by
  unfold execPredictedEdge at e
  obtain rfl := Host.Outcome.next.inj e
  try dsimp only
  repeat' first
    | with_reducible assumption | intro _ | with_reducible apply predictEdge_keeps
    | with_reducible apply Keeps.foldl | split

theorem missEdge_keeps {fr : Frame} {s₀ : State} {s : State} (hK : Keeps fr s₀ s) : Keeps fr s₀ (missEdge s) := by
  unfold missEdge; try dsimp only
  repeat' first
    | with_reducible assumption | intro _ | with_reducible apply loseIf_keeps
    | with_reducible apply raiseCore_keeps | with_reducible apply Keeps.foldl | split | simp only [Keeps.mk_iff]

theorem execBeatEdgeMissing_keeps {fr : Frame} {s₀ : State} {s : State} (hK : Keeps fr s₀ s) {t} (e : execBeatEdgeMissing s = .next t) :
    Keeps fr s₀ t := by
  unfold execBeatEdgeMissing at e
  obtain rfl := Host.Outcome.next.inj e
  try dsimp only
  repeat' first
    | with_reducible assumption | intro _ | with_reducible apply missEdge_keeps | with_reducible apply Keeps.foldl
    | split

theorem execHeartbeat_keeps {fr : Frame} {s₀ : State} {s : State} (hK : Keeps fr s₀ s) {t} (e : execHeartbeat s = .next t) :
    Keeps fr s₀ t := by
  unfold execHeartbeat at e; try dsimp only at e
  (repeat' split at e) <;> first | contradiction | (cases e)
  all_goals
    repeat' first
      | with_reducible assumption | intro _ | with_reducible apply Keeps.foldl | split | simp only [Keeps.mk_iff]

theorem execHeartwoodCheckpoint_keeps {fr : Frame} {s₀ : State} {s : State} (hK : Keeps fr s₀ s) {t} (e : execHeartwoodCheckpoint s = .next t) :
    Keeps fr s₀ t := by
  unfold execHeartwoodCheckpoint at e; try dsimp only at e
  (repeat' split at e) <;> first | contradiction | (cases e)
  all_goals
    repeat' first
      | with_reducible assumption | intro _ | with_reducible apply hwNote_keeps | with_reducible apply Keeps.foldl
      | split | simp only [Keeps.mk_iff]

theorem startRebase_keeps {fr : Frame} {s₀ : State} {j : Job} {s : State} (hK : Keeps fr s₀ s) :
    Keeps fr s₀ (startRebase j s) := by
  unfold startRebase; try dsimp only
  repeat' first
    | with_reducible assumption | intro _ | with_reducible apply refuseJob_keeps
    | with_reducible apply setJob_keeps | with_reducible apply Keeps.foldl | split

theorem execBeatRebase_keeps {fr : Frame} {s₀ : State} {s : State} (hK : Keeps fr s₀ s) {t} (e : execBeatRebase s = .next t) :
    Keeps fr s₀ t := by
  unfold execBeatRebase at e
  obtain rfl := Host.Outcome.next.inj e
  try dsimp only
  repeat' first
    | with_reducible assumption | intro _ | with_reducible apply runJob_keeps
    | with_reducible apply startRebase_keeps

theorem execBeatRebaseTimeout_keeps {fr : Frame} {s₀ s t : State} (hK :
    Keeps fr s₀ s) (e : execBeatRebaseTimeout s = .next t) :
    Keeps fr s₀ t := by
  unfold execBeatRebaseTimeout at e
  obtain rfl := (Host.Outcome.next.inj e)
  cases rebaseJob s with
  | none => exact hK
  | some j =>
    dsimp only
    generalize max s.now _ = n
    apply finishJob_keeps
    simp only [Keeps.mk_iff]; exact hK

theorem captureNow_keeps {fr : Frame} {s₀ : State} {n : Seat} {s : State} (hK : Keeps fr s₀ s) :
    Keeps fr s₀ (captureNow n s) := by
  unfold captureNow; try dsimp only
  repeat' first | with_reducible assumption | intro _ | with_reducible apply State.modSeat_keeps

theorem clearBeatEvents_keeps {fr : Frame} {s₀ : State} {s : State} (hK : Keeps fr s₀ s) :
    Keeps fr s₀ (clearBeatEvents s) := by
  unfold clearBeatEvents; try dsimp only
  repeat' first
    | with_reducible assumption | intro _ | with_reducible apply Keeps.foldl | split | simp only [Keeps.mk_iff]

end Sys2Proof.Machine
end

