-- ==== Sys2Proof/Laws/KeepsEngines.lean ====
section
/-! SUPPORT. What ING, the records, the boot of management, the partitions and the grove keep:
the queue, every burned fuse bit and soundness (Laws/Keeps.lean). -/

namespace Sys2Proof.Machine

/-! ## Ing -/

theorem freePlan_keeps {fr : Frame} {s₀ : State} {i : PlanIx} {s : State} (hK : Keeps fr s₀ s) :
    Keeps fr s₀ (freePlan i s) := by
  unfold freePlan; try dsimp only
  repeat' first
    | with_reducible assumption | intro _ | with_reducible apply advanceG_keeps
    | with_reducible apply State.modPlan_keeps | with_reducible apply Keeps.foldl | split

theorem useModelKey_keeps {fr : Frame} {s₀ : State} {n : Part} {e : ModelKey} {s : State} (hK : Keeps fr s₀ s) :
    Keeps fr s₀ (useModelKey n e s) := by
  unfold useModelKey; try dsimp only
  repeat' first
    | with_reducible assumption | intro _ | with_reducible apply Keeps.foldl | split | simp only [Keeps.mk_iff]

theorem setLoad_keeps {fr : Frame} {s₀ : State} {l : Load} {s : State} (hK : Keeps fr s₀ s) :
    Keeps fr s₀ (setLoad l s) := by
  unfold setLoad; try dsimp only
  repeat' first
    | with_reducible assumption | intro _ | with_reducible apply Keeps.foldl | split | simp only [Keeps.mk_iff]

theorem dropLoad_keeps {fr : Frame} {s₀ : State} {job : Nat} {s : State} (hK : Keeps fr s₀ s) :
    Keeps fr s₀ (dropLoad job s) := by
  unfold dropLoad; try dsimp only
  repeat' first
    | with_reducible assumption | intro _ | with_reducible apply dropUnits_keeps
    | with_reducible apply placeWaiting_keeps | with_reducible apply Keeps.foldl | split
    | simp only [Keeps.mk_iff]

theorem failPlan_keeps {fr : Frame} {s₀ : State} {i : PlanIx} {cause : BitVec 8} {s : State} (hK : Keeps fr s₀ s) :
    Keeps fr s₀ (failPlan i cause s) := by
  unfold failPlan; try dsimp only
  repeat' first | with_reducible assumption | intro _ | with_reducible apply State.modPlan_keeps

theorem failLoad_keeps {fr : Frame} {s₀ : State} {l : Load} {cause : BitVec 8} {st : Status} {s : State} (hK : Keeps fr s₀ s) :
    Keeps fr s₀ (failLoad l cause st s) := by
  unfold failLoad; try dsimp only
  repeat' first
    | with_reducible assumption | intro _ | with_reducible apply dropLoad_keeps
    | with_reducible apply failPlan_keeps | with_reducible apply finishJob_keeps
    | with_reducible apply Keeps.foldl | split

theorem ringSource_keeps {fr : Frame} {s₀ : State} {op : Nat} {l : Load} {s : State} (hK : Keeps fr s₀ s) :
    Keeps fr s₀ (ringSource op l s) := by
  unfold ringSource; try dsimp only
  repeat' first | with_reducible assumption | intro _ | with_reducible apply issue_keeps

theorem cancelStream_keeps {fr : Frame} {s₀ : State} {l : Load} {s : State} (hK : Keeps fr s₀ s) :
    Keeps fr s₀ (cancelStream l s) := by
  unfold cancelStream; try dsimp only
  repeat' first
    | with_reducible assumption | intro _ | with_reducible apply ringSource_keeps
    | with_reducible apply Keeps.foldl | split

theorem sendStream_keeps {fr : Frame} {s₀ : State} {l : Load} {s : State} (hK : Keeps fr s₀ s) :
    Keeps fr s₀ (sendStream l s) := by
  unfold sendStream; try dsimp only
  repeat' first
    | with_reducible assumption | intro _ | with_reducible apply ringSource_keeps
    | with_reducible apply setLoad_keeps | with_reducible apply Keeps.foldl | split | simp only [Keeps.mk_iff]

theorem missingChunk_keeps {fr : Frame} {s₀ : State} {l : Load} {s : State} (hK : Keeps fr s₀ s) :
    Keeps fr s₀ (missingChunk l s) := by
  unfold missingChunk; try dsimp only
  repeat' first
    | with_reducible assumption | intro _ | with_reducible apply failLoad_keeps
    | with_reducible apply ringSource_keeps | with_reducible apply sendStream_keeps
    | with_reducible apply Keeps.foldl | split | simp only [Keeps.mk_iff]

theorem stopLoad_keeps {fr : Frame} {s₀ : State} {l : Load} {s : State} (hK : Keeps fr s₀ s) :
    Keeps fr s₀ (stopLoad l s) := by
  unfold stopLoad; try dsimp only
  repeat' first
    | with_reducible assumption | intro _ | with_reducible apply cancelStream_keeps
    | with_reducible apply failLoad_keeps

theorem loseLoad_keeps {fr : Frame} {s₀ : State} {l : Load} {s : State} (hK : Keeps fr s₀ s) :
    Keeps fr s₀ (loseLoad l s) := by
  unfold loseLoad; try dsimp only
  repeat' first
    | with_reducible assumption | intro _ | with_reducible apply cancelStream_keeps
    | with_reducible apply dropLoad_keeps | with_reducible apply finishJob_keeps
    | with_reducible apply freePlan_keeps | with_reducible apply Keeps.foldl | split

theorem stopLoads_keeps {fr : Frame} {s₀ : State} {n : Part} {s : State} (hK : Keeps fr s₀ s) :
    Keeps fr s₀ (stopLoads n s) := by
  unfold stopLoads; try dsimp only
  repeat' first
    | with_reducible assumption | intro _ | with_reducible apply stopLoad_keeps | with_reducible apply Keeps.foldl

theorem freePlansOutside_keeps {fr : Frame} {s₀ : State} {t : FbTable} {s : State} (hK : Keeps fr s₀ s) :
    Keeps fr s₀ (freePlansOutside t s) := by
  unfold freePlansOutside; try dsimp only
  repeat' first
    | with_reducible assumption | intro _ | with_reducible apply freePlan_keeps
    | with_reducible apply loseLoad_keeps | with_reducible apply Keeps.foldl | split

theorem clearIngest_keeps {fr : Frame} {s₀ : State} {n : Part} {s : State} (hK : Keeps fr s₀ s) :
    Keeps fr s₀ (clearIngest n s) := by
  unfold clearIngest; try dsimp only
  repeat' first
    | with_reducible assumption | intro _ | with_reducible apply State.modPlan_keeps
    | with_reducible apply stopLoads_keeps | with_reducible apply zeroModelKeys_keeps
    | with_reducible apply Keeps.foldl | split | simp only [Keeps.mk_iff]

theorem startIng_keeps {fr : Frame} {s₀ : State} {o : Op} {n : Seat} {a : Arb} {go : Job → State → State} {s : State} (hgo : ∀ y0 y1, Keeps fr s₀ y1 → Keeps fr s₀ (go y0 y1)) (hK : Keeps fr s₀ s) :
    Keeps fr s₀ (startIng o n a go s) := by
  unfold startIng; try dsimp only
  repeat' first
    | with_reducible assumption | intro _ | with_reducible apply hgo | with_reducible apply startEntry_keeps
    | with_reducible apply Keeps.foldl | split | simp only [Keeps.mk_iff]

theorem runIng_keeps {fr : Frame} {s₀ : State} {o : Op} {go : Job → State → State} {s : State} (hgo : ∀ y0 y1, Keeps fr s₀ y1 → Keeps fr s₀ (go y0 y1)) (hK : Keeps fr s₀ s) :
    Keeps fr s₀ (runIng o go s) := by
  unfold runIng; try dsimp only
  repeat' first
    | with_reducible assumption | intro _ | with_reducible apply hgo | with_reducible apply startIng_keeps
    | with_reducible apply Keeps.foldl | split | simp only [Keeps.mk_iff]

theorem startPlan_keeps {fr : Frame} {s₀ : State} {j : Job} {s : State} (hK : Keeps fr s₀ s) :
    Keeps fr s₀ (startPlan j s) := by
  unfold startPlan; try dsimp only
  repeat' first
    | with_reducible assumption | intro _ | with_reducible apply fetchJob_keeps
    | with_reducible apply refuseJob_keeps | with_reducible apply Keeps.foldl | split

theorem execIngPlan_keeps {fr : Frame} {s₀ : State} {s : State} (hK : Keeps fr s₀ s) {t} (e : execIngPlan s = .next t) :
    Keeps fr s₀ t := by
  unfold execIngPlan at e
  obtain rfl := Host.Outcome.next.inj e
  try dsimp only
  repeat' first
    | with_reducible assumption | intro _ | with_reducible apply runIng_keeps
    | with_reducible apply startPlan_keeps

theorem planFetched_keeps {fr : Frame} {s₀ : State} {j : Job} {b : Bytes} {s : State} (hK : Keeps fr s₀ s) :
    Keeps fr s₀ (planFetched j b s) := by
  unfold planFetched; try dsimp only
  repeat' first
    | with_reducible assumption | intro _ | with_reducible apply decideJob_keeps
    | with_reducible apply failJob_keeps | with_reducible apply State.modPlan_keeps
    | with_reducible apply refuseJob_keeps | with_reducible apply Keeps.foldl | split

theorem startPlanFree_keeps {fr : Frame} {s₀ : State} {j : Job} {s : State} (hK : Keeps fr s₀ s) :
    Keeps fr s₀ (startPlanFree j s) := by
  unfold startPlanFree; try dsimp only
  repeat' first
    | with_reducible assumption | intro _ | with_reducible apply decideJob_keeps
    | with_reducible apply freePlan_keeps | with_reducible apply refuseJob_keeps
    | with_reducible apply Keeps.foldl | split

theorem execIngPlanFree_keeps {fr : Frame} {s₀ : State} {s : State} (hK : Keeps fr s₀ s) {t} (e : execIngPlanFree s = .next t) :
    Keeps fr s₀ t := by
  unfold execIngPlanFree at e
  obtain rfl := Host.Outcome.next.inj e
  try dsimp only
  repeat' first
    | with_reducible assumption | intro _ | with_reducible apply runIng_keeps
    | with_reducible apply startPlanFree_keeps

theorem startShardInfo_keeps {fr : Frame} {s₀ : State} {j : Job} {s : State} (hK : Keeps fr s₀ s) :
    Keeps fr s₀ (startShardInfo j s) := by
  unfold startShardInfo; try dsimp only
  repeat' first
    | with_reducible assumption | intro _ | with_reducible apply refuseJob_keeps
    | with_reducible apply storeJob_keeps | with_reducible apply Keeps.foldl | split

theorem execIngShardInfo_keeps {fr : Frame} {s₀ : State} {s : State} (hK : Keeps fr s₀ s) {t} (e : execIngShardInfo s = .next t) :
    Keeps fr s₀ t := by
  unfold execIngShardInfo at e
  obtain rfl := Host.Outcome.next.inj e
  try dsimp only
  repeat' first
    | with_reducible assumption | intro _ | with_reducible apply runIng_keeps
    | with_reducible apply startShardInfo_keeps

theorem startSweepSet_keeps {fr : Frame} {s₀ : State} {j : Job} {s : State} (hK : Keeps fr s₀ s) :
    Keeps fr s₀ (startSweepSet j s) := by
  unfold startSweepSet; try dsimp only
  repeat' first
    | with_reducible assumption | intro _ | with_reducible apply decideJob_keeps
    | with_reducible apply refuseJob_keeps | with_reducible apply Keeps.foldl | split | simp only [Keeps.mk_iff]

theorem execIngSweepSet_keeps {fr : Frame} {s₀ : State} {s : State} (hK : Keeps fr s₀ s) {t} (e : execIngSweepSet s = .next t) :
    Keeps fr s₀ t := by
  unfold execIngSweepSet at e
  obtain rfl := Host.Outcome.next.inj e
  try dsimp only
  repeat' first
    | with_reducible assumption | intro _ | with_reducible apply runIng_keeps
    | with_reducible apply startSweepSet_keeps

theorem startKeyDrop_keeps {fr : Frame} {s₀ : State} {j : Job} {s : State} (hK : Keeps fr s₀ s) :
    Keeps fr s₀ (startKeyDrop j s) := by
  unfold startKeyDrop; try dsimp only
  repeat' first
    | with_reducible assumption | intro _ | with_reducible apply decideJob_keeps
    | with_reducible apply refuseJob_keeps | with_reducible apply zeroModelKeys_keeps
    | with_reducible apply Keeps.foldl | split

theorem execIngKeyDrop_keeps {fr : Frame} {s₀ : State} {s : State} (hK : Keeps fr s₀ s) {t} (e : execIngKeyDrop s = .next t) :
    Keeps fr s₀ t := by
  unfold execIngKeyDrop at e
  obtain rfl := Host.Outcome.next.inj e
  try dsimp only
  repeat' first
    | with_reducible assumption | intro _ | with_reducible apply runIng_keeps
    | with_reducible apply startKeyDrop_keeps

theorem startLoad_keeps {fr : Frame} {s₀ : State} {j : Job} {s : State} (hK : Keeps fr s₀ s) :
    Keeps fr s₀ (startLoad j s) := by
  unfold startLoad; try dsimp only
  repeat' first
    | with_reducible assumption | intro _ | with_reducible apply failLoad_keeps
    | with_reducible apply fetchJob_keeps | with_reducible apply State.modPlan_keeps
    | with_reducible apply refuseJob_keeps | with_reducible apply Keeps.foldl | split | simp only [Keeps.mk_iff]

theorem execIngLoad_keeps {fr : Frame} {s₀ : State} {s : State} (hK : Keeps fr s₀ s) {t} (e : execIngLoad s = .next t) :
    Keeps fr s₀ t := by
  unfold execIngLoad at e
  obtain rfl := Host.Outcome.next.inj e
  try dsimp only
  repeat' first
    | with_reducible assumption | intro _ | with_reducible apply runIng_keeps
    | with_reducible apply startLoad_keeps

theorem advanceLoad_keeps {fr : Frame} {s₀ : State} {job : Nat} {f : Load → Load} {s : State} (hK : Keeps fr s₀ s) :
    Keeps fr s₀ (advanceLoad job f s) := by
  unfold advanceLoad; try dsimp only
  repeat' first
    | with_reducible assumption | intro _ | with_reducible apply setLoad_keeps | with_reducible apply Keeps.foldl
    | split

theorem haveModelKey_keeps {fr : Frame} {s₀ : State} {l : Load} {key : Bytes} {s : State} (hK : Keeps fr s₀ s) :
    Keeps fr s₀ (haveModelKey l key s) := by
  unfold haveModelKey; try dsimp only
  repeat' first | with_reducible assumption | intro _ | with_reducible apply sendStream_keeps

theorem findModelKey_keeps {fr : Frame} {s₀ : State} {j : Job} {l : Load} {s : State} (hK : Keeps fr s₀ s) :
    Keeps fr s₀ (findModelKey j l s) := by
  unfold findModelKey; try dsimp only
  repeat' first
    | with_reducible assumption | intro _ | with_reducible apply failLoad_keeps
    | with_reducible apply haveModelKey_keeps | with_reducible apply nestedPke_keeps
    | with_reducible apply setLoad_keeps | with_reducible apply useModelKey_keeps
    | with_reducible apply Keeps.foldl | split

theorem envelopeFetched_keeps {fr : Frame} {s₀ : State} {j : Job} {b : Bytes} {s : State} (hK : Keeps fr s₀ s) :
    Keeps fr s₀ (envelopeFetched j b s) := by
  unfold envelopeFetched; try dsimp only
  repeat' first
    | with_reducible assumption | intro _ | with_reducible apply failLoad_keeps
    | with_reducible apply nestedPke_keeps | with_reducible apply setLoad_keeps | with_reducible apply Keeps.foldl
    | split

theorem storeModelKey_keeps {fr : Frame} {s₀ : State} {l : Load} {mk : Bytes} {s : State} (hK : Keeps fr s₀ s) :
    Keeps fr s₀ (storeModelKey l mk s) := by
  unfold storeModelKey; try dsimp only
  repeat' first
    | with_reducible assumption | intro _ | with_reducible apply useModelKey_keeps
    | with_reducible apply Keeps.foldl | split

theorem unwrapModelKey_keeps {fr : Frame} {s₀ : State} {l : Load} {s : State} (hK : Keeps fr s₀ s) :
    Keeps fr s₀ (unwrapModelKey l s) := by
  unfold unwrapModelKey; try dsimp only
  repeat' first
    | with_reducible assumption | intro _ | with_reducible apply failLoad_keeps
    | with_reducible apply haveModelKey_keeps | with_reducible apply storeModelKey_keeps
    | with_reducible apply Keeps.foldl | split

theorem freeBlocks_keeps {fr : Frame} {s₀ : State} {j : Job} {s : State} (hK : Keeps fr s₀ s) :
    Keeps fr s₀ (freeBlocks j s) := by
  unfold freeBlocks; try dsimp only
  repeat' first
    | with_reducible assumption | intro _ | with_reducible apply setJob_keeps | with_reducible apply settle_keeps

theorem loadPkeDone_keeps {fr : Frame} {s₀ : State} {j : Job} {s : State} (hK : Keeps fr s₀ s) :
    Keeps fr s₀ (loadPkeDone j s) := by
  unfold loadPkeDone; try dsimp only
  repeat' first
    | with_reducible assumption | intro _ | with_reducible apply failLoad_keeps
    | with_reducible apply findModelKey_keeps | with_reducible apply freeBlocks_keeps
    | with_reducible apply unwrapModelKey_keeps | with_reducible apply Keeps.foldl | split

theorem submitLeaves_keeps {fr : Frame} {s₀ : State} {l : Load} {s : State} (hK : Keeps fr s₀ s) :
    Keeps fr s₀ (submitLeaves l s) := by
  unfold submitLeaves; try dsimp only
  repeat' first
    | with_reducible assumption | intro _ | with_reducible apply submitUnit_keeps
    | with_reducible apply Keeps.foldl

theorem closeLoad_keeps {fr : Frame} {s₀ : State} {l : Load} {s : State} (hK : Keeps fr s₀ s) :
    Keeps fr s₀ (closeLoad l s) := by
  unfold closeLoad; try dsimp only
  repeat' first
    | with_reducible assumption | intro _ | with_reducible apply carryG_keeps
    | with_reducible apply dropLoad_keeps | with_reducible apply failLoad_keeps
    | with_reducible apply finishJob_keeps | with_reducible apply State.modPlan_keeps
    | with_reducible apply Keeps.foldl | split

theorem foldChunks_keeps {fr : Frame} {s₀ : State} {job : Nat} {s : State} (hK : Keeps fr s₀ s) :
    Keeps fr s₀ (foldChunks job s) := by
  unfold foldChunks; try dsimp only
  repeat' first
    | with_reducible assumption | intro _ | with_reducible apply closeLoad_keeps
    | with_reducible apply setLoad_keeps | with_reducible apply submitLeaves_keeps
    | with_reducible apply Keeps.foldl | split

theorem tagFailed_keeps {fr : Frame} {s₀ : State} {l : Load} {s : State} (hK : Keeps fr s₀ s) :
    Keeps fr s₀ (tagFailed l s) := by
  unfold tagFailed; try dsimp only
  repeat' first
    | with_reducible assumption | intro _ | with_reducible apply failLoad_keeps | with_reducible apply Keeps.foldl
    | split | simp only [Keeps.mk_iff]

theorem writeChunk_keeps {fr : Frame} {s₀ : State} {l : Load} {c : Chunk} {cell : Cell} {plain : Bytes} {s : State} (hK : Keeps fr s₀ s) :
    Keeps fr s₀ (writeChunk l c cell plain s) := by
  unfold writeChunk; try dsimp only
  repeat' first
    | with_reducible assumption | intro _ | with_reducible apply emit_keeps | with_reducible apply setLoad_keeps
    | with_reducible apply submitLeaves_keeps | with_reducible apply Keeps.foldl | split
    | simp only [Keeps.mk_iff]

theorem chunkDone_keeps {fr : Frame} {s₀ : State} {job i : Nat} {cell : Cell} {wrong : Bool} {s : State} (hK : Keeps fr s₀ s) :
    Keeps fr s₀ (chunkDone job i cell wrong s) := by
  unfold chunkDone; try dsimp only
  repeat' first
    | with_reducible assumption | intro _ | with_reducible apply submitUnit_keeps
    | with_reducible apply tagFailed_keeps | with_reducible apply writeChunk_keeps
    | with_reducible apply Keeps.foldl | split

theorem chunkAgainDone_keeps {fr : Frame} {s₀ : State} {job i : Nat} {cell : Cell} {wrong : Bool} {s : State} (hK : Keeps fr s₀ s) :
    Keeps fr s₀ (chunkAgainDone job i cell wrong s).1 := by
  unfold chunkAgainDone; try dsimp only
  repeat' first
    | with_reducible assumption | intro _ | with_reducible apply tagFailed_keeps
    | with_reducible apply writeChunk_keeps | with_reducible apply Keeps.foldl | split

theorem leafDone_keeps {fr : Frame} {s₀ : State} {job i : Nat} {s : State} (hK : Keeps fr s₀ s) :
    Keeps fr s₀ (leafDone job i s) := by
  unfold leafDone; try dsimp only
  repeat' first
    | with_reducible assumption | intro _ | with_reducible apply foldChunks_keeps
    | with_reducible apply setLoad_keeps | with_reducible apply Keeps.foldl | split

theorem dropChunk_keeps {fr : Frame} {s₀ : State} {tag : BitVec 16} {s : State} (hK : Keeps fr s₀ s) :
    Keeps fr s₀ (dropChunk tag s) := by
  unfold dropChunk; try dsimp only
  repeat' first
    | with_reducible assumption | intro _ | with_reducible apply missingChunk_keeps
    | with_reducible apply record_keeps | with_reducible apply setLoad_keeps | with_reducible apply Keeps.foldl
    | split | simp only [Keeps.mk_iff]

theorem takeChunk_keeps {fr : Frame} {s₀ : State} {tag : BitVec 16} {first : Bool} {beats : Nat} {data : Bytes} {s : State} (hK : Keeps fr s₀ s) :
    Keeps fr s₀ (takeChunk tag first beats data s) := by
  unfold takeChunk; try dsimp only
  repeat' first
    | with_reducible assumption | intro _ | with_reducible apply dropChunk_keeps
    | with_reducible apply setLoad_keeps | with_reducible apply submitUnit_keeps
    | with_reducible apply Keeps.foldl | split

theorem execStreamChunk_keeps {fr : Frame} {s₀ : State} {_lane : Lane} {tag : BitVec 16} {first : Bool} {beats : Nat} {data : Bytes} {s : State} (hK : Keeps fr s₀ s) {t} (e : execStreamChunk _lane tag first beats data s = .next t) :
    Keeps fr s₀ t := by
  unfold execStreamChunk at e
  obtain rfl := Host.Outcome.next.inj e
  try dsimp only
  repeat' first
    | with_reducible assumption | intro _ | with_reducible apply takeChunk_keeps
    | with_reducible apply Keeps.foldl | split

theorem hbmAck_keeps {fr : Frame} {s₀ : State} {k : Lane} {err : Bool} {s : State} (hK : Keeps fr s₀ s) :
    Keeps fr s₀ (hbmAck k err s) := by
  unfold hbmAck; try dsimp only
  repeat' first
    | with_reducible assumption | intro _ | with_reducible apply failLoad_keeps
    | with_reducible apply foldChunks_keeps | with_reducible apply record_keeps
    | with_reducible apply setLoad_keeps | with_reducible apply Keeps.foldl | split | simp only [Keeps.mk_iff]

theorem execHbmWriteAck_keeps {fr : Frame} {s₀ : State} {k : Lane} {err : Bool} {s : State} (hK : Keeps fr s₀ s) {t} (e : execHbmWriteAck k err s = .next t) :
    Keeps fr s₀ t := by
  unfold execHbmWriteAck at e
  obtain rfl := Host.Outcome.next.inj e
  try dsimp only
  repeat' first
    | with_reducible assumption | intro _ | with_reducible apply hbmAck_keeps | with_reducible apply Keeps.foldl
    | split

theorem execIngestChunkTimeout_keeps {fr : Frame} {s₀ : State} {tag : BitVec 16} {s : State} (hK : Keeps fr s₀ s) {t} (e : execIngestChunkTimeout tag s = .next t) :
    Keeps fr s₀ t := by
  unfold execIngestChunkTimeout at e
  obtain rfl := Host.Outcome.next.inj e
  try dsimp only
  repeat' first
    | with_reducible assumption | intro _ | with_reducible apply missingChunk_keeps
    | with_reducible apply Keeps.foldl | split

theorem loadOutOfCells_keeps {fr : Frame} {s₀ : State} {job : Nat} {st : Status} {s : State} (hK : Keeps fr s₀ s) :
    Keeps fr s₀ (loadOutOfCells job st s) := by
  unfold loadOutOfCells; try dsimp only
  repeat' first
    | with_reducible assumption | intro _ | with_reducible apply failLoad_keeps | with_reducible apply Keeps.foldl
    | split

theorem abandonPass_keeps {fr : Frame} {s₀ : State} {s : State} (hK : Keeps fr s₀ s) :
    Keeps fr s₀ (abandonPass s) := by
  unfold abandonPass; try dsimp only
  repeat' first
    | with_reducible assumption | intro _ | with_reducible apply dropUnits_keeps
    | with_reducible apply Keeps.foldl | split | simp only [Keeps.mk_iff]

theorem checkPass_keeps {fr : Frame} {s₀ : State} {s : State} (hK : Keeps fr s₀ s) : Keeps fr s₀ (checkPass s) := by
  unfold checkPass; try dsimp only
  repeat' first
    | with_reducible assumption | intro _ | with_reducible apply abandonPass_keeps
    | with_reducible apply Keeps.foldl | split

theorem sweepRead_keeps {fr : Frame} {s₀ : State} {s : State} (hK : Keeps fr s₀ s) : Keeps fr s₀ (sweepRead s) := by
  unfold sweepRead; try dsimp only
  repeat' first
    | with_reducible assumption | intro _ | with_reducible apply emit_keeps | with_reducible apply Keeps.foldl
    | split | simp only [Keeps.mk_iff]

theorem beginPass_keeps {fr : Frame} {s₀ : State} {s : State} (hK : Keeps fr s₀ s) : Keeps fr s₀ (beginPass s) := by
  unfold beginPass; try dsimp only
  repeat' first
    | with_reducible assumption | intro _ | with_reducible apply Keeps.foldl | split | simp only [Keeps.mk_iff]

theorem addCredit_keeps {fr : Frame} {s₀ : State} {s : State} (hK : Keeps fr s₀ s) : Keeps fr s₀ (addCredit s) := by
  unfold addCredit; try dsimp only
  repeat' first
    | with_reducible assumption | intro _ | with_reducible apply Keeps.foldl | split | simp only [Keeps.mk_iff]

theorem execSweepCredit_keeps {fr : Frame} {s₀ : State} {s : State} (hK : Keeps fr s₀ s) {t} (e : execSweepCredit s = .next t) :
    Keeps fr s₀ t := by
  unfold execSweepCredit at e
  obtain rfl := Host.Outcome.next.inj e
  try dsimp only
  repeat' first
    | with_reducible assumption | intro _ | with_reducible apply addCredit_keeps
    | with_reducible apply beginPass_keeps | with_reducible apply checkPass_keeps
    | with_reducible apply sweepRead_keeps | with_reducible apply Keeps.foldl | split

theorem quarantine_keeps {fr : Frame} {s₀ : State} {i : PlanIx} {s : State} (hK : Keeps fr s₀ s) :
    Keeps fr s₀ (quarantine i s) := by
  unfold quarantine; try dsimp only
  repeat' first
    | with_reducible assumption | intro _ | with_reducible apply advanceG_keeps
    | with_reducible apply hwNote_keeps | with_reducible apply raiseCore_keeps | with_reducible apply record_keeps
    | with_reducible apply stopLoads_keeps | with_reducible apply Keeps.foldl | split | simp only [Keeps.mk_iff]

theorem endPass_keeps {fr : Frame} {s₀ : State} {p : Pass} {r : SweepResult} {s : State} (hK : Keeps fr s₀ s) :
    Keeps fr s₀ (endPass p r s) := by
  unfold endPass; try dsimp only
  repeat' first
    | with_reducible assumption | intro _ | with_reducible apply dropUnits_keeps
    | with_reducible apply State.modPlan_keeps | with_reducible apply quarantine_keeps
    | with_reducible apply Keeps.foldl | split | simp only [Keeps.mk_iff]

theorem submitSweep_keeps {fr : Frame} {s₀ : State} {s : State} (hK : Keeps fr s₀ s) :
    Keeps fr s₀ (submitSweep s) := by
  unfold submitSweep; try dsimp only
  repeat' first
    | with_reducible assumption | intro _ | with_reducible apply submitUnit_keeps
    | with_reducible apply Keeps.foldl | split

theorem sweepData_keeps {fr : Frame} {s₀ : State} {chunk : Bytes} {s : State} (hK : Keeps fr s₀ s) :
    Keeps fr s₀ (sweepData chunk s) := by
  unfold sweepData; try dsimp only
  repeat' first
    | with_reducible assumption | intro _ | with_reducible apply checkPass_keeps
    | with_reducible apply submitSweep_keeps | with_reducible apply Keeps.foldl | split | simp only [Keeps.mk_iff]

theorem execSweepReadData_keeps {fr : Frame} {s₀ : State} {chunk : Bytes} {s : State} (hK : Keeps fr s₀ s) {t} (e : execSweepReadData chunk s = .next t) :
    Keeps fr s₀ t := by
  unfold execSweepReadData at e
  obtain rfl := Host.Outcome.next.inj e
  try dsimp only
  repeat' first
    | with_reducible assumption | intro _ | with_reducible apply sweepData_keeps
    | with_reducible apply Keeps.foldl | split

theorem sweepError_keeps {fr : Frame} {s₀ : State} {s : State} (hK : Keeps fr s₀ s) : Keeps fr s₀ (sweepError s) := by
  unfold sweepError; try dsimp only
  repeat' first
    | with_reducible assumption | intro _ | with_reducible apply checkPass_keeps
    | with_reducible apply endPass_keeps | with_reducible apply Keeps.foldl | split | simp only [Keeps.mk_iff]

theorem execSweepReadError_keeps {fr : Frame} {s₀ : State} {s : State} (hK : Keeps fr s₀ s) {t} (e : execSweepReadError s = .next t) :
    Keeps fr s₀ t := by
  unfold execSweepReadError at e
  obtain rfl := Host.Outcome.next.inj e
  try dsimp only
  repeat' first
    | with_reducible assumption | intro _ | with_reducible apply sweepError_keeps
    | with_reducible apply Keeps.foldl | split

theorem sweepLeafDone_keeps {fr : Frame} {s₀ : State} {s : State} (hK : Keeps fr s₀ s) :
    Keeps fr s₀ (sweepLeafDone s) := by
  unfold sweepLeafDone; try dsimp only
  repeat' first
    | with_reducible assumption | intro _ | with_reducible apply checkPass_keeps
    | with_reducible apply endPass_keeps | with_reducible apply submitSweep_keeps
    | with_reducible apply Keeps.foldl | split | simp only [Keeps.mk_iff]

theorem failAllLoads_keeps {fr : Frame} {s₀ : State} {s : State} (hK : Keeps fr s₀ s) :
    Keeps fr s₀ (failAllLoads s) := by
  unfold failAllLoads; try dsimp only
  repeat' first
    | with_reducible assumption | intro _ | with_reducible apply failLoad_keeps | with_reducible apply Keeps.foldl

theorem lanesGone_keeps {fr : Frame} {s₀ : State} {s : State} (hK : Keeps fr s₀ s) : Keeps fr s₀ (lanesGone s) := by
  unfold lanesGone; try dsimp only
  repeat' first
    | with_reducible assumption | intro _ | with_reducible apply abandonPass_keeps
    | with_reducible apply failLoad_keeps | with_reducible apply Keeps.foldl | split

theorem clearIngDrop_keeps {fr : Frame} {s₀ : State} {s : State} (hK : Keeps fr s₀ s) :
    Keeps fr s₀ (clearIngDrop s) := by
  unfold clearIngDrop; try dsimp only
  repeat' first
    | with_reducible assumption | intro _ | with_reducible apply Keeps.foldl | split | simp only [Keeps.mk_iff]

/-! ## SeatReset -/

theorem stopWork_keeps {fr : Frame} {s₀ : State} {j : Job} {s : State} (hK : Keeps fr s₀ s) :
    Keeps fr s₀ (stopWork j s) := by
  unfold stopWork; try dsimp only
  repeat' first
    | with_reducible assumption | intro _ | with_reducible apply countAborted_keeps
    | with_reducible apply dropUnits_keeps | with_reducible apply State.modMsg_keeps
    | with_reducible apply placeWaiting_keeps | with_reducible apply Keeps.foldl | split
    | simp only [Keeps.mk_iff]

theorem abortJob_keeps {fr : Frame} {s₀ : State} {j : Job} {s : State} (hK : Keeps fr s₀ s) :
    Keeps fr s₀ (abortJob j s) := by
  unfold abortJob; try dsimp only
  repeat' first
    | with_reducible assumption | intro _ | with_reducible apply finishJob_keeps
    | with_reducible apply pumpContexts_keeps | with_reducible apply stopLoad_keeps
    | with_reducible apply stopWork_keeps | with_reducible apply Keeps.foldl | split

theorem detachJob_keeps {fr : Frame} {s₀ : State} {j : Job} {s : State} (hK : Keeps fr s₀ s) :
    Keeps fr s₀ (detachJob j s) := by
  unfold detachJob; try dsimp only
  repeat' first
    | with_reducible assumption | intro _ | with_reducible apply abortJob_keeps
    | with_reducible apply removeJob_keeps | with_reducible apply setJob_keeps | with_reducible apply settle_keeps
    | with_reducible apply Keeps.foldl | split

theorem endStage_keeps {fr : Frame} {s₀ : State} {n : Seat} {s : State} (hK : Keeps fr s₀ s) :
    Keeps fr s₀ (endStage n s) := by
  unfold endStage; try dsimp only
  repeat' first
    | with_reducible assumption | intro _ | with_reducible apply Keeps.foldl | split | simp only [Keeps.mk_iff]

theorem resetSeat_keeps {fr : Frame} {s₀ : State} {n : Seat} {s : State} (hK : Keeps fr s₀ s) :
    Keeps fr s₀ (resetSeat n s) := by
  unfold resetSeat; try dsimp only
  repeat' first
    | with_reducible assumption | intro _ | with_reducible apply clearSeatDig_keeps
    | with_reducible apply closeProf_keeps | with_reducible apply detachJob_keeps
    | with_reducible apply endBuild_keeps | with_reducible apply endRole_keeps
    | with_reducible apply endStage_keeps | with_reducible apply modAuth_keeps
    | with_reducible apply State.modSeat_keeps | with_reducible apply Keeps.foldl | split

/-! ## Records -/

theorem repairTorn_keeps {fr : Frame} [Fact (fr.heartwood = false)] {s₀ : State} {ix : Nat} {s : State} (hK : Keeps fr s₀ s) :
    Keeps fr s₀ (repairTorn ix s) :=
  Keeps.heartWrite hK ix _ s.draws rfl rfl

theorem replayMap_keeps {fr : Frame} {s₀ : State} {s : State} (hK : Keeps fr s₀ s) : Keeps fr s₀ (replayMap s) := by
  unfold replayMap; try dsimp only
  repeat' first
    | with_reducible assumption | intro _ | with_reducible apply State.modCell_keeps
    | with_reducible apply Keeps.foldl | split

theorem repairFound_keeps {fr : Frame} [Fact (fr.heartwood = false)] {s₀ : State} {o : Option Nat} {s : State} (hK : Keeps fr s₀ s) :
    Keeps fr s₀ (repairFound o s) := by
  unfold repairFound; try dsimp only
  repeat' first
    | with_reducible assumption | intro _ | with_reducible apply repairTorn_keeps
    | with_reducible apply Keeps.foldl | split | simp only [Keeps.mk_iff]

theorem hwPowerOn_keeps {fr : Frame} [Fact (fr.heartwood = false)] {s₀ : State} {s : State} (hK : Keeps fr s₀ s) :
    Keeps fr s₀ (hwPowerOn s) := by
  unfold hwPowerOn; try dsimp only
  repeat' first
    | with_reducible assumption | intro _ | with_reducible apply repairFound_keeps
    | with_reducible apply replayMap_keeps | with_reducible apply Keeps.foldl | split | simp only [Keeps.mk_iff]

theorem execHeartwoodWrite_keeps {fr : Frame} [Fact (fr.heartwood = false)] {s₀ : State} {failedReadBacks : Nat} {s : State} (hK : Keeps fr s₀ s) {t} (e : execHeartwoodWrite failedReadBacks s = .next t) :
    Keeps fr s₀ t := by
  unfold execHeartwoodWrite at e
  obtain rfl := Host.Outcome.next.inj e
  try dsimp only
  repeat' first
    | with_reducible assumption | intro _ | with_reducible apply hwWrite_keeps | with_reducible apply Keeps.foldl
    | split | simp only [Keeps.mk_iff]

theorem execHeartwoodChainCheck_keeps {fr : Frame} {s₀ : State} {s : State} (hK : Keeps fr s₀ s) {t} (e : execHeartwoodChainCheck s = .next t) :
    Keeps fr s₀ t := by
  unfold execHeartwoodChainCheck at e; try dsimp only at e
  (repeat' split at e) <;> first | contradiction | (cases e)
  all_goals
    repeat' first
      | with_reducible assumption | intro _ | with_reducible apply hwCondition_keeps
      | with_reducible apply hwNote_keeps | with_reducible apply Keeps.foldl | split | simp only [Keeps.mk_iff]

theorem startRecRead_keeps {fr : Frame} {s₀ : State} {j : Job} {s : State} (hK : Keeps fr s₀ s) :
    Keeps fr s₀ (startRecRead j s) := by
  unfold startRecRead; try dsimp only
  repeat' first
    | with_reducible assumption | intro _ | with_reducible apply refuseJob_keeps
    | with_reducible apply storeJob_keeps | with_reducible apply Keeps.foldl | split

theorem execRecRead_keeps {fr : Frame} {s₀ : State} {s : State} (hK : Keeps fr s₀ s) {t} (e : execRecRead s = .next t) :
    Keeps fr s₀ t := by
  unfold execRecRead at e
  obtain rfl := Host.Outcome.next.inj e
  try dsimp only
  repeat' first
    | with_reducible assumption | intro _ | with_reducible apply runJob_keeps
    | with_reducible apply startRecRead_keeps

theorem clearRecorder_keeps {fr : Frame} {s₀ : State} {n : Seat} {s : State} (hK : Keeps fr s₀ s) :
    Keeps fr s₀ (clearRecorder n s) :=
  record_keeps (Keeps.write hK rfl rfl id rfl id rfl (fun _ => Nat.zero_le _))

theorem startRecClear_keeps {fr : Frame} {s₀ : State} {j : Job} {s : State} (hK : Keeps fr s₀ s) :
    Keeps fr s₀ (startRecClear j s) := by
  unfold startRecClear; try dsimp only
  repeat' first
    | with_reducible assumption | intro _ | with_reducible apply clearRecorder_keeps
    | with_reducible apply decideJob_keeps | with_reducible apply refuseJob_keeps
    | with_reducible apply Keeps.foldl | split

theorem execRecClear_keeps {fr : Frame} {s₀ : State} {s : State} (hK : Keeps fr s₀ s) {t} (e : execRecClear s = .next t) :
    Keeps fr s₀ t := by
  unfold execRecClear at e
  obtain rfl := Host.Outcome.next.inj e
  try dsimp only
  repeat' first
    | with_reducible assumption | intro _ | with_reducible apply runJob_keeps
    | with_reducible apply startRecClear_keeps

theorem startRecHwRead_keeps {fr : Frame} {s₀ : State} {j : Job} {s : State} (hK : Keeps fr s₀ s) :
    Keeps fr s₀ (startRecHwRead j s) := by
  unfold startRecHwRead; try dsimp only
  repeat' first
    | with_reducible assumption | intro _ | with_reducible apply refuseJob_keeps
    | with_reducible apply storeJob_keeps | with_reducible apply Keeps.foldl | split

theorem execRecHwRead_keeps {fr : Frame} {s₀ : State} {s : State} (hK : Keeps fr s₀ s) {t} (e : execRecHwRead s = .next t) :
    Keeps fr s₀ t := by
  unfold execRecHwRead at e
  obtain rfl := Host.Outcome.next.inj e
  try dsimp only
  repeat' first
    | with_reducible assumption | intro _ | with_reducible apply runJob_keeps
    | with_reducible apply startRecHwRead_keeps

theorem startRetest_keeps {fr : Frame} {s₀ : State} {j : Job} {s : State} (hK : Keeps fr s₀ s) :
    Keeps fr s₀ (startRetest j s) := by
  unfold startRetest; try dsimp only
  repeat' first
    | with_reducible assumption | intro _ | with_reducible apply State.modCell_keeps
    | with_reducible apply refuseJob_keeps | with_reducible apply Keeps.foldl | split

theorem execRecRetest_keeps {fr : Frame} {s₀ : State} {s : State} (hK : Keeps fr s₀ s) {t} (e : execRecRetest s = .next t) :
    Keeps fr s₀ t := by
  unfold execRecRetest at e
  obtain rfl := Host.Outcome.next.inj e
  try dsimp only
  repeat' first
    | with_reducible assumption | intro _ | with_reducible apply runJob_keeps
    | with_reducible apply startRetest_keeps

theorem endRetest_keeps {fr : Frame} {s₀ : State} {c : Cell} {id : Nat} {failed : BitVec 8} {s : State} (hK : Keeps fr s₀ s) :
    Keeps fr s₀ (endRetest c id failed s) := by
  unfold endRetest; try dsimp only
  repeat' first
    | with_reducible assumption | intro _ | with_reducible apply decideJob_keeps
    | with_reducible apply hwQueue_keeps | with_reducible apply State.modCell_keeps
    | with_reducible apply placeWaiting_keeps | with_reducible apply record_keeps
    | with_reducible apply Keeps.foldl | split

theorem failRetests_keeps {fr : Frame} {s₀ : State} {e : Engine} {s : State} (hK : Keeps fr s₀ s) :
    Keeps fr s₀ (failRetests e s) := by
  unfold failRetests; try dsimp only
  repeat' first
    | with_reducible assumption | intro _ | with_reducible apply finishJob_keeps
    | with_reducible apply State.modCell_keeps | with_reducible apply Keeps.foldl | split

/-! ## Boot -/

theorem applyConfig_keeps {fr : Frame} {s₀ : State} {s : State} (hK : Keeps fr s₀ s) :
    Keeps fr s₀ (applyConfig s) := by
  unfold applyConfig; try dsimp only
  repeat' first
    | with_reducible assumption | intro _ | with_reducible apply setPolicy_keeps
    | with_reducible apply Keeps.foldl | split | simp only [Keeps.mk_iff]

theorem chooseRecord_keeps {fr : Frame} {s₀ : State} {s : State} (hK : Keeps fr s₀ s) :
    Keeps fr s₀ (chooseRecord s) := by
  unfold chooseRecord; try dsimp only
  repeat' first
    | with_reducible assumption | intro _ | with_reducible apply startNote_keeps
    | with_reducible apply Keeps.foldl | split | simp only [Keeps.mk_iff]

theorem loadMicrocode_keeps {fr : Frame} {s₀ : State} {rejects : BitVec 2} {s : State} (hK : Keeps fr s₀ s) :
    Keeps fr s₀ (loadMicrocode rejects s) := by
  unfold loadMicrocode; try dsimp only
  repeat' first
    | with_reducible assumption | intro _ | with_reducible apply Keeps.foldl | split | simp only [Keeps.mk_iff]

theorem programSlot_keeps {fr : Frame} [Fact (fr.flash = false)] {s₀ : State} {b : Bool} {st : SlotState} {s : State} (hK : Keeps fr s₀ s) :
    Keeps fr s₀ (programSlot b st s) := by
  unfold programSlot; try dsimp only
  repeat' first | with_reducible assumption | intro _ | with_reducible apply flashProgram_keeps

theorem clearTry_keeps {fr : Frame} [Fact (fr.flash = false)] {s₀ : State} {b : Bool} {s : State} (hK : Keeps fr s₀ s) :
    Keeps fr s₀ (clearTry b s) := by
  unfold clearTry; try dsimp only
  repeat' first | with_reducible assumption | intro _ | with_reducible apply flashProgram_keeps

theorem loadImage_keeps {fr : Frame} {s₀ : State} {b : Bool} {s : State} (hK : Keeps fr s₀ s) :
    Keeps fr s₀ (loadImage b s).1 := by
  unfold loadImage; try dsimp only
  repeat' first
    | with_reducible assumption | intro _ | with_reducible apply emit_keeps | with_reducible apply Keeps.foldl
    | split

theorem candidateFailed_keeps {fr : Frame} {s₀ : State} {b : Bool} {s : State} (hK : Keeps fr s₀ s) :
    Keeps fr s₀ (candidateFailed b s) := by
  unfold candidateFailed; try dsimp only
  repeat' first
    | with_reducible assumption | intro _ | with_reducible apply hwNote_keeps | with_reducible apply record_keeps

theorem decideTrial_keeps {fr : Frame} [Fact (fr.flash = false)] {s₀ : State} {peer : Bool} {bs : List Bool} {s : State} (hK :
    Keeps fr s₀ s) :
    Keeps fr s₀ (decideTrial peer bs s).2 := by
  refine Keeps.foldl_at Prod.snd ?_ hK
  intro a b h
  split
  · exact programSlot_keeps h
  · exact h

theorem decideConfirmed_keeps {fr : Frame} [Fact (fr.flash = false)] {s₀ : State} {bs : List Bool} {s : State} (hK :
    Keeps fr s₀ s) :
    Keeps fr s₀ (decideConfirmed bs s).2 := by
  refine Keeps.foldl_at Prod.snd ?_ hK
  intro a b h
  split
  · exact h
  · exact programSlot_keeps h

theorem slotDecision_keeps {fr : Frame} [Fact (fr.flash = false)] {s₀ : State} {s : State} (hK : Keeps fr s₀ s) :
    Keeps fr s₀ (slotDecision s).2 := by
  unfold slotDecision; try dsimp only
  repeat' first
    | with_reducible assumption | intro _ | with_reducible apply decideConfirmed_keeps
    | with_reducible apply decideTrial_keeps | with_reducible apply programSlot_keeps
    | with_reducible apply record_keeps | with_reducible apply Keeps.foldl | split

theorem releaseImage_keeps {fr : Frame} {s₀ : State} {c : Cand} {timer : Bool} {s : State} (hK : Keeps fr s₀ s) :
    Keeps fr s₀ (releaseImage c timer s) := by
  unfold releaseImage; try dsimp only
  repeat' first
    | with_reducible assumption | intro _ | with_reducible apply wakeNotices_keeps
    | with_reducible apply Keeps.foldl | split | simp only [Keeps.mk_iff]

theorem adoptImage_keeps {fr : Frame} {s₀ : State} {b : Bool} {s : State} (hK : Keeps fr s₀ s) :
    Keeps fr s₀ (adoptImage b s) := by
  unfold adoptImage; try dsimp only
  repeat' first
    | with_reducible assumption | intro _ | with_reducible apply Keeps.foldl | split | simp only [Keeps.mk_iff]

theorem noImage_keeps {fr : Frame} {s₀ : State} {s : State} (hK : Keeps fr s₀ s) : Keeps fr s₀ (noImage s) := by
  unfold noImage; try dsimp only
  repeat' first
    | with_reducible assumption | intro _ | with_reducible apply Keeps.foldl | split | simp only [Keeps.mk_iff]

theorem imageKeys_keeps {fr : Frame} {s₀ : State} {s : State} (hK : Keeps fr s₀ s) : Keeps fr s₀ (imageKeys s) := by
  unfold imageKeys; try dsimp only
  repeat' first
    | with_reducible assumption | intro _ | with_reducible apply deriveLayer1_keeps
    | with_reducible apply issueCert_keeps | with_reducible apply Keeps.foldl | split | simp only [Keeps.mk_iff]

theorem startKeys_keeps {fr : Frame} {s₀ : State} {s : State} (hK : Keeps fr s₀ s) : Keeps fr s₀ (startKeys s) := by
  unfold startKeys; try dsimp only
  repeat' first
    | with_reducible assumption | intro _ | with_reducible apply deriveFixed_keeps
    | with_reducible apply deriveLayer0_keeps | with_reducible apply issueCert_keeps
    | with_reducible apply startNote_keeps | with_reducible apply Keeps.foldl | split | simp only [Keeps.mk_iff]

theorem completeAdvance_keeps {fr : Frame} [Fact (fr.fuses = false)] [Fact (fr.flash = false)] {s₀ : State} {b : Bool} {ps : List Pulse} {s : State} (hK : Keeps fr s₀ s) :
    Keeps fr s₀ (completeAdvance b ps s).1 := by
  unfold completeAdvance; try dsimp only
  repeat' first
    | with_reducible assumption | intro _ | with_reducible apply burnNow_keeps
    | with_reducible apply programSlot_keeps | with_reducible apply raiseCore_keeps
    | with_reducible apply Keeps.foldl | split | simp only [Keeps.mk_iff]

theorem settleConfirmed_keeps {fr : Frame} [Fact (fr.fuses = false)] [Fact (fr.flash = false)] {s₀ : State} {b : Bool} {ps : List Pulse} {s : State} (hK : Keeps fr s₀ s) :
    Keeps fr s₀ (settleConfirmed b ps s).1 := by
  unfold settleConfirmed; try dsimp only
  repeat' first
    | with_reducible assumption | intro _ | with_reducible apply completeAdvance_keeps
    | with_reducible apply Keeps.foldl | split

theorem tryCandidates_keeps {fr : Frame} [Fact (fr.fuses = false)] [Fact (fr.flash = false)] {s₀ : State} {peer : Bool} {cs : List Cand} {ps : List Pulse} {s : State} (hK :
    Keeps fr s₀ s) :
    Keeps fr s₀ (tryCandidates peer cs ps s).1 := by
  induction cs generalizing s with
  | nil => exact hK
  | cons c cs ih =>
    have k0 : Keeps fr s₀ (if c.sapling && peer then clearTry c.slot s else s) := Keeps.ite (clearTry_keeps hK) hK
    have k := loadImage_keeps (b := c.slot) k0
    simp only [tryCandidates]
    generalize (if (c.sapling && peer) = true then clearTry c.slot s else s) = u at *
    split
    · rename_i e; rw [e] at k
      have k := adoptImage_keeps (b := c.slot) k
      split
      · exact k
      · exact settleConfirmed_keeps k
    · rename_i e; rw [e] at k
      apply ih
      have k := candidateFailed_keeps (b := c.slot) k
      exact Keeps.ite k (programSlot_keeps k)

theorem holdCores_keeps {fr : Frame} {s₀ : State} {s : State} (hK : Keeps fr s₀ s) : Keeps fr s₀ (holdCores s) := by
  unfold holdCores; try dsimp only
  repeat' first
    | with_reducible assumption | intro _ | with_reducible apply clearLayer1_keeps
    | with_reducible apply freeSeatSlots_keeps | with_reducible apply noImage_keeps
    | with_reducible apply resetSeat_keeps | with_reducible apply Keeps.foldl | split | simp only [Keeps.mk_iff]

theorem swapLoad_keeps {fr : Frame} {s₀ : State} {c : Cand} {timer : Bool} {s : State} (hK : Keeps fr s₀ s) :
    Keeps fr s₀ (swapLoad c timer s).1 := by
  unfold swapLoad; try dsimp only
  repeat' first
    | with_reducible assumption | intro _ | with_reducible apply adoptImage_keeps
    | with_reducible apply candidateFailed_keeps | with_reducible apply imageKeys_keeps
    | with_reducible apply loadImage_keeps | with_reducible apply raiseCore_keeps
    | with_reducible apply releaseImage_keeps | with_reducible apply Keeps.foldl | split
    | simp only [Keeps.mk_iff] | refine Keeps.of_snd ‹_› ?_ | refine Keeps.of_fst ‹_› ?_

theorem swapPeer_keeps {fr : Frame} [Fact (fr.flash = false)] {s₀ : State} {b : Bool} {s : State} (hK : Keeps fr s₀ s) :
    Keeps fr s₀ (swapPeer b s).1 := by
  unfold swapPeer; try dsimp only
  repeat' first
    | with_reducible assumption | intro _ | with_reducible apply programSlot_keeps
    | with_reducible apply swapLoad_keeps | with_reducible apply Keeps.foldl | split

theorem swapTo_end {fr : Frame} [Fact (fr.flash = false)] {s₀ : State} {b : Bool} {r : State × Bool} (k :
    Keeps fr s₀ r.1) :
    Keeps fr s₀ (if r.2 then (r.1, some b) else swapPeer b r.1).1 := by
  split
  · exact k
  · exact swapPeer_keeps k

theorem swapTo_keeps {fr : Frame} [Fact (fr.flash = false)] {s₀ : State} {c : Cand} {timer : Bool} {s : State} (hK :
    Keeps fr s₀ s) :
    Keeps fr s₀ (swapTo c timer s).1 := by
  unfold swapTo
  exact swapTo_end (swapLoad_keeps (advanceAllG_keeps (holdCores_keeps hK)))

theorem recoverCores_keeps {fr : Frame} [Fact (fr.flash = false)] {s₀ s : State} (hK : Keeps fr s₀ s) :
    Keeps fr s₀ (recoverCores s) := by
  unfold recoverCores
  split
  · exact hK
  · refine Keeps.foldl_at Prod.fst ?_ (slotDecision_keeps hK)
    intro a b h
    have k0 : Keeps fr s₀ (if (b.sapling && confirmedPeer s) = true then clearTry b.slot a.1 else a.1) :=
      Keeps.ite (clearTry_keeps h) h
    have k := swapLoad_keeps (c := b) (timer := b.sapling && confirmedPeer s) k0
    dsimp only
    generalize swapLoad b (b.sapling && confirmedPeer s)
      (if (b.sapling && confirmedPeer s) = true then clearTry b.slot a.1 else a.1) = r at *
    obtain ⟨t, ok⟩ := r
    dsimp only at k ⊢
    split
    · exact h
    · split
      · split
        · apply raiseCore_keeps; simp only [Keeps.mk_iff]; exact k
        · exact k
      · split
        · exact k
        · exact programSlot_keeps k

theorem confirmIgnored_keeps {fr : Frame} {s₀ : State} {n : Seat} {s : State} (hK : Keeps fr s₀ s) :
    Keeps fr s₀ (confirmIgnored n s) := by
  unfold confirmIgnored; try dsimp only
  repeat' first | with_reducible assumption | intro _ | with_reducible apply record_keeps

theorem finishConfirm_keeps {fr : Frame} [Fact (fr.flash = false)] {s₀ : State} {ok : Bool} {s : State} (hK : Keeps fr s₀ s) :
    Keeps fr s₀ (finishConfirm ok s) := by
  unfold finishConfirm; try dsimp only
  repeat' first
    | with_reducible assumption | intro _ | with_reducible apply hwNote_keeps
    | with_reducible apply programSlot_keeps | with_reducible apply raiseCore_keeps
    | with_reducible apply Keeps.foldl | split | simp only [Keeps.mk_iff]

theorem confirmNext_keeps {fr : Frame} [Fact (fr.flash = false)] {s₀ : State} {s : State} (hK : Keeps fr s₀ s) :
    Keeps fr s₀ (confirmNext s) := by
  unfold confirmNext; try dsimp only
  repeat' first
    | with_reducible assumption | intro _ | with_reducible apply finishConfirm_keeps
    | with_reducible apply queueBurn_keeps | with_reducible apply Keeps.foldl | split

theorem confirmBurned_keeps {fr : Frame} [Fact (fr.flash = false)] {s₀ : State} {e : BurnEnd} {s : State} (hK : Keeps fr s₀ s) :
    Keeps fr s₀ (confirmBurned e s) := by
  unfold confirmBurned; try dsimp only
  repeat' first
    | with_reducible assumption | intro _ | with_reducible apply advanceAllG_keeps
    | with_reducible apply confirmNext_keeps | with_reducible apply finishConfirm_keeps
    | with_reducible apply Keeps.foldl | split

theorem confirmWrite_keeps {fr : Frame} [Fact (fr.flash = false)] {s₀ : State} {n : Seat} {data : Word} {s : State} (hK : Keeps fr s₀ s) :
    Keeps fr s₀ (confirmWrite n data s) := by
  unfold confirmWrite; try dsimp only
  repeat' first
    | with_reducible assumption | intro _ | with_reducible apply confirmIgnored_keeps
    | with_reducible apply confirmNext_keeps | with_reducible apply programSlot_keeps
    | with_reducible apply Keeps.foldl | split | simp only [Keeps.mk_iff]

theorem trialReturn_keeps {fr : Frame} [Fact (fr.flash = false)] {s₀ : State} {s : State} (hK : Keeps fr s₀ s) :
    Keeps fr s₀ (trialReturn s) := by
  unfold trialReturn; try dsimp only
  repeat' first
    | with_reducible assumption | intro _ | with_reducible apply advanceAllG_keeps
    | with_reducible apply holdCores_keeps | with_reducible apply hwNote_keeps
    | with_reducible apply programSlot_keeps | with_reducible apply raiseCore_keeps
    | with_reducible apply record_keeps | with_reducible apply swapTo_keeps | with_reducible apply Keeps.foldl
    | split | simp only [Keeps.mk_iff]

theorem trialExpiry_keeps {fr : Frame} [Fact (fr.flash = false)] {s₀ : State} {s : State} (hK : Keeps fr s₀ s) :
    Keeps fr s₀ (trialExpiry s) := by
  unfold trialExpiry; try dsimp only
  repeat' first
    | with_reducible assumption | intro _ | with_reducible apply trialReturn_keeps
    | with_reducible apply Keeps.foldl | split | simp only [Keeps.mk_iff]

theorem execTrialTimerExpiry_keeps {fr : Frame} [Fact (fr.flash = false)] {s₀ : State} {s : State} (hK : Keeps fr s₀ s) {t} (e : execTrialTimerExpiry s = .next t) :
    Keeps fr s₀ t := by
  unfold execTrialTimerExpiry at e
  obtain rfl := Host.Outcome.next.inj e
  try dsimp only
  repeat' first | with_reducible assumption | intro _ | with_reducible apply trialExpiry_keeps

/-! ## Start -/

theorem beginFull_keeps {fr : Frame} {s₀ : State} {job : Option Nat} {s : State} (hK : Keeps fr s₀ s) :
    Keeps fr s₀ (beginFull job s) := by
  unfold beginFull; try dsimp only
  repeat' first
    | with_reducible assumption | intro _ | with_reducible apply Keeps.foldl | split | simp only [Keeps.mk_iff]

theorem flushWatch_keeps {fr : Frame} {s₀ : State} {s : State} (hK : Keeps fr s₀ s) : Keeps fr s₀ (flushWatch s) := by
  unfold flushWatch; try dsimp only
  repeat' first
    | with_reducible assumption | intro _ | with_reducible apply setBanks_keeps
    | with_reducible apply writeEvent_keeps | with_reducible apply Keeps.foldl | split | simp only [Keeps.mk_iff]

theorem readCause_keeps {fr : Frame} {s₀ : State} {s : State} (hK : Keeps fr s₀ s) : Keeps fr s₀ (readCause s) := by
  unfold readCause; try dsimp only
  repeat' first
    | with_reducible assumption | intro _ | with_reducible apply emit_keeps | with_reducible apply hwNote_keeps
    | with_reducible apply record_keeps | with_reducible apply Keeps.foldl | split | simp only [Keeps.mk_iff]

theorem mapNote_keeps {fr : Frame} {s₀ : State} {s : State} (hK : Keeps fr s₀ s) : Keeps fr s₀ (mapNote s) := by
  unfold mapNote; try dsimp only
  repeat' first | with_reducible assumption | intro _ | with_reducible apply record_keeps

theorem startDone_keeps {fr : Frame} {s₀ : State} {cause : BitVec 8} {valid : Bool} {s : State} (hK : Keeps fr s₀ s) :
    Keeps fr s₀ (startDone cause valid s) := by
  unfold startDone; try dsimp only
  repeat' first
    | with_reducible assumption | intro _ | with_reducible apply beginFull_keeps
    | with_reducible apply hwNote_keeps | with_reducible apply step_keeps | with_reducible apply Keeps.foldl
    | split | simp only [Keeps.mk_iff]

theorem startImage_keeps {fr : Frame} [Fact (fr.fuses = false)] [Fact (fr.flash = false)] {s₀ : State} {env : StartEnv} {ps : List Pulse} {s : State} (hK :
    Keeps fr s₀ s) :
    Keeps fr s₀ (startImage env ps s) := by
  have step : ∀ (t : State) n, Keeps fr s₀ t → Keeps fr s₀ { t with boot := { t.boot with step := n } } := by
    intro t n h; simp only [Keeps.mk_iff]; exact h
  have fail : ∀ (t : State) n, Keeps fr s₀ t → Keeps fr s₀ { t with boot := { t.boot with fail := n } } := by
    intro t n h; simp only [Keeps.mk_iff]; exact h
  unfold startImage
  split
  · exact startKeys_keeps (fail _ _ hK)
  · dsimp only
    have kd := slotDecision_keeps hK
    generalize slotDecision s = d at *
    split
    · exact coreFault_keeps kd
    · have kt := tryCandidates_keeps (peer := confirmedPeer s) (cs := d.1) (ps := ps) (step d.2 5 kd)
      generalize tryCandidates (confirmedPeer s) d.1 ps { d.2 with boot := { d.2.boot with step := 5 } } = r at *
      split
      · exact fail _ _ (startKeys_keeps (noImage_keeps kt))
      · exact releaseImage_keeps (imageKeys_keeps (startKeys_keeps (fail _ _ kt)))

theorem startSequence_keeps {fr : Frame} [Fact (fr.fuses = false)] [Fact (fr.heartwood = false)] [Fact (fr.flash = false)] {s₀ : State} {env : StartEnv} {s : State} (hK : Keeps fr s₀ s) :
    Keeps fr s₀ (startSequence env s) := by
  unfold startSequence; try dsimp only
  repeat' first
    | with_reducible assumption | intro _ | with_reducible apply applyConfig_keeps
    | with_reducible apply chooseRecord_keeps | with_reducible apply flushWatch_keeps
    | with_reducible apply freshContextKey_keeps | with_reducible apply freshLinks_keeps
    | with_reducible apply loadMicrocode_keeps | with_reducible apply mapNote_keeps
    | with_reducible apply readCause_keeps | with_reducible apply resumeField_keeps
    | with_reducible apply resumeFielded_keeps | with_reducible apply retireCells_keeps
    | with_reducible apply startDone_keeps | with_reducible apply startImage_keeps
    | with_reducible apply startNote_keeps | with_reducible apply step_keeps | with_reducible apply Keeps.foldl
    | split | simp only [Keeps.mk_iff]

theorem execStartSequence_keeps {fr : Frame} [Fact (fr.fuses = false)] [Fact (fr.heartwood = false)] [Fact (fr.flash = false)] {s₀ : State} {env : StartEnv} {s : State} (hK : Keeps fr s₀ s) {t} (e : execStartSequence env s = .next t) :
    Keeps fr s₀ t := by
  unfold execStartSequence at e
  obtain rfl := Host.Outcome.next.inj e
  try dsimp only
  repeat' first
    | with_reducible assumption | intro _ | with_reducible apply startDone_keeps
    | with_reducible apply startSequence_keeps | with_reducible apply Keeps.foldl | split

/-! ## BootJobs -/

theorem stageBegin_keeps {fr : Frame} [Fact (fr.flash = false)] {s₀ : State} {n : Seat} {pldm : Bool} {c len : Nat} {s : State} (hK : Keeps fr s₀ s) :
    Keeps fr s₀ (stageBegin n pldm c len s) := by
  unfold stageBegin; try dsimp only
  repeat' first
    | with_reducible assumption | intro _ | with_reducible apply flashErase_keeps
    | with_reducible apply flashProgram_keeps | with_reducible apply Keeps.foldl | split
    | simp only [Keeps.mk_iff]

theorem stageWrite_keeps {fr : Frame} [Fact (fr.flash = false)] {s₀ : State} {g : StageSession} {b : Bytes} {s : State} (hK : Keeps fr s₀ s) :
    Keeps fr s₀ (stageWrite g b s) := by
  unfold stageWrite; try dsimp only
  repeat' first
    | with_reducible assumption | intro _ | with_reducible apply flashProgram_keeps
    | with_reducible apply Keeps.foldl | split | simp only [Keeps.mk_iff]

theorem stageEnd_keeps {fr : Frame} [Fact (fr.flash = false)] {s₀ : State} {g : StageSession} {s : State} (hK : Keeps fr s₀ s) :
    Keeps fr s₀ (stageEnd g s) := by
  unfold stageEnd; try dsimp only
  repeat' first
    | with_reducible assumption | intro _ | with_reducible apply programSlot_keeps
    | with_reducible apply Keeps.foldl | split | simp only [Keeps.mk_iff]

theorem startStageBegin_keeps {fr : Frame} [Fact (fr.flash = false)] {s₀ : State} {j : Job} {s : State} (hK : Keeps fr s₀ s) :
    Keeps fr s₀ (startStageBegin j s) := by
  unfold startStageBegin; try dsimp only
  repeat' first
    | with_reducible assumption | intro _ | with_reducible apply decideJob_keeps
    | with_reducible apply refuseJob_keeps | with_reducible apply stageBegin_keeps
    | with_reducible apply Keeps.foldl | split

theorem execBootStageBegin_keeps {fr : Frame} [Fact (fr.flash = false)] {s₀ : State} {s : State} (hK : Keeps fr s₀ s) {t} (e : execBootStageBegin s = .next t) :
    Keeps fr s₀ t := by
  unfold execBootStageBegin at e
  obtain rfl := Host.Outcome.next.inj e
  try dsimp only
  repeat' first
    | with_reducible assumption | intro _ | with_reducible apply runJob_keeps
    | with_reducible apply startStageBegin_keeps

theorem startStageData_keeps {fr : Frame} {s₀ : State} {j : Job} {s : State} (hK : Keeps fr s₀ s) :
    Keeps fr s₀ (startStageData j s) := by
  unfold startStageData; try dsimp only
  repeat' first
    | with_reducible assumption | intro _ | with_reducible apply fetchJob_keeps
    | with_reducible apply refuseJob_keeps | with_reducible apply Keeps.foldl | split

theorem execBootStageData_keeps {fr : Frame} {s₀ : State} {s : State} (hK : Keeps fr s₀ s) {t} (e : execBootStageData s = .next t) :
    Keeps fr s₀ t := by
  unfold execBootStageData at e
  obtain rfl := Host.Outcome.next.inj e
  try dsimp only
  repeat' first
    | with_reducible assumption | intro _ | with_reducible apply runJob_keeps
    | with_reducible apply startStageData_keeps

theorem stageDataRead_keeps {fr : Frame} [Fact (fr.flash = false)] {s₀ : State} {j : Job} {b : Bytes} {s : State} (hK : Keeps fr s₀ s) :
    Keeps fr s₀ (stageDataRead j b s) := by
  unfold stageDataRead; try dsimp only
  repeat' first
    | with_reducible assumption | intro _ | with_reducible apply decideJob_keeps
    | with_reducible apply refuseJob_keeps | with_reducible apply stageWrite_keeps
    | with_reducible apply Keeps.foldl | split

theorem startStageFinish_keeps {fr : Frame} [Fact (fr.flash = false)] {s₀ : State} {j : Job} {s : State} (hK : Keeps fr s₀ s) :
    Keeps fr s₀ (startStageFinish j s) := by
  unfold startStageFinish; try dsimp only
  repeat' first
    | with_reducible assumption | intro _ | with_reducible apply decideJob_keeps
    | with_reducible apply failJob_keeps | with_reducible apply refuseJob_keeps
    | with_reducible apply stageEnd_keeps | with_reducible apply Keeps.foldl | split

theorem execBootStageFinish_keeps {fr : Frame} [Fact (fr.flash = false)] {s₀ : State} {s : State} (hK : Keeps fr s₀ s) {t} (e : execBootStageFinish s = .next t) :
    Keeps fr s₀ t := by
  unfold execBootStageFinish at e
  obtain rfl := Host.Outcome.next.inj e
  try dsimp only
  repeat' first
    | with_reducible assumption | intro _ | with_reducible apply runJob_keeps
    | with_reducible apply startStageFinish_keeps

theorem startStageCancel_keeps {fr : Frame} {s₀ : State} {j : Job} {s : State} (hK : Keeps fr s₀ s) :
    Keeps fr s₀ (startStageCancel j s) := by
  unfold startStageCancel; try dsimp only
  repeat' first
    | with_reducible assumption | intro _ | with_reducible apply decideJob_keeps
    | with_reducible apply refuseJob_keeps | with_reducible apply Keeps.foldl | split | simp only [Keeps.mk_iff]

theorem execBootStageCancel_keeps {fr : Frame} {s₀ : State} {s : State} (hK : Keeps fr s₀ s) {t} (e : execBootStageCancel s = .next t) :
    Keeps fr s₀ t := by
  unfold execBootStageCancel at e
  obtain rfl := Host.Outcome.next.inj e
  try dsimp only
  repeat' first
    | with_reducible assumption | intro _ | with_reducible apply runJob_keeps
    | with_reducible apply startStageCancel_keeps

theorem activate_keeps {fr : Frame} [Fact (fr.flash = false)] {s₀ : State} {b : Bool} {s : State} (hK : Keeps fr s₀ s) :
    Keeps fr s₀ (activate b s).1 := by
  have k := programSlot_keeps (b := b) (st := .trial) hK
  unfold activate
  exact swapTo_keeps (Keeps.ite (clearTry_keeps k) k)

theorem decideById_keeps {fr : Frame} {s₀ : State} {id : Nat} {st : Status} {ws : Words} {s : State} (hK : Keeps fr s₀ s) :
    Keeps fr s₀ (decideById id st ws s) := by
  unfold decideById; try dsimp only
  repeat' first
    | with_reducible assumption | intro _ | with_reducible apply decideJob_keeps
    | with_reducible apply Keeps.foldl | split

theorem activateJob_end {fr : Frame} [Fact (fr.flash = false)] {s₀ : State} {j : Job} {b : Bool} {r : State × Option Bool} (k :
    Keeps fr s₀ r.1) :
    Keeps fr s₀ (decideById j.id (if r.2 == some b then .ok else .badArgument) (wordsOf [word (bit (r.2.getD b))]) r.1) :=
  decideById_keeps k

theorem activateJob_keeps {fr : Frame} [Fact (fr.flash = false)] {s₀ : State} {j : Job} {b : Bool} {s : State} (hK : Keeps fr s₀ s) :
    Keeps fr s₀ (activateJob j b s) := by
  have k := activate_keeps (b := b) hK
  unfold activateJob
  exact activateJob_end k

theorem startActivate_keeps {fr : Frame} [Fact (fr.flash = false)] {s₀ : State} {j : Job} {s : State} (hK : Keeps fr s₀ s) :
    Keeps fr s₀ (startActivate j s) := by
  unfold startActivate; try dsimp only
  repeat' first
    | with_reducible assumption | intro _ | with_reducible apply activateJob_keeps
    | with_reducible apply refuseJob_keeps | with_reducible apply Keeps.foldl | split

theorem execBootActivate_keeps {fr : Frame} [Fact (fr.flash = false)] {s₀ : State} {s : State} (hK : Keeps fr s₀ s) {t} (e : execBootActivate s = .next t) :
    Keeps fr s₀ t := by
  unfold execBootActivate at e
  obtain rfl := Host.Outcome.next.inj e
  try dsimp only
  repeat' first
    | with_reducible assumption | intro _ | with_reducible apply runJob_keeps
    | with_reducible apply startActivate_keeps

theorem startHandoverPut_keeps {fr : Frame} [Fact (fr.flash = false)] {s₀ : State} {j : Job} {s : State} (hK : Keeps fr s₀ s) :
    Keeps fr s₀ (startHandoverPut j s) := by
  unfold startHandoverPut; try dsimp only
  repeat' first
    | with_reducible assumption | intro _ | with_reducible apply fetchJob_keeps
    | with_reducible apply flashErase_keeps | with_reducible apply flashProgram_keeps
    | with_reducible apply refuseJob_keeps | with_reducible apply Keeps.foldl | split

theorem execBootHandoverPut_keeps {fr : Frame} [Fact (fr.flash = false)] {s₀ : State} {s : State} (hK : Keeps fr s₀ s) {t} (e : execBootHandoverPut s = .next t) :
    Keeps fr s₀ t := by
  unfold execBootHandoverPut at e
  obtain rfl := Host.Outcome.next.inj e
  try dsimp only
  repeat' first
    | with_reducible assumption | intro _ | with_reducible apply runJob_keeps
    | with_reducible apply startHandoverPut_keeps

theorem handoverRead_keeps {fr : Frame} [Fact (fr.flash = false)] {s₀ : State} {j : Job} {b : Bytes} {s : State} (hK : Keeps fr s₀ s) :
    Keeps fr s₀ (handoverRead j b s) := by
  unfold handoverRead; try dsimp only
  repeat' first
    | with_reducible assumption | intro _ | with_reducible apply decideJob_keeps
    | with_reducible apply flashProgram_keeps | with_reducible apply refuseJob_keeps
    | with_reducible apply Keeps.foldl | split

theorem startHandoverGet_keeps {fr : Frame} [Fact (fr.flash = false)] {s₀ : State} {j : Job} {s : State} (hK : Keeps fr s₀ s) :
    Keeps fr s₀ (startHandoverGet j s) := by
  unfold startHandoverGet; try dsimp only
  repeat' first
    | with_reducible assumption | intro _ | with_reducible apply failJob_keeps
    | with_reducible apply flashProgram_keeps | with_reducible apply record_keeps
    | with_reducible apply refuseJob_keeps | with_reducible apply storeJob_keeps
    | with_reducible apply Keeps.foldl | split

theorem execBootHandoverGet_keeps {fr : Frame} [Fact (fr.flash = false)] {s₀ : State} {s : State} (hK : Keeps fr s₀ s) {t} (e : execBootHandoverGet s = .next t) :
    Keeps fr s₀ t := by
  unfold execBootHandoverGet at e
  obtain rfl := Host.Outcome.next.inj e
  try dsimp only
  repeat' first
    | with_reducible assumption | intro _ | with_reducible apply runJob_keeps
    | with_reducible apply startHandoverGet_keeps

theorem handoverStored_keeps {fr : Frame} [Fact (fr.flash = false)] {s₀ : State} {j : Job} {st : Status} {ws : Words} {s : State} (hK : Keeps fr s₀ s) :
    Keeps fr s₀ (handoverStored j st ws s) := by
  unfold handoverStored; try dsimp only
  repeat' first
    | with_reducible assumption | intro _ | with_reducible apply decideJob_keeps
    | with_reducible apply flashProgram_keeps | with_reducible apply Keeps.foldl | split

theorem startConfigCommit_keeps {fr : Frame} {s₀ : State} {j : Job} {s : State} (hK : Keeps fr s₀ s) :
    Keeps fr s₀ (startConfigCommit j s) := by
  unfold startConfigCommit; try dsimp only
  repeat' first
    | with_reducible assumption | intro _ | with_reducible apply queueBurn_keeps
    | with_reducible apply refuseJob_keeps | with_reducible apply Keeps.foldl | split

theorem commitBurned_keeps {fr : Frame} {s₀ : State} {j : Job} {e : BurnEnd} {s : State} (hK : Keeps fr s₀ s) :
    Keeps fr s₀ (commitBurned j e s) := by
  unfold commitBurned; try dsimp only
  repeat' first
    | with_reducible assumption | intro _ | with_reducible apply advanceAllG_keeps
    | with_reducible apply decideJob_keeps | with_reducible apply Keeps.foldl | split

theorem startSecret_keeps {fr : Frame} [Fact (fr.flash = false)] {s₀ : State} {j : Job} {s : State} (hK : Keeps fr s₀ s) :
    Keeps fr s₀ (startSecret j s) := by
  unfold startSecret; try dsimp only
  repeat' first
    | with_reducible assumption | intro _ | with_reducible apply decideJob_keeps
    | with_reducible apply fetchJob_keeps | with_reducible apply flashErase_keeps
    | with_reducible apply refuseJob_keeps | with_reducible apply storeJob_keeps
    | with_reducible apply Keeps.foldl | split

theorem execBootSecretAccess_keeps {fr : Frame} [Fact (fr.flash = false)] {s₀ : State} {s : State} (hK : Keeps fr s₀ s) {t} (e : execBootSecretAccess s = .next t) :
    Keeps fr s₀ t := by
  unfold execBootSecretAccess at e
  obtain rfl := Host.Outcome.next.inj e
  try dsimp only
  repeat' first
    | with_reducible assumption | intro _ | with_reducible apply runJob_keeps
    | with_reducible apply startSecret_keeps

theorem secretRead_keeps {fr : Frame} [Fact (fr.flash = false)] {s₀ : State} {j : Job} {b : Bytes} {s : State} (hK : Keeps fr s₀ s) :
    Keeps fr s₀ (secretRead j b s) := by
  unfold secretRead; try dsimp only
  repeat' first
    | with_reducible assumption | intro _ | with_reducible apply decideJob_keeps
    | with_reducible apply flashProgram_keeps

/-! ## Evidence -/

theorem coseSignatures_keeps {fr : Frame} {s₀ : State} {payload : Bytes} {s : State} (hK : Keeps fr s₀ s) :
    Keeps fr s₀ (coseSignatures payload s).2 := by
  unfold coseSignatures; try dsimp only
  repeat' first
    | with_reducible assumption | intro _ | with_reducible apply drawBytes_keeps
    | with_reducible apply ecdsaDraw_keeps

theorem coseSign_keeps {fr : Frame} {s₀ : State} {payload : Bytes} {s : State} (hK : Keeps fr s₀ s) :
    Keeps fr s₀ (coseSign payload s).2 := by
  unfold coseSign; try dsimp only
  repeat' first | with_reducible assumption | intro _ | with_reducible apply coseSignatures_keeps

theorem recordToken_keeps {fr : Frame} {s₀ : State} {n : Part} {token : Bytes} {g : BitVec 32} {s : State} (hK : Keeps fr s₀ s) :
    Keeps fr s₀ (recordToken n token g s) := by
  unfold recordToken; try dsimp only
  repeat' first
    | with_reducible assumption | intro _ | with_reducible apply State.modPart_keeps
    | with_reducible apply Keeps.foldl | split

/-! ## Partition -/

theorem startCreate_keeps {fr : Frame} {s₀ : State} {j : Job} {s : State} (hK : Keeps fr s₀ s) :
    Keeps fr s₀ (startCreate j s) := by
  unfold startCreate; try dsimp only
  repeat' first
    | with_reducible assumption | intro _ | with_reducible apply decideJob_keeps
    | with_reducible apply State.modPart_keeps | with_reducible apply refuseJob_keeps
    | with_reducible apply resetSeat_keeps | with_reducible apply zeroModelKeys_keeps
    | with_reducible apply Keeps.foldl | split | simp only [Keeps.mk_iff]

theorem execPartCreate_keeps {fr : Frame} {s₀ : State} {s : State} (hK : Keeps fr s₀ s) {t} (e : execPartCreate s = .next t) :
    Keeps fr s₀ t := by
  unfold execPartCreate at e
  obtain rfl := Host.Outcome.next.inj e
  try dsimp only
  repeat' first
    | with_reducible assumption | intro _ | with_reducible apply runJob_keeps
    | with_reducible apply startCreate_keeps

theorem loadShadow_keeps {fr : Frame} {s₀ : State} {t : FbTable} {s : State} (hK : Keeps fr s₀ s) :
    Keeps fr s₀ (loadShadow t s) := by
  unfold loadShadow; try dsimp only
  repeat' first
    | with_reducible assumption | intro _ | with_reducible apply fbAll_keeps
    | with_reducible apply fbWriteEntry_keeps | with_reducible apply Keeps.foldl | split
    | simp only [Keeps.mk_iff]

theorem startShadowBegin_keeps {fr : Frame} {s₀ : State} {j : Job} {s : State} (hK : Keeps fr s₀ s) :
    Keeps fr s₀ (startShadowBegin j s) := by
  unfold startShadowBegin; try dsimp only
  repeat' first
    | with_reducible assumption | intro _ | with_reducible apply decideJob_keeps
    | with_reducible apply loadShadow_keeps | with_reducible apply refuseJob_keeps
    | with_reducible apply Keeps.foldl | split | simp only [Keeps.mk_iff]

theorem execPartShadowBegin_keeps {fr : Frame} {s₀ : State} {s : State} (hK : Keeps fr s₀ s) {t} (e : execPartShadowBegin s = .next t) :
    Keeps fr s₀ t := by
  unfold execPartShadowBegin at e
  obtain rfl := Host.Outcome.next.inj e
  try dsimp only
  repeat' first
    | with_reducible assumption | intro _ | with_reducible apply runJob_keeps
    | with_reducible apply startShadowBegin_keeps

theorem startShadowWrite_keeps {fr : Frame} {s₀ : State} {j : Job} {s : State} (hK : Keeps fr s₀ s) :
    Keeps fr s₀ (startShadowWrite j s) := by
  unfold startShadowWrite; try dsimp only
  repeat' first
    | with_reducible assumption | intro _ | with_reducible apply fetchJob_keeps
    | with_reducible apply refuseJob_keeps | with_reducible apply Keeps.foldl | split

theorem execPartShadowWrite_keeps {fr : Frame} {s₀ : State} {s : State} (hK : Keeps fr s₀ s) {t} (e : execPartShadowWrite s = .next t) :
    Keeps fr s₀ t := by
  unfold execPartShadowWrite at e
  obtain rfl := Host.Outcome.next.inj e
  try dsimp only
  repeat' first
    | with_reducible assumption | intro _ | with_reducible apply runJob_keeps
    | with_reducible apply startShadowWrite_keeps

theorem shadowFetched_keeps {fr : Frame} {s₀ : State} {j : Job} {b : Bytes} {s : State} (hK : Keeps fr s₀ s) :
    Keeps fr s₀ (shadowFetched j b s) := by
  unfold shadowFetched; try dsimp only
  repeat' first
    | with_reducible assumption | intro _ | with_reducible apply decideJob_keeps
    | with_reducible apply failJob_keeps | with_reducible apply fbWriteEntry_keeps
    | with_reducible apply refuseJob_keeps | with_reducible apply Keeps.foldl | split | simp only [Keeps.mk_iff]

theorem startShadowCancel_keeps {fr : Frame} {s₀ : State} {j : Job} {s : State} (hK : Keeps fr s₀ s) :
    Keeps fr s₀ (startShadowCancel j s) := by
  unfold startShadowCancel; try dsimp only
  repeat' first
    | with_reducible assumption | intro _ | with_reducible apply decideJob_keeps
    | with_reducible apply endBuild_keeps | with_reducible apply refuseJob_keeps
    | with_reducible apply Keeps.foldl | split

theorem execPartShadowCancel_keeps {fr : Frame} {s₀ : State} {s : State} (hK : Keeps fr s₀ s) {t} (e : execPartShadowCancel s = .next t) :
    Keeps fr s₀ t := by
  unfold execPartShadowCancel at e
  obtain rfl := Host.Outcome.next.inj e
  try dsimp only
  repeat' first
    | with_reducible assumption | intro _ | with_reducible apply runJob_keeps
    | with_reducible apply startShadowCancel_keeps

theorem setRun_keeps {fr : Frame} {s₀ : State} {r : ClearRun} {s : State} (hK : Keeps fr s₀ s) :
    Keeps fr s₀ (setRun r s) := by
  unfold setRun; try dsimp only
  repeat' first
    | with_reducible assumption | intro _ | with_reducible apply Keeps.foldl | split | simp only [Keeps.mk_iff]

theorem sendRun_keeps {fr : Frame} {s₀ : State} {r : ClearRun} {s : State} (hK : Keeps fr s₀ s) :
    Keeps fr s₀ (sendRun r s) := by
  unfold sendRun; try dsimp only
  repeat' first
    | with_reducible assumption | intro _ | with_reducible apply emit_keeps | with_reducible apply setRun_keeps
    | with_reducible apply settled_keeps | with_reducible apply Keeps.foldl | split | simp only [Keeps.mk_iff]

theorem sendRuns_keeps {fr : Frame} {s₀ : State} {s : State} (hK : Keeps fr s₀ s) : Keeps fr s₀ (sendRuns s) := by
  unfold sendRuns; try dsimp only
  repeat' first
    | with_reducible assumption | intro _ | with_reducible apply sendRun_keeps
    | with_reducible apply settled_keeps | with_reducible apply Keeps.foldl | split

theorem endClearing_keeps {fr : Frame} {s₀ : State} {n : Part} {s : State} (hK : Keeps fr s₀ s) :
    Keeps fr s₀ (endClearing n s) := by
  unfold endClearing; try dsimp only
  repeat' first
    | with_reducible assumption | intro _ | with_reducible apply finishJob_keeps
    | with_reducible apply State.modPart_keeps | with_reducible apply raiseCore_keeps
    | with_reducible apply settled_keeps | with_reducible apply Keeps.foldl | split | simp only [Keeps.mk_iff]

theorem endClearings_keeps {fr : Frame} {s₀ : State} {s : State} (hK : Keeps fr s₀ s) :
    Keeps fr s₀ (endClearings s) := by
  unfold endClearings; try dsimp only
  repeat' first
    | with_reducible assumption | intro _ | with_reducible apply endClearing_keeps
    | with_reducible apply Keeps.foldl

theorem pumpClearing_keeps {fr : Frame} {s₀ : State} {s : State} (hK : Keeps fr s₀ s) :
    Keeps fr s₀ (pumpClearing s) := by
  unfold pumpClearing; try dsimp only
  repeat' first
    | with_reducible assumption | intro _ | with_reducible apply endClearings_keeps
    | with_reducible apply sendRuns_keeps

theorem scrubAnswer_keeps {fr : Frame} {s₀ : State} {u : Unit7} {number : BitVec 32} {ok : Bool} {s : State} (hK : Keeps fr s₀ s) :
    Keeps fr s₀ (scrubAnswer u number ok s) := by
  unfold scrubAnswer; try dsimp only
  repeat' first
    | with_reducible assumption | intro _ | with_reducible apply pumpClearing_keeps
    | with_reducible apply record_keeps | with_reducible apply setRun_keeps | with_reducible apply settled_keeps
    | with_reducible apply Keeps.foldl | split

theorem execFbScrubDone_keeps {fr : Frame} {s₀ : State} {u : Unit7} {number : BitVec 32} {s : State} (hK : Keeps fr s₀ s) {t} (e : execFbScrubDone u number s = .next t) :
    Keeps fr s₀ t := by
  unfold execFbScrubDone at e
  refine fbAnswer_keeps ?_ hK e
  repeat' first
    | with_reducible exact id | with_reducible assumption | intro _ | with_reducible apply scrubAnswer_keeps

theorem execFbScrubFailed_keeps {fr : Frame} {s₀ : State} {u : Unit7} {number : BitVec 32} {s : State} (hK : Keeps fr s₀ s) {t} (e : execFbScrubFailed u number s = .next t) :
    Keeps fr s₀ t := by
  unfold execFbScrubFailed at e
  refine fbAnswer_keeps ?_ hK e
  repeat' first
    | with_reducible exact id | with_reducible assumption | intro _ | with_reducible apply scrubAnswer_keeps

theorem startClearRetry_keeps {fr : Frame} {s₀ : State} {j : Job} {s : State} (hK : Keeps fr s₀ s) :
    Keeps fr s₀ (startClearRetry j s) := by
  unfold startClearRetry; try dsimp only
  repeat' first
    | with_reducible assumption | intro _ | with_reducible apply State.modPart_keeps
    | with_reducible apply pumpClearing_keeps | with_reducible apply refuseJob_keeps
    | with_reducible apply settled_keeps | with_reducible apply Keeps.foldl | split | simp only [Keeps.mk_iff]

theorem execPartClearRetry_keeps {fr : Frame} {s₀ : State} {s : State} (hK : Keeps fr s₀ s) {t} (e : execPartClearRetry s = .next t) :
    Keeps fr s₀ t := by
  unfold execPartClearRetry at e
  obtain rfl := Host.Outcome.next.inj e
  try dsimp only
  repeat' first
    | with_reducible assumption | intro _ | with_reducible apply runJob_keeps
    | with_reducible apply startClearRetry_keeps

theorem startSwap_keeps {fr : Frame} {s₀ : State} {j : Job} {s : State} (hK : Keeps fr s₀ s) :
    Keeps fr s₀ (startSwap j s) := by
  unfold startSwap; try dsimp only
  repeat' first
    | with_reducible assumption | intro _ | with_reducible apply askCrc_keeps
    | with_reducible apply decideJob_keeps | with_reducible apply refuseJob_keeps
    | with_reducible apply Keeps.foldl | split

theorem execPartSwap_keeps {fr : Frame} {s₀ : State} {s : State} (hK : Keeps fr s₀ s) {t} (e : execPartSwap s = .next t) :
    Keeps fr s₀ t := by
  unfold execPartSwap at e
  obtain rfl := Host.Outcome.next.inj e
  try dsimp only
  repeat' first
    | with_reducible assumption | intro _ | with_reducible apply runJob_keeps
    | with_reducible apply startSwap_keeps

theorem newDigests_keeps {fr : Frame} {s₀ : State} {old : FbTable} {s : State} (hK : Keeps fr s₀ s) :
    Keeps fr s₀ (newDigests old s) := by
  unfold newDigests; try dsimp only
  repeat' first
    | with_reducible assumption | intro _ | with_reducible apply advanceG_keeps
    | with_reducible apply State.modPart_keeps | with_reducible apply Keeps.foldl | split

theorem adoptSwap_keeps {fr : Frame} {s₀ : State} {w : Swap} {s : State} (hK : Keeps fr s₀ s) :
    Keeps fr s₀ (adoptSwap w s) := by
  unfold adoptSwap; try dsimp only
  repeat' first
    | with_reducible assumption | intro _ | with_reducible apply freePlansOutside_keeps
    | with_reducible apply State.modPart_keeps | with_reducible apply newDigests_keeps
    | with_reducible apply pumpClearing_keeps | with_reducible apply Keeps.foldl | split
    | simp only [Keeps.mk_iff]

theorem completeSwap_keeps {fr : Frame} {s₀ : State} {s : State} (hK : Keeps fr s₀ s) :
    Keeps fr s₀ (completeSwap s) := by
  unfold completeSwap; try dsimp only
  repeat' first
    | with_reducible assumption | intro _ | with_reducible apply finishJob_keeps
    | with_reducible apply Keeps.foldl | split | simp only [Keeps.mk_iff]

theorem execSwapBeat_keeps {fr : Frame} {s₀ : State} {s : State} (hK : Keeps fr s₀ s) {t} (e : execSwapBeat s = .next t) :
    Keeps fr s₀ t := by
  unfold execSwapBeat at e
  obtain rfl := Host.Outcome.next.inj e
  try dsimp only
  repeat' first
    | with_reducible assumption | intro _ | with_reducible apply adoptSwap_keeps
    | with_reducible apply completeSwap_keeps | with_reducible apply Keeps.foldl | split

theorem unitSwapped_keeps {fr : Frame} {s₀ : State} {u : Unit7} {late : Bool} {beat : Word} {s : State} (hK : Keeps fr s₀ s) :
    Keeps fr s₀ (unitSwapped u late beat s) := by
  unfold unitSwapped; try dsimp only
  repeat' first
    | with_reducible assumption | intro _ | with_reducible apply adoptSwap_keeps
    | with_reducible apply completeSwap_keeps | with_reducible apply raiseCore_keeps
    | with_reducible apply record_keeps | with_reducible apply Keeps.foldl | split | simp only [Keeps.mk_iff]

theorem execFbSwapped_keeps {fr : Frame} {s₀ : State} {u : Unit7} {beat : Word} {s : State} (hK : Keeps fr s₀ s) {t} (e : execFbSwapped u beat s = .next t) :
    Keeps fr s₀ t := by
  unfold execFbSwapped at e
  refine fbAnswer_keeps ?_ hK e
  repeat' first
    | with_reducible exact id | with_reducible assumption | intro _ | with_reducible apply unitSwapped_keeps

theorem execFbSwappedLate_keeps {fr : Frame} {s₀ : State} {u : Unit7} {beat : Word} {s : State} (hK : Keeps fr s₀ s) {t} (e : execFbSwappedLate u beat s = .next t) :
    Keeps fr s₀ t := by
  unfold execFbSwappedLate at e
  refine fbAnswer_keeps ?_ hK e
  repeat' first
    | with_reducible exact id | with_reducible assumption | intro _ | with_reducible apply unitSwapped_keeps

theorem teardownSwap_keeps {fr : Frame} {s₀ : State} {n : Part} {s : State} (hK : Keeps fr s₀ s) :
    Keeps fr s₀ (teardownSwap n s) := by
  unfold teardownSwap; try dsimp only
  repeat' first
    | with_reducible assumption | intro _ | with_reducible apply askCrc_keeps
    | with_reducible apply loadShadow_keeps | with_reducible apply Keeps.foldl | split | simp only [Keeps.mk_iff]

theorem departPartition_keeps {fr : Frame} {s₀ : State} {n : Part} {job : Nat} {s : State} (hK : Keeps fr s₀ s) :
    Keeps fr s₀ (departPartition n job s) := by
  unfold departPartition; try dsimp only
  repeat' first
    | with_reducible assumption | intro _ | with_reducible apply clearIngest_keeps
    | with_reducible apply closeProf_keeps | with_reducible apply dropBoxes_keeps
    | with_reducible apply freeSeatSlots_keeps | with_reducible apply State.modPart_keeps
    | with_reducible apply resetSeat_keeps

theorem startDestroy_keeps {fr : Frame} {s₀ : State} {j : Job} {s : State} (hK : Keeps fr s₀ s) :
    Keeps fr s₀ (startDestroy j s) := by
  unfold startDestroy; try dsimp only
  repeat' first
    | with_reducible assumption | intro _ | with_reducible apply departPartition_keeps
    | with_reducible apply refuseJob_keeps | with_reducible apply teardownSwap_keeps
    | with_reducible apply Keeps.foldl | split

theorem execPartDestroy_keeps {fr : Frame} {s₀ : State} {s : State} (hK : Keeps fr s₀ s) {t} (e : execPartDestroy s = .next t) :
    Keeps fr s₀ t := by
  unfold execPartDestroy at e
  obtain rfl := Host.Outcome.next.inj e
  try dsimp only
  repeat' first
    | with_reducible assumption | intro _ | with_reducible apply runJob_keeps
    | with_reducible apply startDestroy_keeps

theorem execTeardownSwapRetry_keeps {fr : Frame} {s₀ : State} {s : State} (hK : Keeps fr s₀ s) {t} (e : execTeardownSwapRetry s = .next t) :
    Keeps fr s₀ t := by
  unfold execTeardownSwapRetry at e
  obtain rfl := Host.Outcome.next.inj e
  try dsimp only
  repeat' first
    | with_reducible assumption | intro _ | with_reducible apply teardownSwap_keeps
    | with_reducible apply Keeps.foldl | split

theorem execBlockedPoll_keeps {fr : Frame} {s₀ : State} {s : State} (hK : Keeps fr s₀ s) {t} (e : execBlockedPoll s = .next t) :
    Keeps fr s₀ t := by
  unfold execBlockedPoll at e
  obtain rfl := Host.Outcome.next.inj e
  try dsimp only
  repeat' first
    | with_reducible assumption | intro _ | with_reducible apply readBlocked_keeps
    | with_reducible apply Keeps.foldl | split | simp only [Keeps.mk_iff]

theorem blockedAnswer_keeps {fr : Frame} {s₀ : State} {u : Unit7} {count : Nat} {s : State} (hK : Keeps fr s₀ s) :
    Keeps fr s₀ (blockedAnswer u count s) := by
  unfold blockedAnswer; try dsimp only
  repeat' first
    | with_reducible assumption | intro _ | with_reducible apply Keeps.foldl | split | simp only [Keeps.mk_iff]

theorem execFbBlockedCount_keeps {fr : Frame} {s₀ : State} {u : Unit7} {count : Word} {s : State} (hK : Keeps fr s₀ s) {t} (e : execFbBlockedCount u count s = .next t) :
    Keeps fr s₀ t := by
  unfold execFbBlockedCount at e
  refine fbAnswer_keeps ?_ hK e
  repeat' first
    | with_reducible exact id | with_reducible assumption | intro _ | with_reducible apply blockedAnswer_keeps

theorem evidenceView_keeps {fr : Frame} {s₀ : State} {j : Job} {nonce : Bytes} {s : State} (hK : Keeps fr s₀ s) :
    Keeps fr s₀ (evidenceView j nonce s) := by
  unfold evidenceView; try dsimp only
  repeat' first
    | with_reducible assumption | intro _ | with_reducible apply nestedPke_keeps
    | with_reducible apply refuseJob_keeps | with_reducible apply Keeps.foldl | split

theorem startEvidence_keeps {fr : Frame} {s₀ : State} {j : Job} {s : State} (hK : Keeps fr s₀ s) :
    Keeps fr s₀ (startEvidence j s) := by
  unfold startEvidence; try dsimp only
  repeat' first
    | with_reducible assumption | intro _ | with_reducible apply evidenceView_keeps
    | with_reducible apply fetchJob_keeps | with_reducible apply refuseJob_keeps
    | with_reducible apply Keeps.foldl | split

theorem execPartEvidence_keeps {fr : Frame} {s₀ : State} {s : State} (hK : Keeps fr s₀ s) {t} (e : execPartEvidence s = .next t) :
    Keeps fr s₀ t := by
  unfold execPartEvidence at e
  obtain rfl := Host.Outcome.next.inj e
  try dsimp only
  repeat' first
    | with_reducible assumption | intro _ | with_reducible apply runJob_keeps
    | with_reducible apply startEvidence_keeps

theorem evidenceSigned_keeps {fr : Frame} {s₀ : State} {j : Job} {s : State} (hK : Keeps fr s₀ s) :
    Keeps fr s₀ (evidenceSigned j s) := by
  unfold evidenceSigned; try dsimp only
  repeat' first
    | with_reducible assumption | intro _ | with_reducible apply coseSign_keeps
    | with_reducible apply failJob_keeps | with_reducible apply refuseJob_keeps
    | with_reducible apply settle_keeps | with_reducible apply storeJob_keeps | with_reducible apply Keeps.foldl
    | split

theorem evidenceStored_keeps {fr : Frame} {s₀ : State} {j : Job} {st : Status} {ws : Words} {s : State} (hK : Keeps fr s₀ s) :
    Keeps fr s₀ (evidenceStored j st ws s) := by
  unfold evidenceStored; try dsimp only
  repeat' first
    | with_reducible assumption | intro _ | with_reducible apply decideJob_keeps
    | with_reducible apply recordToken_keeps | with_reducible apply Keeps.foldl | split

theorem dumpRead_keeps {fr : Frame} {s₀ : State} {j : Job} {s : State} (hK : Keeps fr s₀ s) :
    Keeps fr s₀ (dumpRead j s) := by
  unfold dumpRead; try dsimp only
  repeat' first
    | with_reducible assumption | intro _ | with_reducible apply issue_keeps | with_reducible apply setJob_keeps

theorem startDump_keeps {fr : Frame} {s₀ : State} {j : Job} {s : State} (hK : Keeps fr s₀ s) :
    Keeps fr s₀ (startDump j s) := by
  unfold startDump; try dsimp only
  repeat' first
    | with_reducible assumption | intro _ | with_reducible apply dumpRead_keeps
    | with_reducible apply failJob_keeps | with_reducible apply record_keeps
    | with_reducible apply refuseJob_keeps | with_reducible apply Keeps.foldl | split

theorem execRecDumpRead_keeps {fr : Frame} {s₀ : State} {s : State} (hK : Keeps fr s₀ s) {t} (e : execRecDumpRead s = .next t) :
    Keeps fr s₀ t := by
  unfold execRecDumpRead at e
  obtain rfl := Host.Outcome.next.inj e
  try dsimp only
  repeat' first
    | with_reducible assumption | intro _ | with_reducible apply runJob_keeps
    | with_reducible apply startDump_keeps

theorem dumpFetched_keeps {fr : Frame} {s₀ : State} {j : Job} {b : Bytes} {s : State} (hK : Keeps fr s₀ s) :
    Keeps fr s₀ (dumpFetched j b s) := by
  unfold dumpFetched; try dsimp only
  repeat' first
    | with_reducible assumption | intro _ | with_reducible apply jobWrite_keeps
    | with_reducible apply setJob_keeps

theorem dumpStored_keeps {fr : Frame} {s₀ : State} {j : Job} {s : State} (hK : Keeps fr s₀ s) :
    Keeps fr s₀ (dumpStored j s) := by
  unfold dumpStored; try dsimp only
  repeat' first
    | with_reducible assumption | intro _ | with_reducible apply decideJob_keeps
    | with_reducible apply dumpRead_keeps | with_reducible apply Keeps.foldl | split

theorem clearBlocked_keeps {fr : Frame} {s₀ : State} {n : Part} {s : State} (hK : Keeps fr s₀ s) :
    Keeps fr s₀ (clearBlocked n s) := by
  unfold clearBlocked; try dsimp only
  repeat' first
    | with_reducible assumption | intro _ | with_reducible apply Keeps.foldl | split | simp only [Keeps.mk_iff]

/-! ## Grove -/

theorem ignoreNotice_keeps {fr : Frame} {s₀ : State} {number : BitVec 32} {s : State} (hK : Keeps fr s₀ s) :
    Keeps fr s₀ (ignoreNotice number s) := by
  unfold ignoreNotice; try dsimp only
  repeat' first | with_reducible assumption | intro _ | with_reducible apply record_keeps

theorem armNotice_keeps {fr : Frame} {s₀ : State} {a : GroveArmed} {s : State} (hK : Keeps fr s₀ s) :
    Keeps fr s₀ (armNotice a s) := by
  unfold armNotice; try dsimp only
  repeat' first
    | with_reducible assumption | intro _ | with_reducible apply ignoreNotice_keeps
    | with_reducible apply Keeps.foldl | split | simp only [Keeps.mk_iff]

theorem writeGroveIn_keeps {fr : Frame} {s₀ : State} {n : Seat} {k : Fin 8} {data : Word} {s : State} (hK : Keeps fr s₀ s) :
    Keeps fr s₀ (writeGroveIn n k data s) := by
  unfold writeGroveIn; try dsimp only
  repeat' first
    | with_reducible assumption | intro _ | with_reducible apply armNotice_keeps
    | with_reducible apply Keeps.foldl | split | simp only [Keeps.mk_iff]

theorem contribute_keeps {fr : Frame} {s₀ : State} {a : GroveArmed} {s : State} (hK : Keeps fr s₀ s) :
    Keeps fr s₀ (contribute a s) := by
  unfold contribute; try dsimp only
  repeat' first
    | with_reducible assumption | intro _ | with_reducible apply coseSignatures_keeps
    | with_reducible apply ignoreNotice_keeps | with_reducible apply issue_keeps
    | with_reducible apply Keeps.foldl | split | simp only [Keeps.mk_iff]

theorem contributed_keeps {fr : Frame} {s₀ : State} {s : State} (hK : Keeps fr s₀ s) :
    Keeps fr s₀ (contributed s) := by
  unfold contributed; try dsimp only
  repeat' first
    | with_reducible assumption | intro _ | with_reducible apply Keeps.foldl | split | simp only [Keeps.mk_iff]

theorem execGroveCollectionBeat_keeps {fr : Frame} {s₀ : State} {s : State} (hK : Keeps fr s₀ s) {t} (e : execGroveCollectionBeat s = .next t) :
    Keeps fr s₀ t := by
  unfold execGroveCollectionBeat at e
  obtain rfl := Host.Outcome.next.inj e
  try dsimp only
  repeat' first
    | with_reducible assumption | intro _ | with_reducible apply contribute_keeps
    | with_reducible apply Keeps.foldl | split

theorem startCollect_keeps {fr : Frame} {s₀ : State} {j : Job} {s : State} (hK : Keeps fr s₀ s) :
    Keeps fr s₀ (startCollect j s) := by
  unfold startCollect; try dsimp only
  repeat' first
    | with_reducible assumption | intro _ | with_reducible apply fetchJob_keeps
    | with_reducible apply refuseJob_keeps | with_reducible apply Keeps.foldl | split

theorem execPartGroveCollect_keeps {fr : Frame} {s₀ : State} {s : State} (hK : Keeps fr s₀ s) {t} (e : execPartGroveCollect s = .next t) :
    Keeps fr s₀ t := by
  unfold execPartGroveCollect at e
  obtain rfl := Host.Outcome.next.inj e
  try dsimp only
  repeat' first
    | with_reducible assumption | intro _ | with_reducible apply runJob_keeps
    | with_reducible apply startCollect_keeps

theorem collectFetched_keeps {fr : Frame} {s₀ : State} {j : Job} {b : Bytes} {s : State} (hK : Keeps fr s₀ s) :
    Keeps fr s₀ (collectFetched j b s) := by
  unfold collectFetched; try dsimp only
  repeat' first
    | with_reducible assumption | intro _ | with_reducible apply failJob_keeps
    | with_reducible apply fetchJob_keeps | with_reducible apply issue_keeps | with_reducible apply setJob_keeps
    | with_reducible apply Keeps.foldl | split | simp only [Keeps.mk_iff]

theorem notifyMember_keeps {fr : Frame} {s₀ : State} {c : Collection} {number : BitVec 32} {i : Nat} {s : State} (hK : Keeps fr s₀ s) :
    Keeps fr s₀ (notifyMember c number i s) := by
  unfold notifyMember; try dsimp only
  repeat' first
    | with_reducible assumption | intro _ | with_reducible apply armNotice_keeps
    | with_reducible apply issue_keeps | with_reducible apply Keeps.foldl | split

theorem inboxZeroed_keeps {fr : Frame} {s₀ : State} {s : State} (hK : Keeps fr s₀ s) :
    Keeps fr s₀ (inboxZeroed s) := by
  unfold inboxZeroed; try dsimp only
  repeat' first
    | with_reducible assumption | intro _ | with_reducible apply notifyMember_keeps
    | with_reducible apply Keeps.foldl | split | simp only [Keeps.mk_iff]

theorem execGroveWaitEnd_keeps {fr : Frame} {s₀ : State} {s : State} (hK : Keeps fr s₀ s) {t} (e : execGroveWaitEnd s = .next t) :
    Keeps fr s₀ t := by
  unfold execGroveWaitEnd at e
  obtain rfl := Host.Outcome.next.inj e
  try dsimp only
  repeat' first
    | with_reducible assumption | intro _ | with_reducible apply issue_keeps | with_reducible apply Keeps.foldl
    | split | simp only [Keeps.mk_iff]

theorem endCollection_keeps {fr : Frame} {s₀ : State} {s : State} (hK : Keeps fr s₀ s) :
    Keeps fr s₀ (endCollection s) := by
  unfold endCollection; try dsimp only
  repeat' first
    | with_reducible assumption | intro _ | with_reducible apply Keeps.foldl | split | simp only [Keeps.mk_iff]

theorem inboxJudged_keeps {fr : Frame} {s₀ : State} {inbox : Bytes} {s : State} (hK : Keeps fr s₀ s) :
    Keeps fr s₀ (inboxJudged inbox s) := by
  unfold inboxJudged; try dsimp only
  repeat' first
    | with_reducible assumption | intro _ | with_reducible apply endCollection_keeps
    | with_reducible apply nestedPke_keeps | with_reducible apply refuseJob_keeps
    | with_reducible apply Keeps.foldl | split

theorem collectSigned_keeps {fr : Frame} {s₀ : State} {j : Job} {s : State} (hK : Keeps fr s₀ s) :
    Keeps fr s₀ (collectSigned j s) := by
  unfold collectSigned; try dsimp only
  repeat' first
    | with_reducible assumption | intro _ | with_reducible apply coseSign_keeps
    | with_reducible apply endCollection_keeps | with_reducible apply failJob_keeps
    | with_reducible apply refuseJob_keeps | with_reducible apply settle_keeps
    | with_reducible apply storeJob_keeps | with_reducible apply Keeps.foldl | split | simp only [Keeps.mk_iff]

theorem dropCollection_keeps {fr : Frame} {s₀ : State} {id : Nat} {s : State} (hK : Keeps fr s₀ s) :
    Keeps fr s₀ (dropCollection id s) := by
  unfold dropCollection; try dsimp only
  repeat' first
    | with_reducible assumption | intro _ | with_reducible apply endCollection_keeps
    | with_reducible apply Keeps.foldl | split

end Sys2Proof.Machine
end

