-- ==== Sys2Proof/Laws/KeepsRows.lean ====
section
/-! SUPPORT. What the rows of power, OTP, the cells, the seats, accesses, resets, the initiator, PLDM and SPDM keep:
the queue, every burned fuse bit and soundness (Laws/Keeps.lean). -/

namespace Sys2Proof.Machine

/-! ## Power -/

theorem failQueuedIng_keeps {fr : Frame} {s₀ : State} {n : Seat} {s : State} (hK : Keeps fr s₀ s) :
    Keeps fr s₀ (failQueuedIng n s) := by
  unfold failQueuedIng; try dsimp only
  repeat' first
    | with_reducible assumption | intro _ | with_reducible apply postEntry_keeps
    | with_reducible apply raiseFault_keeps | with_reducible apply Keeps.foldl | split

theorem failStartedIng_keeps {fr : Frame} {s₀ : State} {s : State} (hK : Keeps fr s₀ s) :
    Keeps fr s₀ (failStartedIng s) := by
  unfold failStartedIng; try dsimp only
  repeat' first
    | with_reducible assumption | intro _ | with_reducible apply failAllLoads_keeps
    | with_reducible apply finishJob_keeps | with_reducible apply raiseFault_keeps
    | with_reducible apply Keeps.foldl

theorem strmOff_keeps {fr : Frame} {s₀ : State} {s : State} (hK : Keeps fr s₀ s) : Keeps fr s₀ (strmOff s) := by
  unfold strmOff; try dsimp only
  repeat' first
    | with_reducible assumption | intro _ | with_reducible apply Keeps.foldl | split | simp only [Keeps.mk_iff]

theorem stopToFull_keeps {fr : Frame} {s₀ : State} {s : State} (hK : Keeps fr s₀ s) : Keeps fr s₀ (stopToFull s) := by
  unfold stopToFull; try dsimp only
  repeat' first
    | with_reducible assumption | intro _ | with_reducible apply finishJob_keeps
    | with_reducible apply Keeps.foldl | split | simp only [Keeps.mk_iff]

theorem dropStrm_keeps {fr : Frame} {s₀ : State} {s : State} (hK : Keeps fr s₀ s) : Keeps fr s₀ (dropStrm s) := by
  unfold dropStrm; try dsimp only
  repeat' first
    | with_reducible assumption | intro _ | with_reducible apply abandonPass_keeps
    | with_reducible apply dropUnits_keeps | with_reducible apply failQueuedIng_keeps
    | with_reducible apply failRetests_keeps | with_reducible apply failStartedIng_keeps
    | with_reducible apply Keeps.foldl

theorem markQuarantine_keeps {fr : Frame} {s₀ : State} {s : State} (hK : Keeps fr s₀ s) :
    Keeps fr s₀ (markQuarantine s) := by
  unfold markQuarantine; try dsimp only
  repeat' first
    | with_reducible assumption | intro _ | with_reducible apply strmOff_keeps | with_reducible apply Keeps.foldl
    | split | simp only [Keeps.mk_iff]

theorem noteQuarantine_keeps {fr : Frame} {s₀ : State} {cause : Nat} {s : State} (hK : Keeps fr s₀ s) :
    Keeps fr s₀ (noteQuarantine cause s) := by
  unfold noteQuarantine; try dsimp only
  repeat' first
    | with_reducible assumption | intro _ | with_reducible apply hwNote_keeps
    | with_reducible apply raiseCore_keeps | with_reducible apply record_keeps
    | with_reducible apply stopToFull_keeps

theorem quarantineStrm_keeps {fr : Frame} {s₀ : State} {cause : Nat} {s : State} (hK : Keeps fr s₀ s) :
    Keeps fr s₀ (quarantineStrm cause s) := by
  unfold quarantineStrm; try dsimp only
  repeat' first
    | with_reducible assumption | intro _ | with_reducible apply dropStrm_keeps
    | with_reducible apply markQuarantine_keeps | with_reducible apply noteQuarantine_keeps
    | with_reducible apply Keeps.foldl | split

theorem execStrmDomainFault_keeps {fr : Frame} {s₀ : State} {s : State} (hK : Keeps fr s₀ s) {t} (e : execStrmDomainFault s = .next t) :
    Keeps fr s₀ t := by
  unfold execStrmDomainFault at e
  obtain rfl := Host.Outcome.next.inj e
  try dsimp only
  repeat' first
    | with_reducible assumption | intro _ | with_reducible apply quarantineStrm_keeps
    | with_reducible apply Keeps.foldl | split

theorem leaveFull_keeps {fr : Frame} {s₀ : State} {s : State} (hK : Keeps fr s₀ s) : Keeps fr s₀ (leaveFull s) := by
  unfold leaveFull; try dsimp only
  repeat' first
    | with_reducible assumption | intro _ | with_reducible apply abandonPass_keeps
    | with_reducible apply strmOff_keeps | with_reducible apply Keeps.foldl | split | simp only [Keeps.mk_iff]

theorem zeroForWatch_mid {fr : Frame} {s₀ s : State} (h : Keeps fr s₀ s) : Keeps fr s₀ { s with
    dig := { s.dig with wrapped := [] },
    pke := { s.pke with window := [], curves := Vector.replicate 8 {} },
    keys := { s.keys with
      root0 := [], root1 := [], rootLoaded := false, l0Done := false, l1Done := false,
      links := s.keys.links.map (fun l => { l with exch := none, reading := false, frame := none }) },
    part := { s.part with
      armed := none, sessions := [] } } := Keeps.write h rfl rfl id rfl (fun _ => rfl) rfl id

theorem zeroForWatch_keeps {fr : Frame} {s₀ s : State} (hK : Keeps fr s₀ s) : Keeps fr s₀ (zeroForWatch s) :=
  zeroForWatch_mid (freeAllMsgs_keeps (zeroAllModelKeys_keeps (zeroizeStore_keeps (Keeps.foldl
    (fun _ _ h => closeProf_keeps h) (closeOper_keeps (Keeps.foldl (fun _ _ h => modAuth_keeps (endRole_keeps h)) hK))))))

theorem enterWatch_keeps {fr : Frame} {s₀ : State} {j : Job} {s : State} (hK : Keeps fr s₀ s) :
    Keeps fr s₀ (enterWatch j s) := by
  unfold enterWatch; try dsimp only
  repeat' first
    | with_reducible assumption | intro _ | with_reducible apply finishJob_keeps
    | with_reducible apply leaveFull_keeps | with_reducible apply zeroForWatch_keeps
    | with_reducible apply Keeps.foldl | split | simp only [Keeps.mk_iff]

theorem startPowerSet_keeps {fr : Frame} {s₀ : State} {j : Job} {s : State} (hK : Keeps fr s₀ s) :
    Keeps fr s₀ (startPowerSet j s) := by
  unfold startPowerSet; try dsimp only
  repeat' first
    | with_reducible assumption | intro _ | with_reducible apply beginFull_keeps
    | with_reducible apply decideJob_keeps | with_reducible apply enterWatch_keeps
    | with_reducible apply leaveFull_keeps | with_reducible apply refuseJob_keeps
    | with_reducible apply Keeps.foldl | split

theorem execPowerSet_keeps {fr : Frame} {s₀ : State} {s : State} (hK : Keeps fr s₀ s) {t} (e : execPowerSet s = .next t) :
    Keeps fr s₀ t := by
  unfold execPowerSet at e
  obtain rfl := Host.Outcome.next.inj e
  try dsimp only
  repeat' first
    | with_reducible assumption | intro _ | with_reducible apply runJob_keeps
    | with_reducible apply startPowerSet_keeps

theorem enterFull_keeps {fr : Frame} {s₀ : State} {cellsFailed : List Cell} {s : State} (hK : Keeps fr s₀ s) :
    Keeps fr s₀ (enterFull cellsFailed s) := by
  unfold enterFull; try dsimp only
  repeat' first
    | with_reducible assumption | intro _ | with_reducible apply finishJob_keeps
    | with_reducible apply freshCells_keeps | with_reducible apply retireCells_keeps
    | with_reducible apply Keeps.foldl | split | simp only [Keeps.mk_iff]

theorem execPwrStrmGoodRise_keeps {fr : Frame} {s₀ : State} {cellsFailed : List Cell} {s : State} (hK : Keeps fr s₀ s) {t} (e : execPwrStrmGoodRise cellsFailed s = .next t) :
    Keeps fr s₀ t := by
  unfold execPwrStrmGoodRise at e
  obtain rfl := Host.Outcome.next.inj e
  try dsimp only
  repeat' first
    | with_reducible assumption | intro _ | with_reducible apply enterFull_keeps
    | with_reducible apply Keeps.foldl | split | simp only [Keeps.mk_iff]

theorem timedOut_keeps {fr : Frame} {s₀ : State} {s : State} (hK : Keeps fr s₀ s) : Keeps fr s₀ (timedOut s) := by
  unfold timedOut; try dsimp only
  repeat' first
    | with_reducible assumption | intro _ | with_reducible apply record_keeps
    | with_reducible apply stopToFull_keeps | with_reducible apply strmOff_keeps
    | with_reducible apply Keeps.foldl | split | simp only [Keeps.mk_iff]

theorem execPwrStrmTimeout_keeps {fr : Frame} {s₀ : State} {s : State} (hK : Keeps fr s₀ s) {t} (e : execPwrStrmTimeout s = .next t) :
    Keeps fr s₀ t := by
  unfold execPwrStrmTimeout at e
  obtain rfl := Host.Outcome.next.inj e
  try dsimp only
  repeat' first
    | with_reducible assumption | intro _ | with_reducible apply timedOut_keeps | with_reducible apply Keeps.foldl
    | split

theorem execPwrStrmGoodLoss_keeps {fr : Frame} {s₀ : State} {s : State} (hK : Keeps fr s₀ s) {t} (e : execPwrStrmGoodLoss s = .next t) :
    Keeps fr s₀ t := by
  unfold execPwrStrmGoodLoss at e; try dsimp only at e
  (repeat' split at e) <;> first | contradiction | (cases e)
  all_goals
    repeat' first
      | with_reducible assumption | intro _ | with_reducible apply quarantineStrm_keeps
      | with_reducible apply Keeps.foldl | split | simp only [Keeps.mk_iff]

theorem execPwrCtrlGoodLoss_keeps {fr : Frame} {s₀ : State} {s : State} (hK : Keeps fr s₀ s) {t} (e : execPwrCtrlGoodLoss s = .next t) :
    Keeps fr s₀ t := by
  unfold execPwrCtrlGoodLoss at e; try dsimp only at e
  (repeat' split at e) <;> first | contradiction | (cases e)
  all_goals
    repeat' first
      | with_reducible assumption | intro _ | with_reducible apply coreFault_keeps
      | with_reducible apply Keeps.foldl | split | simp only [Keeps.mk_iff]

theorem wakeCore_keeps {fr : Frame} [Fact (fr.flash = false)] {s₀ : State} {s : State} (hK : Keeps fr s₀ s) :
    Keeps fr s₀ (wakeCore s) := by
  unfold wakeCore; try dsimp only
  repeat' first
    | with_reducible assumption | intro _ | with_reducible apply flushWatch_keeps
    | with_reducible apply freshContextKey_keeps | with_reducible apply imageKeys_keeps
    | with_reducible apply startKeys_keeps | with_reducible apply trialReturn_keeps
    | with_reducible apply Keeps.foldl | split | simp only [Keeps.mk_iff]

theorem warnInput_keeps {fr : Frame} {s₀ : State} {v : Samples} {s : State} {i : Fin 7} (hK : Keeps fr s₀ s) :
    Keeps fr s₀ (warnInput v s i) := by
  unfold warnInput; try dsimp only
  repeat' first
    | with_reducible assumption | intro _ | with_reducible apply raiseCore_keeps
    | with_reducible apply record_keeps | with_reducible apply Keeps.foldl | split | simp only [Keeps.mk_iff]

theorem countLimit_keeps {fr : Frame} {s₀ : State} {v : Samples} {s : State} {i : Fin 7} (hK : Keeps fr s₀ s) :
    Keeps fr s₀ (countLimit v s i) := by
  unfold countLimit; try dsimp only
  repeat' first
    | with_reducible assumption | intro _ | with_reducible apply Keeps.foldl | split | simp only [Keeps.mk_iff]

theorem limitAction_keeps {fr : Frame} {s₀ : State} {s : State} {i : Fin 7} (hK : Keeps fr s₀ s) :
    Keeps fr s₀ (limitAction s i) := by
  unfold limitAction; try dsimp only
  repeat' first
    | with_reducible assumption | intro _ | with_reducible apply coreFault_keeps
    | with_reducible apply quarantineStrm_keeps | with_reducible apply Keeps.foldl | split
    | simp only [Keeps.mk_iff]

theorem sensorSample_keeps {fr : Frame} {s₀ : State} {v : Samples} {s : State} (hK : Keeps fr s₀ s) :
    Keeps fr s₀ (sensorSample v s) := by
  unfold sensorSample; try dsimp only
  repeat' first
    | with_reducible assumption | intro _ | with_reducible apply countLimit_keeps
    | with_reducible apply limitAction_keeps | with_reducible apply supplyLost_keeps
    | with_reducible apply warnInput_keeps | with_reducible apply Keeps.foldl | split | simp only [Keeps.mk_iff]

theorem execSensorSample_keeps {fr : Frame} {s₀ : State} {v : Samples} {s : State} (hK : Keeps fr s₀ s) {t} (e : execSensorSample v s = .next t) :
    Keeps fr s₀ t := by
  unfold execSensorSample at e
  obtain rfl := Host.Outcome.next.inj e
  try dsimp only
  repeat' first
    | with_reducible assumption | intro _ | with_reducible apply sensorSample_keeps
    | with_reducible apply Keeps.foldl | split

/-! ## OtpDone -/

theorem endCtrAdvance_keeps {fr : Frame} {s₀ : State} {j : Job} {e : BurnEnd} {s : State} (hK : Keeps fr s₀ s) :
    Keeps fr s₀ (endCtrAdvance j e s) := by
  unfold endCtrAdvance; try dsimp only
  repeat' first
    | with_reducible assumption | intro _ | with_reducible apply otpDecide_keeps
    | with_reducible apply settleOperators_keeps

theorem jobBurned_keeps {fr : Frame} [Fact (fr.heartwood = false)] [Fact (fr.flash = false)] {s₀ : State} {j : Job} {e : BurnEnd} {s : State} (hK : Keeps fr s₀ s) :
    Keeps fr s₀ (jobBurned j e s) := by
  unfold jobBurned; try dsimp only
  repeat' first
    | with_reducible assumption | intro _ | with_reducible apply commitBurned_keeps
    | with_reducible apply endCtrAdvance_keeps | with_reducible apply endOtpLock_keeps
    | with_reducible apply endOtpProgram_keeps | with_reducible apply endOtpRepair_keeps
    | with_reducible apply endRootProvision_keeps | with_reducible apply policyBurned_keeps
    | with_reducible apply settleClaims_keeps | with_reducible apply transitionBurned_keeps
    | with_reducible apply Keeps.foldl | split

theorem burnEnded_keeps {fr : Frame} [Fact (fr.heartwood = false)] [Fact (fr.flash = false)] {s₀ : State} {e : BurnEnd} {s : State} (hK : Keeps fr s₀ s) :
    Keeps fr s₀ (burnEnded e s) := by
  unfold burnEnded; try dsimp only
  repeat' first
    | with_reducible assumption | intro _ | with_reducible apply confirmBurned_keeps
    | with_reducible apply jobBurned_keeps | with_reducible apply Keeps.foldl | split

theorem pumpOtpN_keeps {fr : Frame} [Fact (fr.heartwood = false)] [Fact (fr.flash = false)] {s₀ : State} {n : Nat} {s : State} (hK : Keeps fr s₀ s) :
    Keeps fr s₀ (pumpOtpN n s) := by
  induction n generalizing s with
  | zero => exact hK
  | succ n ih =>
    unfold pumpOtpN
    split
    · exact hK
    · split
      · exact hK
      · rename_i b bs _
        have k : Keeps fr s₀ { s with otp := { s.otp with queue := bs } } := by simp only [Keeps.mk_iff]; exact hK
        dsimp only
        split
        · have kb := beginBurn_keeps (b := b) k
          split
          · rename_i e; rw [e] at kb; exact ih (burnEnded_keeps kb)
          · rename_i e; rw [e] at kb; exact kb
        · exact ih k

theorem pumpOtp_keeps {fr : Frame} [Fact (fr.heartwood = false)] [Fact (fr.flash = false)] {s₀ : State} {s : State} (hK : Keeps fr s₀ s) :
    Keeps fr s₀ (pumpOtp s) := by
  unfold pumpOtp; try dsimp only
  repeat' first | with_reducible assumption | intro _ | with_reducible apply pumpOtpN_keeps

theorem showProgress_keeps {fr : Frame} {s₀ : State} {s : State} (hK : Keeps fr s₀ s) :
    Keeps fr s₀ (showProgress s) := by
  unfold showProgress; try dsimp only
  repeat' first
    | with_reducible assumption | intro _ | with_reducible apply refreshRegion_keeps
    | with_reducible apply step_keeps | with_reducible apply Keeps.foldl | split | simp only [Keeps.mk_iff]

theorem lastPulse_keeps {fr : Frame} [Fact (fr.fuses = false)] {s₀ : State} {p : Pulse} {s : State} (hK : Keeps fr s₀ s) :
    Keeps fr s₀ (lastPulse p s) := by
  unfold lastPulse; try dsimp only
  repeat' first
    | with_reducible assumption | intro _ | with_reducible apply pulseWord_keeps
    | with_reducible apply Keeps.foldl | split | simp only [Keeps.mk_iff]

theorem pulseDone_keeps {fr : Frame} [Fact (fr.fuses = false)] [Fact (fr.heartwood = false)] [Fact (fr.flash = false)] {s₀ : State} {p : Pulse} {s : State} (hK : Keeps fr s₀ s) :
    Keeps fr s₀ (pulseDone p s) := by
  unfold pulseDone; try dsimp only
  repeat' first
    | with_reducible assumption | intro _ | with_reducible apply afterPulse_keeps
    | with_reducible apply burnEnded_keeps | with_reducible apply lastPulse_keeps
    | with_reducible apply pumpOtp_keeps | with_reducible apply showProgress_keeps
    | with_reducible apply Keeps.foldl | split | simp only [Keeps.mk_iff] | refine Keeps.of_snd ‹_› ?_
    | refine Keeps.of_fst ‹_› ?_

theorem execOtpPulseDone_keeps {fr : Frame} [Fact (fr.fuses = false)] [Fact (fr.heartwood = false)] [Fact (fr.flash = false)] {s₀ : State} {p : Pulse} {s : State} (hK : Keeps fr s₀ s) {t} (e : execOtpPulseDone p s = .next t) :
    Keeps fr s₀ t := by
  unfold execOtpPulseDone at e
  obtain rfl := Host.Outcome.next.inj e
  try dsimp only
  repeat' first
    | with_reducible assumption | intro _ | with_reducible apply pulseDone_keeps
    | with_reducible apply Keeps.foldl | split | simp only [Keeps.mk_iff]

theorem execOtpRead_keeps {fr : Frame} {s₀ : State} {s : State} (hK : Keeps fr s₀ s) {t} (e : execOtpRead s = .next t) :
    Keeps fr s₀ t := by
  unfold execOtpRead at e
  obtain rfl := Host.Outcome.next.inj e
  try dsimp only
  repeat' first
    | with_reducible assumption | intro _ | with_reducible apply runJob_keeps
    | with_reducible apply startOtpRead_keeps

theorem execOtpProgram_keeps {fr : Frame} [Fact (fr.heartwood = false)] [Fact (fr.flash = false)] {s₀ : State} {s : State} (hK : Keeps fr s₀ s) {t} (e : execOtpProgram s = .next t) :
    Keeps fr s₀ t := by
  unfold execOtpProgram at e
  obtain rfl := Host.Outcome.next.inj e
  try dsimp only
  repeat' first
    | with_reducible assumption | intro _ | with_reducible apply pumpOtp_keeps | with_reducible apply runJob_keeps
    | with_reducible apply startOtpProgram_keeps

theorem execOtpLock_keeps {fr : Frame} [Fact (fr.heartwood = false)] [Fact (fr.flash = false)] {s₀ : State} {s : State} (hK : Keeps fr s₀ s) {t} (e : execOtpLock s = .next t) :
    Keeps fr s₀ t := by
  unfold execOtpLock at e
  obtain rfl := Host.Outcome.next.inj e
  try dsimp only
  repeat' first
    | with_reducible assumption | intro _ | with_reducible apply pumpOtp_keeps | with_reducible apply runJob_keeps
    | with_reducible apply startOtpLock_keeps

theorem execOtpRepair_keeps {fr : Frame} [Fact (fr.heartwood = false)] [Fact (fr.flash = false)] {s₀ : State} {s : State} (hK : Keeps fr s₀ s) {t} (e : execOtpRepair s = .next t) :
    Keeps fr s₀ t := by
  unfold execOtpRepair at e
  obtain rfl := Host.Outcome.next.inj e
  try dsimp only
  repeat' first
    | with_reducible assumption | intro _ | with_reducible apply pumpOtp_keeps | with_reducible apply runJob_keeps
    | with_reducible apply startOtpRepair_keeps

theorem execOtpCtrAdvance_keeps {fr : Frame} [Fact (fr.heartwood = false)] [Fact (fr.flash = false)] {s₀ : State} {s : State} (hK : Keeps fr s₀ s) {t} (e : execOtpCtrAdvance s = .next t) :
    Keeps fr s₀ t := by
  unfold execOtpCtrAdvance at e
  obtain rfl := Host.Outcome.next.inj e
  try dsimp only
  repeat' first
    | with_reducible assumption | intro _ | with_reducible apply pumpOtp_keeps | with_reducible apply runJob_keeps
    | with_reducible apply startCtrAdvance_keeps

theorem execLcTransition_keeps {fr : Frame} [Fact (fr.heartwood = false)] [Fact (fr.flash = false)] {s₀ : State} {s : State} (hK : Keeps fr s₀ s) {t} (e : execLcTransition s = .next t) :
    Keeps fr s₀ t := by
  unfold execLcTransition at e
  obtain rfl := Host.Outcome.next.inj e
  try dsimp only
  repeat' first
    | with_reducible assumption | intro _ | with_reducible apply pumpOtp_keeps | with_reducible apply runJob_keeps
    | with_reducible apply startTransition_keeps

theorem execLcDebugPolicy_keeps {fr : Frame} [Fact (fr.heartwood = false)] [Fact (fr.flash = false)] {s₀ : State} {s : State} (hK : Keeps fr s₀ s) {t} (e : execLcDebugPolicy s = .next t) :
    Keeps fr s₀ t := by
  unfold execLcDebugPolicy at e
  obtain rfl := Host.Outcome.next.inj e
  try dsimp only
  repeat' first
    | with_reducible assumption | intro _ | with_reducible apply pumpOtp_keeps | with_reducible apply runJob_keeps
    | with_reducible apply startDebugPolicy_keeps

theorem execKeysRootProvision_keeps {fr : Frame} [Fact (fr.heartwood = false)] [Fact (fr.flash = false)] {s₀ : State} {s : State} (hK : Keeps fr s₀ s) {t} (e : execKeysRootProvision s = .next t) :
    Keeps fr s₀ t := by
  unfold execKeysRootProvision at e
  obtain rfl := Host.Outcome.next.inj e
  try dsimp only
  repeat' first
    | with_reducible assumption | intro _ | with_reducible apply pumpOtp_keeps | with_reducible apply runJob_keeps
    | with_reducible apply startRootProvision_keeps

theorem execBootConfigCommit_keeps {fr : Frame} [Fact (fr.heartwood = false)] [Fact (fr.flash = false)] {s₀ : State} {s : State} (hK : Keeps fr s₀ s) {t} (e : execBootConfigCommit s = .next t) :
    Keeps fr s₀ t := by
  unfold execBootConfigCommit at e
  obtain rfl := Host.Outcome.next.inj e
  try dsimp only
  repeat' first
    | with_reducible assumption | intro _ | with_reducible apply pumpOtp_keeps | with_reducible apply runJob_keeps
    | with_reducible apply startConfigCommit_keeps

theorem execCtrPendingRetry_keeps {fr : Frame} [Fact (fr.heartwood = false)] [Fact (fr.flash = false)] {s₀ : State} {s : State} (hK : Keeps fr s₀ s) {t} (e : execCtrPendingRetry s = .next t) :
    Keeps fr s₀ t := by
  unfold execCtrPendingRetry at e
  obtain rfl := Host.Outcome.next.inj e
  try dsimp only
  repeat' first
    | with_reducible assumption | intro _ | with_reducible apply confirmNext_keeps
    | with_reducible apply pumpOtp_keeps | with_reducible apply Keeps.foldl | split | simp only [Keeps.mk_iff]

theorem kdAcked_keeps {fr : Frame} [Fact (fr.heartwood = false)] [Fact (fr.flash = false)] {s₀ : State} {k : Port} {s : State} (hK : Keeps fr s₀ s) :
    Keeps fr s₀ (kdAcked k s) := by
  unfold kdAcked; try dsimp only
  repeat' first
    | with_reducible assumption | intro _ | with_reducible apply clearAcked_keeps
    | with_reducible apply kdNext_keeps | with_reducible apply pumpOtp_keeps | with_reducible apply Keeps.foldl
    | split

theorem execKdAck_keeps {fr : Frame} [Fact (fr.heartwood = false)] [Fact (fr.flash = false)] {s₀ : State} {k : Port} {s : State} (hK : Keeps fr s₀ s) {t} (e : execKdAck k s = .next t) :
    Keeps fr s₀ t := by
  unfold execKdAck at e; try dsimp only at e
  (repeat' split at e) <;> first | contradiction | (cases e)
  all_goals
    repeat' first | with_reducible assumption | intro _ | with_reducible apply kdAcked_keeps

/-! ## CellRows -/

theorem pkeFailed_keeps {fr : Frame} {s₀ : State} {id : Nat} {st : Status} {s : State} (hK : Keeps fr s₀ s) :
    Keeps fr s₀ (pkeFailed id st s) := by
  unfold pkeFailed; try dsimp only
  repeat' first
    | with_reducible assumption | intro _ | with_reducible apply dropCollection_keeps
    | with_reducible apply dropUnits_keeps | with_reducible apply failJob_keeps
    | with_reducible apply loadOutOfCells_keeps | with_reducible apply Keeps.foldl | split

theorem unitFailed_keeps {fr : Frame} [Fact (fr.heartwood = false)] [Fact (fr.flash = false)] {s₀ : State} {o : UnitOwner} {st : Status} {s : State} (hK : Keeps fr s₀ s) :
    Keeps fr s₀ (unitFailed o st s) := by
  unfold unitFailed; try dsimp only
  repeat' first
    | with_reducible assumption | intro _ | with_reducible apply abandonPass_keeps
    | with_reducible apply digJobFailed_keeps | with_reducible apply drainFailed_keeps
    | with_reducible apply dropUnits_keeps | with_reducible apply loadOutOfCells_keeps
    | with_reducible apply pkeFailed_keeps | with_reducible apply pumpOtp_keeps
    | with_reducible apply readFailed_keeps | with_reducible apply Keeps.foldl | split

theorem pipesGone_keeps {fr : Frame} {s₀ : State} {s : State} (hK : Keeps fr s₀ s) : Keeps fr s₀ (pipesGone s) := by
  unfold pipesGone; try dsimp only
  repeat' first
    | with_reducible assumption | intro _ | with_reducible apply digJobFailed_keeps
    | with_reducible apply drainFailed_keeps | with_reducible apply Keeps.foldl | split

theorem cellsLost_keeps {fr : Frame} [Fact (fr.heartwood = false)] [Fact (fr.flash = false)] {s₀ : State} {s : State} (hK : Keeps fr s₀ s) :
    Keeps fr s₀ (cellsLost s) := by
  unfold cellsLost; try dsimp only
  repeat' first
    | with_reducible assumption | intro _ | with_reducible apply lanesGone_keeps
    | with_reducible apply pipesGone_keeps | with_reducible apply pkeFailed_keeps
    | with_reducible apply unitFailed_keeps | with_reducible apply Keeps.foldl

theorem countRetry_keeps {fr : Frame} {s₀ : State} {u : CellUnit} {s : State} (hK : Keeps fr s₀ s) :
    Keeps fr s₀ (countRetry u s) := by
  unfold countRetry; try dsimp only
  repeat' first
    | with_reducible assumption | intro _ | with_reducible apply Keeps.foldl | split | simp only [Keeps.mk_iff]

theorem cellError_keeps {fr : Frame} {s₀ : State} {c : Cell} {kind attempt : Nat} {s : State} (hK : Keeps fr s₀ s) :
    Keeps fr s₀ (cellError c kind attempt s) := by
  unfold cellError; try dsimp only
  repeat' first
    | with_reducible assumption | intro _ | with_reducible apply State.modCell_keeps
    | with_reducible apply record_keeps | with_reducible apply retireCell_keeps | with_reducible apply Keeps.foldl
    | split

theorem retryUnit_keeps {fr : Frame} [Fact (fr.heartwood = false)] [Fact (fr.flash = false)] {s₀ : State} {u : CellUnit} {s : State} (hK : Keeps fr s₀ s) :
    Keeps fr s₀ (retryUnit u s) := by
  unfold retryUnit; try dsimp only
  repeat' first
    | with_reducible assumption | intro _ | with_reducible apply countRetry_keeps
    | with_reducible apply giveUnit_keeps | with_reducible apply unitFailed_keeps
    | with_reducible apply Keeps.foldl | split | simp only [Keeps.mk_iff]

theorem pkeWorkDone_keeps {fr : Frame} [Fact (fr.heartwood = false)] {s₀ : State} {j : Job} {s : State} (hK : Keeps fr s₀ s) :
    Keeps fr s₀ (pkeWorkDone j s) := by
  unfold pkeWorkDone; try dsimp only
  repeat' first
    | with_reducible assumption | intro _ | with_reducible apply collectSigned_keeps
    | with_reducible apply consentDone_keeps | with_reducible apply endPke_keeps
    | with_reducible apply evidenceSigned_keeps | with_reducible apply loadPkeDone_keeps
    | with_reducible apply proveDone_keeps | with_reducible apply Keeps.foldl | split

theorem partDone_keeps {fr : Frame} [Fact (fr.heartwood = false)] {s₀ : State} {id : Nat} {b : Fin 6} {s : State} (hK : Keeps fr s₀ s) :
    Keeps fr s₀ (partDone id b s) := by
  unfold partDone; try dsimp only
  repeat' first
    | with_reducible assumption | intro _ | with_reducible apply pkeWorkDone_keeps
    | with_reducible apply setJob_keeps | with_reducible apply Keeps.foldl | split

theorem deliver_keeps {fr : Frame} [Fact (fr.heartwood = false)] [Fact (fr.flash = false)] {s₀ : State} {o : UnitOwner} {c : Cell} {more : Bool} {s : State} (hK : Keeps fr s₀ s) :
    Keeps fr s₀ (deliver o c more s) := by
  unfold deliver; try dsimp only
  repeat' first
    | with_reducible assumption | intro _ | with_reducible apply cellError_keeps
    | with_reducible apply chunkAgainDone_keeps | with_reducible apply chunkDone_keeps
    | with_reducible apply digJobBlock_keeps | with_reducible apply drainBlock_keeps
    | with_reducible apply leafDone_keeps | with_reducible apply marginRead_keeps
    | with_reducible apply partDone_keeps | with_reducible apply pumpOtp_keeps
    | with_reducible apply submitUnit_keeps | with_reducible apply sweepLeafDone_keeps
    | with_reducible apply Keeps.foldl | split | simp only [Keeps.mk_iff] | refine Keeps.of_snd ‹_› ?_
    | refine Keeps.of_fst ‹_› ?_

theorem unitDone_keeps {fr : Frame} [Fact (fr.heartwood = false)] [Fact (fr.flash = false)] {s₀ : State} {c : Cell} {ok more : Bool} {s : State} (hK : Keeps fr s₀ s) :
    Keeps fr s₀ (unitDone c ok more s) := by
  unfold unitDone; try dsimp only
  repeat' first
    | with_reducible assumption | intro _ | with_reducible apply cellError_keeps
    | with_reducible apply cellsLost_keeps | with_reducible apply deliver_keeps
    | with_reducible apply idleCell_keeps | with_reducible apply State.modCell_keeps
    | with_reducible apply placeWaiting_keeps | with_reducible apply retryUnit_keeps
    | with_reducible apply Keeps.foldl | split

theorem execCellUnitDone_keeps {fr : Frame} [Fact (fr.heartwood = false)] [Fact (fr.flash = false)] {s₀ : State} {c : Cell} {ok more : Bool} {s : State} (hK : Keeps fr s₀ s) {t} (e : execCellUnitDone c ok more s = .next t) :
    Keeps fr s₀ t := by
  unfold execCellUnitDone at e
  obtain rfl := Host.Outcome.next.inj e
  try dsimp only
  repeat' first
    | with_reducible assumption | intro _ | with_reducible apply unitDone_keeps | with_reducible apply Keeps.foldl
    | split

theorem testDone_keeps {fr : Frame} [Fact (fr.heartwood = false)] [Fact (fr.flash = false)] {s₀ : State} {c : Cell} {failed : BitVec 8} {s : State} (hK : Keeps fr s₀ s) :
    Keeps fr s₀ (testDone c failed s) := by
  unfold testDone; try dsimp only
  repeat' first
    | with_reducible assumption | intro _ | with_reducible apply cellsLost_keeps
    | with_reducible apply endRetest_keeps | with_reducible apply State.modCell_keeps
    | with_reducible apply placeWaiting_keeps | with_reducible apply retireCell_keeps
    | with_reducible apply Keeps.foldl | split

theorem execKnownAnswerTestDone_keeps {fr : Frame} [Fact (fr.heartwood = false)] [Fact (fr.flash = false)] {s₀ : State} {c : Cell} {failed : BitVec 8} {s : State} (hK : Keeps fr s₀ s) {t} (e : execKnownAnswerTestDone c failed s = .next t) :
    Keeps fr s₀ t := by
  unfold execKnownAnswerTestDone at e
  obtain rfl := Host.Outcome.next.inj e
  try dsimp only
  repeat' first
    | with_reducible assumption | intro _ | with_reducible apply testDone_keeps | with_reducible apply Keeps.foldl
    | split

/-! ## Seats -/

theorem refuseCmd_keeps {fr : Frame} {s₀ : State} {n : Seat} {st : Status} {hint : Nat} {s : State} (hK : Keeps fr s₀ s) :
    Keeps fr s₀ (refuseCmd n st hint s) := by
  unfold refuseCmd; try dsimp only
  repeat' first | with_reducible assumption | intro _ | with_reducible apply State.modSeat_keeps

theorem noteRefused_keeps {fr : Frame} {s₀ : State} {n : Seat} {code : BitVec 16} {s : State} (hK : Keeps fr s₀ s) :
    Keeps fr s₀ (noteRefused n code s) := by
  unfold noteRefused; try dsimp only
  repeat' first | with_reducible assumption | intro _ | with_reducible apply recordLimited_keeps

theorem refuseBusy_keeps {fr : Frame} {s₀ : State} {n : Seat} {c : QClass} {s : State} (hK : Keeps fr s₀ s) :
    Keeps fr s₀ (refuseBusy n c s) := by
  unfold refuseBusy; try dsimp only
  repeat' first
    | with_reducible assumption | intro _ | with_reducible apply drawWord_keeps
    | with_reducible apply refuseCmd_keeps | with_reducible apply Keeps.foldl | split

theorem acceptCmd_keeps {fr : Frame} {s₀ : State} {n : Seat} {o : Op} {tag : BitVec 16} {e : EntryIx} {s : State} (hK : Keeps fr s₀ s) :
    Keeps fr s₀ (acceptCmd n o tag e s) := by
  unfold acceptCmd; try dsimp only
  repeat' first
    | with_reducible assumption | intro _ | with_reducible apply State.modSeat_keeps
    | with_reducible apply Keeps.foldl | split | simp only [Keeps.mk_iff]

theorem afterAccept_keeps {fr : Frame} {s₀ : State} {n : Seat} {o : Op} {e : EntryIx} {s : State} (hK : Keeps fr s₀ s) :
    Keeps fr s₀ (afterAccept n o e s) := by
  unfold afterAccept; try dsimp only
  repeat' first
    | with_reducible assumption | intro _ | with_reducible apply choosePke_keeps
    | with_reducible apply postEntry_keeps | with_reducible apply raiseFault_keeps
    | with_reducible apply Keeps.foldl | split

theorem submitCmd_keeps {fr : Frame} {s₀ : State} {n : Seat} {data : Word} {s : State} (hK : Keeps fr s₀ s) :
    Keeps fr s₀ (submitCmd n data s) := by
  unfold submitCmd; try dsimp only
  repeat' first
    | with_reducible assumption | intro _ | with_reducible apply acceptCmd_keeps
    | with_reducible apply afterAccept_keeps | with_reducible apply noteRefused_keeps
    | with_reducible apply refuseBusy_keeps | with_reducible apply refuseCmd_keeps
    | with_reducible apply Keeps.foldl | split

theorem releaseEntry_keeps {fr : Frame} {s₀ : State} {n : Seat} {data : Word} {s : State} (hK : Keeps fr s₀ s) :
    Keeps fr s₀ (releaseEntry n data s) := by
  unfold releaseEntry; try dsimp only
  repeat' first
    | with_reducible assumption | intro _ | with_reducible apply State.modSeat_keeps
    | with_reducible apply raiseFault_keeps | with_reducible apply Keeps.foldl | split

theorem abortEntry_keeps {fr : Frame} [Fact (fr.heartwood = false)] [Fact (fr.flash = false)] {s₀ : State} {n : Seat} {data : Word} {s : State} (hK : Keeps fr s₀ s) :
    Keeps fr s₀ (abortEntry n data s) := by
  unfold abortEntry; try dsimp only
  repeat' first
    | with_reducible assumption | intro _ | with_reducible apply abortJob_keeps
    | with_reducible apply postEntry_keeps | with_reducible apply pumpOtp_keeps
    | with_reducible apply raiseFault_keeps | with_reducible apply Keeps.foldl | split

theorem resetWrite_keeps {fr : Frame} {s₀ : State} {n : Seat} {data : Word} {s : State} (hK : Keeps fr s₀ s) :
    Keeps fr s₀ (resetWrite n data s) := by
  unfold resetWrite; try dsimp only
  repeat' first
    | with_reducible assumption | intro _ | with_reducible apply placeWaiting_keeps
    | with_reducible apply pumpContexts_keeps | with_reducible apply resetSeat_keeps
    | with_reducible apply Keeps.foldl | split

theorem clearFault_keeps {fr : Frame} {s₀ : State} {n : Seat} {data : Word} {s : State} (hK : Keeps fr s₀ s) :
    Keeps fr s₀ (clearFault n data s) := by
  unfold clearFault; try dsimp only
  repeat' first | with_reducible assumption | intro _ | with_reducible apply State.modSeat_keeps

theorem clearSeatIrq_keeps {fr : Frame} {s₀ : State} {n : Seat} {data : Word} {s : State} (hK : Keeps fr s₀ s) :
    Keeps fr s₀ (clearSeatIrq n data s) := by
  unfold clearSeatIrq; try dsimp only
  repeat' first | with_reducible assumption | intro _ | with_reducible apply modSeatIrq_keeps

theorem enableSeatIrq_keeps {fr : Frame} {s₀ : State} {n : Seat} {data : Word} {s : State} (hK : Keeps fr s₀ s) :
    Keeps fr s₀ (enableSeatIrq n data s) := by
  unfold enableSeatIrq; try dsimp only
  repeat' first | with_reducible assumption | intro _ | with_reducible apply modSeatIrq_keeps

theorem clearCoreIrq_keeps {fr : Frame} {s₀ : State} {n : Seat} {data : Word} {s : State} (hK : Keeps fr s₀ s) :
    Keeps fr s₀ (clearCoreIrq n data s) := by
  unfold clearCoreIrq; try dsimp only
  repeat' first
    | with_reducible assumption | intro _ | with_reducible apply modSeatIrq_keeps
    | with_reducible apply Keeps.foldl | split

theorem enableCoreIrq_keeps {fr : Frame} {s₀ : State} {n : Seat} {data : Word} {s : State} (hK : Keeps fr s₀ s) :
    Keeps fr s₀ (enableCoreIrq n data s) := by
  unfold enableCoreIrq; try dsimp only
  repeat' first
    | with_reducible assumption | intro _ | with_reducible apply modSeatIrq_keeps
    | with_reducible apply Keeps.foldl | split

theorem clearEmptied_keeps {fr : Frame} {s₀ : State} {n : Seat} {upper : Bool} {s : State} (hK : Keeps fr s₀ s) :
    Keeps fr s₀ (clearEmptied n upper s) := by
  unfold clearEmptied; try dsimp only
  repeat' first | with_reducible assumption | intro _ | with_reducible apply State.modSeat_keeps

theorem writeSeat_keeps {fr : Frame} [Fact (fr.heartwood = false)] [Fact (fr.flash = false)] {s₀ : State} {n : Seat} {off : Nat} {data : Word} {s : State} (hK : Keeps fr s₀ s) :
    Keeps fr s₀ (writeSeat n off data s) := by
  unfold writeSeat; try dsimp only
  repeat' first
    | with_reducible assumption | intro _ | with_reducible apply abortEntry_keeps
    | with_reducible apply clearFault_keeps | with_reducible apply clearSeatIrq_keeps
    | with_reducible apply enableSeatIrq_keeps | with_reducible apply State.modSeat_keeps
    | with_reducible apply releaseEntry_keeps | with_reducible apply resetWrite_keeps
    | with_reducible apply submitCmd_keeps | with_reducible apply Keeps.foldl | split

theorem execJobComplete_keeps {fr : Frame} {s₀ : State} {n : Seat} {c : QClass} {e : EntryIx} {s : State} (hK : Keeps fr s₀ s) {t} (e : execJobComplete n c e s = .next t) :
    Keeps fr s₀ t := by
  unfold execJobComplete at e
  obtain rfl := Host.Outcome.next.inj e
  try dsimp only
  repeat' first
    | with_reducible assumption | intro _ | with_reducible apply finishJob_keeps
    | with_reducible apply Keeps.foldl | split

theorem execRoleLapse_keeps {fr : Frame} {s₀ : State} {n : Seat} {s : State} (hK : Keeps fr s₀ s) {t} (e : execRoleLapse n s = .next t) :
    Keeps fr s₀ t := by
  unfold execRoleLapse at e
  obtain rfl := Host.Outcome.next.inj e
  try dsimp only
  repeat' first
    | with_reducible assumption | intro _ | with_reducible apply endRole_keeps | with_reducible apply Keeps.foldl
    | split

theorem execNonceExpiry_keeps {fr : Frame} {s₀ : State} {n : Seat} {consent : Bool} {s : State} (hK : Keeps fr s₀ s) {t} (e : execNonceExpiry n consent s = .next t) :
    Keeps fr s₀ t := by
  unfold execNonceExpiry at e; try dsimp only at e
  (repeat' split at e) <;> first | contradiction | (cases e)
  all_goals
    repeat' first | with_reducible assumption | intro _ | with_reducible apply modAuth_keeps

/-! ## Access -/

theorem readEffect_keeps {fr : Frame} {s₀ : State} {n : Seat} {addr : Nat} {s : State} (hK : Keeps fr s₀ s) :
    Keeps fr s₀ (readEffect n addr s) := by
  unfold readEffect; try dsimp only
  repeat' first
    | with_reducible assumption | intro _ | with_reducible apply clearBeatEvents_keeps
    | with_reducible apply clearBlocked_keeps | with_reducible apply clearDigCounts_keeps
    | with_reducible apply clearEmptied_keeps | with_reducible apply clearIngDrop_keeps
    | with_reducible apply clearPkeCounts_keeps | with_reducible apply infoReadEffect_keeps
    | with_reducible apply Keeps.foldl | split

theorem captureEffect_keeps {fr : Frame} {s₀ : State} {n : Seat} {addr : Nat} {s : State} (hK : Keeps fr s₀ s) :
    Keeps fr s₀ (captureEffect n addr s) := by
  unfold captureEffect; try dsimp only
  repeat' first
    | with_reducible assumption | intro _ | with_reducible apply captureNow_keeps
    | with_reducible apply Keeps.foldl | split

theorem writeBlock_keeps {fr : Frame} [Fact (fr.heartwood = false)] [Fact (fr.flash = false)] {s₀ : State} {n : Seat} {addr : Nat} {data : Word} {s : State} (hK : Keeps fr s₀ s) :
    Keeps fr s₀ (writeBlock n addr data s) := by
  unfold writeBlock; try dsimp only
  repeat' first
    | with_reducible assumption | intro _ | with_reducible apply clearCoreIrq_keeps
    | with_reducible apply confirmWrite_keeps | with_reducible apply enableCoreIrq_keeps
    | with_reducible apply linkDoorbellWrite_keeps | with_reducible apply State.modSeat_keeps
    | with_reducible apply postNotice_keeps | with_reducible apply pumpOtp_keeps
    | with_reducible apply stateWriteEffect_keeps | with_reducible apply writeGroveIn_keeps
    | with_reducible apply writeWord_keeps | with_reducible apply Keeps.foldl | split

theorem writeWide_keeps {fr : Frame} [Fact (fr.heartwood = false)] [Fact (fr.flash = false)] {s₀ : State} {n : Seat} {addr : Nat} {data : Word} {s : State} (hK : Keeps fr s₀ s) :
    Keeps fr s₀ (writeWide n addr data s) := by
  unfold writeWide; try dsimp only
  repeat' first
    | with_reducible assumption | intro _ | with_reducible apply writeBlock_keeps
    | with_reducible apply writeSeat_keeps | with_reducible apply Keeps.foldl | split

theorem writeNarrow_keeps {fr : Frame} {s₀ : State} {n : Seat} {addr : Nat} {s : State} (hK : Keeps fr s₀ s) :
    Keeps fr s₀ (writeNarrow n addr s) := by
  unfold writeNarrow; try dsimp only
  repeat' first
    | with_reducible assumption | intro _ | with_reducible apply writeWord_keeps
    | with_reducible apply Keeps.foldl | split

theorem errorAnswer_keeps {fr : Frame} {s₀ : State} {src : BitVec 8} {addr : Nat} {s : State} (hK : Keeps fr s₀ s) :
    Keeps fr s₀ (errorAnswer src addr s).2 := by
  unfold errorAnswer; try dsimp only
  repeat' first | with_reducible assumption | intro _ | with_reducible apply recordLimited_keeps

theorem noteForeign_keeps {fr : Frame} {s₀ : State} {n : Seat} {addr : Nat} {s : State} (hK : Keeps fr s₀ s) :
    Keeps fr s₀ (noteForeign n addr s) := by
  unfold noteForeign; try dsimp only
  repeat' first
    | with_reducible assumption | intro _ | with_reducible apply recordLimited_keeps
    | with_reducible apply Keeps.foldl | split

theorem wakeWrite_keeps {fr : Frame} [Fact (fr.flash = false)] {s₀ : State} {n : Seat} {s : State} (hK : Keeps fr s₀ s) :
    Keeps fr s₀ (wakeWrite n s) := by
  unfold wakeWrite; try dsimp only
  repeat' first
    | with_reducible assumption | intro _ | with_reducible apply record_keeps
    | with_reducible apply wakeCore_keeps | with_reducible apply Keeps.foldl | split

theorem watchAccess_keeps {fr : Frame} [Fact (fr.flash = false)] {s₀ : State} {n : Seat} {x : Xfer} {s : State} (hK : Keeps fr s₀ s) :
    Keeps fr s₀ (watchAccess n x s).2 := by
  unfold watchAccess; try dsimp only
  repeat' first
    | with_reducible assumption | intro _ | with_reducible apply errorAnswer_keeps
    | with_reducible apply wakeWrite_keeps | with_reducible apply Keeps.foldl | split

theorem windowAccess_keeps {fr : Frame} {s₀ : State} {x : Xfer} {s : State} (hK : Keeps fr s₀ s) :
    Keeps fr s₀ (windowAccess x s).2 := by
  unfold windowAccess; try dsimp only
  repeat' first
    | with_reducible assumption | intro _ | with_reducible apply windowWrite_keeps
    | with_reducible apply Keeps.foldl | split

theorem readAccess_keeps {fr : Frame} {s₀ : State} {n : Seat} {x : Xfer} {s : State} (hK : Keeps fr s₀ s) :
    Keeps fr s₀ (readAccess n x s).2 := by
  unfold readAccess; try dsimp only
  repeat' first
    | with_reducible assumption | intro _ | with_reducible apply captureEffect_keeps
    | with_reducible apply noteForeign_keeps | with_reducible apply readEffect_keeps
    | with_reducible apply Keeps.foldl | split

theorem writeAccess_keeps {fr : Frame} [Fact (fr.heartwood = false)] [Fact (fr.flash = false)] {s₀ : State} {n : Seat} {x : Xfer} {s : State} (hK : Keeps fr s₀ s) :
    Keeps fr s₀ (writeAccess n x s) := by
  unfold writeAccess; try dsimp only
  repeat' first
    | with_reducible assumption | intro _ | with_reducible apply noteForeign_keeps
    | with_reducible apply writeNarrow_keeps | with_reducible apply writeWide_keeps
    | with_reducible apply Keeps.foldl | split

theorem perform_keeps {fr : Frame} [Fact (fr.heartwood = false)] [Fact (fr.flash = false)] {s₀ : State} {src : BitVec 8} {x : Xfer} {s : State} (hK : Keeps fr s₀ s) :
    Keeps fr s₀ (perform src x s).2 := by
  unfold perform; try dsimp only
  repeat' first
    | with_reducible assumption | intro _ | with_reducible apply errorAnswer_keeps
    | with_reducible apply readAccess_keeps | with_reducible apply watchAccess_keeps
    | with_reducible apply windowAccess_keeps | with_reducible apply writeAccess_keeps
    | with_reducible apply Keeps.foldl | split

theorem respond_keeps {fr : Frame} {s₀ : State} {a : Access} {r : Answer × State} (hK : Keeps fr s₀ r.2) :
    Keeps fr s₀ (respond a r) := by
  unfold respond; simp only [Keeps.mk_iff]; exact hK

theorem answer_keeps {fr : Frame} [Fact (fr.heartwood = false)] [Fact (fr.flash = false)] {s₀ : State} {a : Access} {s : State} (hK : Keeps fr s₀ s) :
    Keeps fr s₀ (answer a s) :=
  respond_keeps (perform_keeps hK)

theorem serveHeld_keeps {fr : Frame} [Fact (fr.heartwood = false)] [Fact (fr.flash = false)] {s₀ : State} {s : State} (hK : Keeps fr s₀ s) :
    Keeps fr s₀ (serveHeld s) := by
  unfold serveHeld; try dsimp only
  repeat' first
    | with_reducible assumption | intro _ | with_reducible apply answer_keeps | with_reducible apply Keeps.foldl
    | split | simp only [Keeps.mk_iff]

theorem serve_keeps {fr : Frame} [Fact (fr.heartwood = false)] [Fact (fr.flash = false)] {s₀ : State} {a : Access} {s : State} (hK : Keeps fr s₀ s) :
    Keeps fr s₀ (serve a s) := by
  unfold serve; try dsimp only
  repeat' first
    | with_reducible assumption | intro _ | with_reducible apply answer_keeps
    | with_reducible apply serveHeld_keeps | with_reducible apply Keeps.foldl | split | simp only [Keeps.mk_iff]

theorem execSeatCmdHdr_keeps {fr : Frame} [Fact (fr.heartwood = false)] [Fact (fr.flash = false)] {s₀ : State} {n : Seat} {rq : Req} {s : State} (hK : Keeps fr s₀ s) {t} (e : execSeatCmdHdr n rq s = .next t) :
    Keeps fr s₀ t := by
  unfold execSeatCmdHdr at e
  obtain rfl := Host.Outcome.next.inj e
  try dsimp only
  repeat' first | with_reducible assumption | intro _ | with_reducible apply serve_keeps

theorem execSeatRelease_keeps {fr : Frame} [Fact (fr.heartwood = false)] [Fact (fr.flash = false)] {s₀ : State} {n : Seat} {rq : Req} {s : State} (hK : Keeps fr s₀ s) {t} (e : execSeatRelease n rq s = .next t) :
    Keeps fr s₀ t := by
  unfold execSeatRelease at e
  obtain rfl := Host.Outcome.next.inj e
  try dsimp only
  repeat' first | with_reducible assumption | intro _ | with_reducible apply serve_keeps

theorem execSeatAbort_keeps {fr : Frame} [Fact (fr.heartwood = false)] [Fact (fr.flash = false)] {s₀ : State} {n : Seat} {rq : Req} {s : State} (hK : Keeps fr s₀ s) {t} (e : execSeatAbort n rq s = .next t) :
    Keeps fr s₀ t := by
  unfold execSeatAbort at e
  obtain rfl := Host.Outcome.next.inj e
  try dsimp only
  repeat' first | with_reducible assumption | intro _ | with_reducible apply serve_keeps

theorem execSeatReset_keeps {fr : Frame} [Fact (fr.heartwood = false)] [Fact (fr.flash = false)] {s₀ : State} {n : Seat} {rq : Req} {s : State} (hK : Keeps fr s₀ s) {t} (e : execSeatReset n rq s = .next t) :
    Keeps fr s₀ t := by
  unfold execSeatReset at e
  obtain rfl := Host.Outcome.next.inj e
  try dsimp only
  repeat' first | with_reducible assumption | intro _ | with_reducible apply serve_keeps

theorem execSeatFaultClear_keeps {fr : Frame} [Fact (fr.heartwood = false)] [Fact (fr.flash = false)] {s₀ : State} {n : Seat} {rq : Req} {s : State} (hK : Keeps fr s₀ s) {t} (e : execSeatFaultClear n rq s = .next t) :
    Keeps fr s₀ t := by
  unfold execSeatFaultClear at e
  obtain rfl := Host.Outcome.next.inj e
  try dsimp only
  repeat' first | with_reducible assumption | intro _ | with_reducible apply serve_keeps

theorem execSeatIrqStatusClear_keeps {fr : Frame} [Fact (fr.heartwood = false)] [Fact (fr.flash = false)] {s₀ : State} {n : Seat} {rq : Req} {s : State} (hK : Keeps fr s₀ s) {t} (e : execSeatIrqStatusClear n rq s = .next t) :
    Keeps fr s₀ t := by
  unfold execSeatIrqStatusClear at e
  obtain rfl := Host.Outcome.next.inj e
  try dsimp only
  repeat' first | with_reducible assumption | intro _ | with_reducible apply serve_keeps

theorem execSeatIrqEnWrite_keeps {fr : Frame} [Fact (fr.heartwood = false)] [Fact (fr.flash = false)] {s₀ : State} {n : Seat} {rq : Req} {s : State} (hK : Keeps fr s₀ s) {t} (e : execSeatIrqEnWrite n rq s = .next t) :
    Keeps fr s₀ t := by
  unfold execSeatIrqEnWrite at e
  obtain rfl := Host.Outcome.next.inj e
  try dsimp only
  repeat' first | with_reducible assumption | intro _ | with_reducible apply serve_keeps

theorem execCoreIrqStatusClear_keeps {fr : Frame} [Fact (fr.heartwood = false)] [Fact (fr.flash = false)] {s₀ : State} {rq : Req} {s : State} (hK : Keeps fr s₀ s) {t} (e : execCoreIrqStatusClear rq s = .next t) :
    Keeps fr s₀ t := by
  unfold execCoreIrqStatusClear at e
  obtain rfl := Host.Outcome.next.inj e
  try dsimp only
  repeat' first | with_reducible assumption | intro _ | with_reducible apply serve_keeps

theorem execCoreIrqEnWrite_keeps {fr : Frame} [Fact (fr.heartwood = false)] [Fact (fr.flash = false)] {s₀ : State} {rq : Req} {s : State} (hK : Keeps fr s₀ s) {t} (e : execCoreIrqEnWrite rq s = .next t) :
    Keeps fr s₀ t := by
  unfold execCoreIrqEnWrite at e
  obtain rfl := Host.Outcome.next.inj e
  try dsimp only
  repeat' first | with_reducible assumption | intro _ | with_reducible apply serve_keeps

theorem wakeTests_keeps {fr : Frame} {s₀ : State} {cellsFailed : List Cell} {s : State} (hK : Keeps fr s₀ s) :
    Keeps fr s₀ (wakeTests cellsFailed s) := by
  unfold wakeTests; try dsimp only
  repeat' first | with_reducible assumption | intro _ | with_reducible apply retireCells_keeps

theorem execCoreWake_keeps {fr : Frame} [Fact (fr.heartwood = false)] [Fact (fr.flash = false)] {s₀ : State} {rq : Req} {cellsFailed : List Cell} {s : State} (hK : Keeps fr s₀ s) {t} (e : execCoreWake rq cellsFailed s = .next t) :
    Keeps fr s₀ t := by
  unfold execCoreWake at e; try dsimp only at e
  (repeat' split at e) <;> first | contradiction | (cases e)
  all_goals
    repeat' first
      | with_reducible assumption | intro _ | with_reducible apply serve_keeps
      | with_reducible apply wakeTests_keeps

theorem execRegisterWrite_keeps {fr : Frame} [Fact (fr.heartwood = false)] [Fact (fr.flash = false)] {s₀ : State} {a : Access} {s : State} (hK : Keeps fr s₀ s) {t} (e : execRegisterWrite a s = .next t) :
    Keeps fr s₀ t := by
  unfold execRegisterWrite at e
  obtain rfl := Host.Outcome.next.inj e
  try dsimp only
  repeat' first | with_reducible assumption | intro _ | with_reducible apply serve_keeps

theorem execAccessErrorResponse_keeps {fr : Frame} [Fact (fr.heartwood = false)] [Fact (fr.flash = false)] {s₀ : State} {a : Access} {s : State} (hK : Keeps fr s₀ s) {t} (e : execAccessErrorResponse a s = .next t) :
    Keeps fr s₀ t := by
  unfold execAccessErrorResponse at e
  obtain rfl := Host.Outcome.next.inj e
  try dsimp only
  repeat' first | with_reducible assumption | intro _ | with_reducible apply serve_keeps

theorem execBeatNowRead_keeps {fr : Frame} [Fact (fr.heartwood = false)] [Fact (fr.flash = false)] {s₀ : State} {rq : Req} {s : State} (hK : Keeps fr s₀ s) {t} (e : execBeatNowRead rq s = .next t) :
    Keeps fr s₀ t := by
  unfold execBeatNowRead at e
  obtain rfl := Host.Outcome.next.inj e
  try dsimp only
  repeat' first | with_reducible assumption | intro _ | with_reducible apply serve_keeps

theorem execBeatEventsRead_keeps {fr : Frame} [Fact (fr.heartwood = false)] [Fact (fr.flash = false)] {s₀ : State} {rq : Req} {s : State} (hK : Keeps fr s₀ s) {t} (e : execBeatEventsRead rq s = .next t) :
    Keeps fr s₀ t := by
  unfold execBeatEventsRead at e
  obtain rfl := Host.Outcome.next.inj e
  try dsimp only
  repeat' first | with_reducible assumption | intro _ | with_reducible apply serve_keeps

theorem execPkeCountsRead_keeps {fr : Frame} [Fact (fr.heartwood = false)] [Fact (fr.flash = false)] {s₀ : State} {rq : Req} {s : State} (hK : Keeps fr s₀ s) {t} (e : execPkeCountsRead rq s = .next t) :
    Keeps fr s₀ t := by
  unfold execPkeCountsRead at e
  obtain rfl := Host.Outcome.next.inj e
  try dsimp only
  repeat' first | with_reducible assumption | intro _ | with_reducible apply serve_keeps

theorem execDigCountsRead_keeps {fr : Frame} [Fact (fr.heartwood = false)] [Fact (fr.flash = false)] {s₀ : State} {rq : Req} {s : State} (hK : Keeps fr s₀ s) {t} (e : execDigCountsRead rq s = .next t) :
    Keeps fr s₀ t := by
  unfold execDigCountsRead at e
  obtain rfl := Host.Outcome.next.inj e
  try dsimp only
  repeat' first | with_reducible assumption | intro _ | with_reducible apply serve_keeps

theorem execIngDropRead_keeps {fr : Frame} [Fact (fr.heartwood = false)] [Fact (fr.flash = false)] {s₀ : State} {rq : Req} {s : State} (hK : Keeps fr s₀ s) {t} (e : execIngDropRead rq s = .next t) :
    Keeps fr s₀ t := by
  unfold execIngDropRead at e
  obtain rfl := Host.Outcome.next.inj e
  try dsimp only
  repeat' first | with_reducible assumption | intro _ | with_reducible apply serve_keeps

theorem execPartBlockedRead_keeps {fr : Frame} [Fact (fr.heartwood = false)] [Fact (fr.flash = false)] {s₀ : State} {n : Part} {rq : Req} {s : State} (hK : Keeps fr s₀ s) {t} (e : execPartBlockedRead n rq s = .next t) :
    Keeps fr s₀ t := by
  unfold execPartBlockedRead at e
  obtain rfl := Host.Outcome.next.inj e
  try dsimp only
  repeat' first | with_reducible assumption | intro _ | with_reducible apply serve_keeps

theorem execSeatMbxEmptiedRead_keeps {fr : Frame} [Fact (fr.heartwood = false)] [Fact (fr.flash = false)] {s₀ : State} {n : Seat} {upper : Bool} {rq : Req} {s : State} (hK : Keeps fr s₀ s) {t} (e : execSeatMbxEmptiedRead n upper rq s = .next t) :
    Keeps fr s₀ t := by
  unfold execSeatMbxEmptiedRead at e
  obtain rfl := Host.Outcome.next.inj e
  try dsimp only
  repeat' first | with_reducible assumption | intro _ | with_reducible apply serve_keeps

theorem execMbxPost_keeps {fr : Frame} [Fact (fr.heartwood = false)] [Fact (fr.flash = false)] {s₀ : State} {m : Mbx} {rq : Req} {s : State} (hK : Keeps fr s₀ s) {t} (e : execMbxPost m rq s = .next t) :
    Keeps fr s₀ t := by
  unfold execMbxPost at e
  obtain rfl := Host.Outcome.next.inj e
  try dsimp only
  repeat' first | with_reducible assumption | intro _ | with_reducible apply serve_keeps

theorem execMbxInfoRead_keeps {fr : Frame} [Fact (fr.heartwood = false)] [Fact (fr.flash = false)] {s₀ : State} {m : Mbx} {rq : Req} {s : State} (hK : Keeps fr s₀ s) {t} (e : execMbxInfoRead m rq s = .next t) :
    Keeps fr s₀ t := by
  unfold execMbxInfoRead at e
  obtain rfl := Host.Outcome.next.inj e
  try dsimp only
  repeat' first | with_reducible assumption | intro _ | with_reducible apply serve_keeps

theorem execMbxEmpty_keeps {fr : Frame} [Fact (fr.heartwood = false)] [Fact (fr.flash = false)] {s₀ : State} {m : Mbx} {rq : Req} {s : State} (hK : Keeps fr s₀ s) {t} (e : execMbxEmpty m rq s = .next t) :
    Keeps fr s₀ t := by
  unfold execMbxEmpty at e
  obtain rfl := Host.Outcome.next.inj e
  try dsimp only
  repeat' first | with_reducible assumption | intro _ | with_reducible apply serve_keeps

theorem execBootConfirm_keeps {fr : Frame} [Fact (fr.heartwood = false)] [Fact (fr.flash = false)] {s₀ : State} {rq : Req} {s : State} (hK : Keeps fr s₀ s) {t} (e : execBootConfirm rq s = .next t) :
    Keeps fr s₀ t := by
  unfold execBootConfirm at e
  obtain rfl := Host.Outcome.next.inj e
  try dsimp only
  repeat' first | with_reducible assumption | intro _ | with_reducible apply serve_keeps

theorem execDigWord_keeps {fr : Frame} [Fact (fr.heartwood = false)] [Fact (fr.flash = false)] {s₀ : State} {rq : Req} {s : State} (hK : Keeps fr s₀ s) {t} (e : execDigWord rq s = .next t) :
    Keeps fr s₀ t := by
  unfold execDigWord at e
  obtain rfl := Host.Outcome.next.inj e
  try dsimp only
  repeat' first | with_reducible assumption | intro _ | with_reducible apply serve_keeps

theorem execDigLastWord_keeps {fr : Frame} [Fact (fr.heartwood = false)] [Fact (fr.flash = false)] {s₀ : State} {k : Fin 8} {rq : Req} {s : State} (hK : Keeps fr s₀ s) {t} (e : execDigLastWord k rq s = .next t) :
    Keeps fr s₀ t := by
  unfold execDigLastWord at e
  obtain rfl := Host.Outcome.next.inj e
  try dsimp only
  repeat' first | with_reducible assumption | intro _ | with_reducible apply serve_keeps

theorem execPartGroveIn7_keeps {fr : Frame} [Fact (fr.heartwood = false)] [Fact (fr.flash = false)] {s₀ : State} {rq : Req} {s : State} (hK : Keeps fr s₀ s) {t} (e : execPartGroveIn7 rq s = .next t) :
    Keeps fr s₀ t := by
  unfold execPartGroveIn7 at e
  obtain rfl := Host.Outcome.next.inj e
  try dsimp only
  repeat' first | with_reducible assumption | intro _ | with_reducible apply serve_keeps

theorem execKeysLinkRx_keeps {fr : Frame} [Fact (fr.heartwood = false)] [Fact (fr.flash = false)] {s₀ : State} {rq : Req} {s : State} (hK : Keeps fr s₀ s) {t} (e : execKeysLinkRx rq s = .next t) :
    Keeps fr s₀ t := by
  unfold execKeysLinkRx at e
  obtain rfl := Host.Outcome.next.inj e
  try dsimp only
  repeat' first | with_reducible assumption | intro _ | with_reducible apply serve_keeps

theorem runEntry_keeps {fr : Frame} [Fact (fr.heartwood = false)] [Fact (fr.flash = false)] {s₀ : State} {n : Seat} {e : Bytes} {s : State} (hK : Keeps fr s₀ s) :
    Keeps fr s₀ (runEntry n e s).2 := by
  unfold runEntry; try dsimp only
  repeat' first
    | with_reducible assumption | intro _ | with_reducible apply perform_keeps | with_reducible apply Keeps.foldl
    | split

theorem runEntries_keeps {fr : Frame} [Fact (fr.heartwood = false)] [Fact (fr.flash = false)] {s₀ : State} {n : Seat} {k : Nat} {es : Bytes} {s : State} (hK :
    Keeps fr s₀ s) :
    Keeps fr s₀ (runEntries n k es s).2 := by
  induction k generalizing es s with
  | zero => exact hK
  | succ k ih => exact ih (runEntry_keeps hK)

theorem accessFrame_keeps {fr : Frame} [Fact (fr.heartwood = false)] [Fact (fr.flash = false)] {s₀ : State} {p : MctpPath} {f : Bytes} {s : State} (hK : Keeps fr s₀ s) :
    Keeps fr s₀ (accessFrame p f s) := by
  unfold accessFrame; try dsimp only
  repeat' first
    | with_reducible assumption | intro _ | with_reducible apply emit_keeps | with_reducible apply record_keeps
    | with_reducible apply runEntries_keeps | with_reducible apply Keeps.foldl | split

theorem execAccessFrame_keeps {fr : Frame} [Fact (fr.heartwood = false)] [Fact (fr.flash = false)] {s₀ : State} {p : MctpPath} {f : Bytes} {s : State} (hK : Keeps fr s₀ s) {t} (e : execAccessFrame p f s = .next t) :
    Keeps fr s₀ t := by
  unfold execAccessFrame at e
  obtain rfl := Host.Outcome.next.inj e
  try dsimp only
  repeat' first
    | with_reducible assumption | intro _ | with_reducible apply accessFrame_keeps
    | with_reducible apply Keeps.foldl | split

theorem execLcauth_keeps {fr : Frame} [Fact (fr.heartwood = false)] [Fact (fr.flash = false)] {s₀ : State} {dr : BitVec 128} {s : State} (hK : Keeps fr s₀ s) {t} (e : execLcauth dr s = .next t) :
    Keeps fr s₀ t := by
  unfold execLcauth at e
  obtain rfl := Host.Outcome.next.inj e
  try dsimp only
  repeat' first
    | with_reducible assumption | intro _ | with_reducible apply runEntry_keeps | with_reducible apply Keeps.foldl
    | split | simp only [Keeps.mk_iff]

theorem execI3cEntdaa_keeps {fr : Frame} {s₀ : State} {s : State} (hK : Keeps fr s₀ s) {t} (e : execI3cEntdaa s = .next t) :
    Keeps fr s₀ t := by
  unfold execI3cEntdaa at e
  obtain rfl := Host.Outcome.next.inj e
  try dsimp only
  repeat' first
    | with_reducible assumption | intro _ | with_reducible apply wakeNotices_keeps
    | with_reducible apply Keeps.foldl | split | simp only [Keeps.mk_iff]

theorem execI3cBusFree_keeps {fr : Frame} {s₀ : State} {acked : Bool} {s : State} (hK : Keeps fr s₀ s) {t} (e : execI3cBusFree acked s = .next t) :
    Keeps fr s₀ t := by
  unfold execI3cBusFree at e
  obtain rfl := Host.Outcome.next.inj e
  try dsimp only
  repeat' first
    | with_reducible assumption | intro _ | with_reducible apply requestIbi_keeps
    | with_reducible apply Keeps.foldl | split | simp only [Keeps.mk_iff]

/-! ## ComputeReset -/

theorem modCreset_keeps {fr : Frame} {s₀ : State} {f : CReset → CReset} {s : State} (hK : Keeps fr s₀ s) :
    Keeps fr s₀ (modCreset f s) := by
  unfold modCreset; try dsimp only
  repeat' first
    | with_reducible assumption | intro _ | with_reducible apply Keeps.foldl | split | simp only [Keeps.mk_iff]

theorem cresetNote_keeps {fr : Frame} {s₀ : State} {code : BitVec 16} {s : State} (hK : Keeps fr s₀ s) :
    Keeps fr s₀ (cresetNote code s) := by
  unfold cresetNote; try dsimp only
  repeat' first | with_reducible assumption | intro _ | with_reducible apply record_keeps

theorem beginCreset_keeps {fr : Frame} {s₀ : State} {j : Job} {s : State} (hK : Keeps fr s₀ s) :
    Keeps fr s₀ (beginCreset j s) := by
  unfold beginCreset; try dsimp only
  repeat' first
    | with_reducible assumption | intro _ | with_reducible apply cresetNote_keeps
    | with_reducible apply modCreset_keeps | with_reducible apply Keeps.foldl | split | simp only [Keeps.mk_iff]

theorem startComputeReset_keeps {fr : Frame} {s₀ : State} {j : Job} {s : State} (hK : Keeps fr s₀ s) :
    Keeps fr s₀ (startComputeReset j s) := by
  unfold startComputeReset; try dsimp only
  repeat' first
    | with_reducible assumption | intro _ | with_reducible apply beginCreset_keeps
    | with_reducible apply refuseJob_keeps | with_reducible apply Keeps.foldl | split

theorem execCoreComputeReset_keeps {fr : Frame} {s₀ : State} {s : State} (hK : Keeps fr s₀ s) {t} (e : execCoreComputeReset s = .next t) :
    Keeps fr s₀ t := by
  unfold execCoreComputeReset at e
  obtain rfl := Host.Outcome.next.inj e
  try dsimp only
  repeat' first
    | with_reducible assumption | intro _ | with_reducible apply runJob_keeps
    | with_reducible apply startComputeReset_keeps

theorem holdCompute_keeps {fr : Frame} {s₀ : State} {s : State} (hK : Keeps fr s₀ s) :
    Keeps fr s₀ (holdCompute s) := by
  unfold holdCompute; try dsimp only
  repeat' first
    | with_reducible assumption | intro _ | with_reducible apply modCreset_keeps
    | with_reducible apply Keeps.foldl | split | simp only [Keeps.mk_iff]

theorem execCmpQuiesceAck_keeps {fr : Frame} {s₀ : State} {s : State} (hK : Keeps fr s₀ s) {t} (e : execCmpQuiesceAck s = .next t) :
    Keeps fr s₀ t := by
  unfold execCmpQuiesceAck at e; try dsimp only at e
  (repeat' split at e) <;> first | contradiction | (cases e)
  all_goals
    repeat' first
      | with_reducible assumption | intro _ | with_reducible apply holdCompute_keeps
      | with_reducible apply Keeps.foldl | split | simp only [Keeps.mk_iff]

theorem execCmpQuiesceTimeout_keeps {fr : Frame} {s₀ : State} {s : State} (hK : Keeps fr s₀ s) {t} (e : execCmpQuiesceTimeout s = .next t) :
    Keeps fr s₀ t := by
  unfold execCmpQuiesceTimeout at e
  obtain rfl := Host.Outcome.next.inj e
  try dsimp only
  repeat' first
    | with_reducible assumption | intro _ | with_reducible apply cresetNote_keeps
    | with_reducible apply holdCompute_keeps | with_reducible apply modCreset_keeps
    | with_reducible apply Keeps.foldl | split | simp only [Keeps.mk_iff]

theorem execRstComputeHoldEnd_keeps {fr : Frame} {s₀ : State} {s : State} (hK : Keeps fr s₀ s) {t} (e : execRstComputeHoldEnd s = .next t) :
    Keeps fr s₀ t := by
  unfold execRstComputeHoldEnd at e
  obtain rfl := Host.Outcome.next.inj e
  try dsimp only
  repeat' first
    | with_reducible assumption | intro _ | with_reducible apply modCreset_keeps
    | with_reducible apply Keeps.foldl | split | simp only [Keeps.mk_iff]

theorem applyCreset_keeps {fr : Frame} {s₀ : State} {s : State} (hK : Keeps fr s₀ s) :
    Keeps fr s₀ (applyCreset s) := by
  unfold applyCreset; try dsimp only
  repeat' first
    | with_reducible assumption | intro _ | with_reducible apply advanceAllG_keeps
    | with_reducible apply State.modPart_keeps | with_reducible apply zeroAllModelKeys_keeps
    | with_reducible apply Keeps.foldl | split

theorem noteCreset_keeps {fr : Frame} {s₀ : State} {s : State} (hK : Keeps fr s₀ s) : Keeps fr s₀ (noteCreset s) := by
  unfold noteCreset; try dsimp only
  repeat' first
    | with_reducible assumption | intro _ | with_reducible apply cresetNote_keeps
    | with_reducible apply hwNote_keeps | with_reducible apply modCreset_keeps

theorem closeCreset_keeps {fr : Frame} {s₀ : State} {s : State} (hK : Keeps fr s₀ s) :
    Keeps fr s₀ (closeCreset s) := by
  unfold closeCreset; try dsimp only
  repeat' first
    | with_reducible assumption | intro _ | with_reducible apply modCreset_keeps
    | with_reducible apply wakeNotices_keeps

theorem finishCreset_keeps {fr : Frame} {s₀ : State} {s : State} (hK : Keeps fr s₀ s) :
    Keeps fr s₀ (finishCreset s) := by
  unfold finishCreset; try dsimp only
  repeat' first
    | with_reducible assumption | intro _ | with_reducible apply applyCreset_keeps
    | with_reducible apply closeCreset_keeps | with_reducible apply finishJob_keeps
    | with_reducible apply noteCreset_keeps | with_reducible apply Keeps.foldl | split

theorem endHandshake_keeps {fr : Frame} {s₀ : State} {s : State} (hK : Keeps fr s₀ s) :
    Keeps fr s₀ (endHandshake s) := by
  unfold endHandshake; try dsimp only
  repeat' first
    | with_reducible assumption | intro _ | with_reducible apply finishCreset_keeps
    | with_reducible apply modCreset_keeps | with_reducible apply Keeps.foldl | split

theorem execCmpReady_keeps {fr : Frame} {s₀ : State} {s : State} (hK : Keeps fr s₀ s) {t} (e : execCmpReady s = .next t) :
    Keeps fr s₀ t := by
  unfold execCmpReady at e; try dsimp only at e
  (repeat' split at e) <;> first | contradiction | (cases e)
  all_goals
    repeat' first
      | with_reducible assumption | intro _ | with_reducible apply endHandshake_keeps
      | with_reducible apply Keeps.foldl | split | simp only [Keeps.mk_iff]

theorem execCmpReadyTimeout_keeps {fr : Frame} {s₀ : State} {s : State} (hK : Keeps fr s₀ s) {t} (e : execCmpReadyTimeout s = .next t) :
    Keeps fr s₀ t := by
  unfold execCmpReadyTimeout at e
  obtain rfl := Host.Outcome.next.inj e
  try dsimp only
  repeat' first
    | with_reducible assumption | intro _ | with_reducible apply cresetNote_keeps
    | with_reducible apply endHandshake_keeps | with_reducible apply modCreset_keeps
    | with_reducible apply Keeps.foldl | split | simp only [Keeps.mk_iff]

/-! ## Faults -/

theorem faultJobs_keeps {fr : Frame} {s₀ : State} {js : List Job} {s : State} (hK : Keeps fr s₀ s) :
    Keeps fr s₀ (faultJobs js s) := by
  unfold faultJobs; try dsimp only
  repeat' first
    | with_reducible assumption | intro _ | with_reducible apply dropCollection_keeps
    | with_reducible apply failLoad_keeps | with_reducible apply finishJob_keeps
    | with_reducible apply Keeps.foldl | split

theorem dropPke_mid {fr : Frame} {s₀ u : State} (k : Keeps fr s₀ u) : Keeps fr s₀ { u with
    pke := { u.pke with window := [], blocks := Vector.replicate 6 none, idleSince := Vector.replicate 6 0 },
    arbs := vmod u.arbs (engineIx .pke) (fun a => { a with chosen := none }) } :=
  Keeps.write k rfl rfl id rfl (fun _ => rfl) rfl id

theorem dropPke_keeps {fr : Frame} {s₀ s : State} (hK : Keeps fr s₀ s) : Keeps fr s₀ (dropPke s) := by
  unfold dropPke
  exact dropPke_mid (dropUnits_keeps (faultJobs_keeps hK))

theorem dropDig_keeps {fr : Frame} {s₀ : State} {s : State} (hK : Keeps fr s₀ s) : Keeps fr s₀ (dropDig s) := by
  unfold dropDig; try dsimp only
  repeat' first
    | with_reducible assumption | intro _ | with_reducible apply dropUnits_keeps
    | with_reducible apply faultJobs_keeps | with_reducible apply resetDig_keeps

theorem dropIng_keeps {fr : Frame} {s₀ : State} {s : State} (hK : Keeps fr s₀ s) : Keeps fr s₀ (dropIng s) := by
  unfold dropIng; try dsimp only
  repeat' first
    | with_reducible assumption | intro _ | with_reducible apply abandonPass_keeps
    | with_reducible apply dropUnits_keeps | with_reducible apply faultJobs_keeps
    | with_reducible apply Keeps.foldl | split | simp only [Keeps.mk_iff]

theorem stopBurn_keeps {fr : Frame} [Fact (fr.heartwood = false)] [Fact (fr.flash = false)] {s₀ : State} {s : State} (hK : Keeps fr s₀ s) :
    Keeps fr s₀ (stopBurn s) := by
  unfold stopBurn; try dsimp only
  repeat' first
    | with_reducible assumption | intro _ | with_reducible apply burnEnded_keeps
    | with_reducible apply Keeps.foldl | split | simp only [Keeps.mk_iff]

theorem dropOtp_keeps {fr : Frame} [Fact (fr.heartwood = false)] [Fact (fr.flash = false)] {s₀ : State} {s : State} (hK : Keeps fr s₀ s) :
    Keeps fr s₀ (dropOtp s) := by
  unfold dropOtp; try dsimp only
  repeat' first
    | with_reducible assumption | intro _ | with_reducible apply dropUnits_keeps
    | with_reducible apply faultJobs_keeps | with_reducible apply stopBurn_keeps
    | with_reducible apply Keeps.foldl | split | simp only [Keeps.mk_iff]

theorem dropBurns_keeps {fr : Frame} {s₀ : State} {keep : State → Burn → Bool} {s : State} (hK : Keeps fr s₀ s) :
    Keeps fr s₀ (dropBurns keep s) := by
  unfold dropBurns; try dsimp only
  repeat' first
    | with_reducible assumption | intro _ | with_reducible apply Keeps.foldl | split | simp only [Keeps.mk_iff]

theorem dropSeq_keeps {fr : Frame} [Fact (fr.flash = false)] {s₀ : State} {s : State} (hK : Keeps fr s₀ s) :
    Keeps fr s₀ (dropSeq s) := by
  unfold dropSeq; try dsimp only
  repeat' first
    | with_reducible assumption | intro _ | with_reducible apply dropBurns_keeps
    | with_reducible apply faultJobs_keeps | with_reducible apply finishConfirm_keeps
    | with_reducible apply step_keeps | with_reducible apply Keeps.foldl | split | simp only [Keeps.mk_iff]

theorem dropKeys_keeps {fr : Frame} {s₀ : State} {s : State} (hK : Keeps fr s₀ s) : Keeps fr s₀ (dropKeys s) := by
  unfold dropKeys; try dsimp only
  repeat' first
    | with_reducible assumption | intro _ | with_reducible apply dropBurns_keeps
    | with_reducible apply faultJobs_keeps

theorem dropPart_keeps {fr : Frame} {s₀ : State} {s : State} (hK : Keeps fr s₀ s) : Keeps fr s₀ (dropPart s) := by
  unfold dropPart; try dsimp only
  repeat' first
    | with_reducible assumption | intro _ | with_reducible apply faultJobs_keeps
    | with_reducible apply fbAll_keeps | with_reducible apply finishJob_keeps | with_reducible apply Keeps.foldl
    | split | simp only [Keeps.mk_iff]

theorem dropRec_keeps {fr : Frame} {s₀ : State} {s : State} (hK : Keeps fr s₀ s) : Keeps fr s₀ (dropRec s) := by
  unfold dropRec; try dsimp only
  repeat' first
    | with_reducible assumption | intro _ | with_reducible apply faultJobs_keeps
    | with_reducible apply modCreset_keeps | with_reducible apply Keeps.foldl | split | simp only [Keeps.mk_iff]

theorem dropWork_keeps {fr : Frame} [Fact (fr.heartwood = false)] [Fact (fr.flash = false)] {s₀ : State} {e : Engine} {s : State} (hK : Keeps fr s₀ s) :
    Keeps fr s₀ (dropWork e s) := by
  unfold dropWork; try dsimp only
  repeat' first
    | with_reducible assumption | intro _ | with_reducible apply dropDig_keeps
    | with_reducible apply dropIng_keeps | with_reducible apply dropKeys_keeps
    | with_reducible apply dropOtp_keeps | with_reducible apply dropPart_keeps
    | with_reducible apply dropPke_keeps | with_reducible apply dropRec_keeps | with_reducible apply dropSeq_keeps
    | with_reducible apply failRetests_keeps | with_reducible apply Keeps.foldl | split

theorem setEngReset_keeps {fr : Frame} {s₀ : State} {e : Engine} {on : Bool} {s : State} (hK : Keeps fr s₀ s) :
    Keeps fr s₀ (setEngReset e on s) := by
  unfold setEngReset; try dsimp only
  repeat' first
    | with_reducible assumption | intro _ | with_reducible apply Keeps.foldl | split | simp only [Keeps.mk_iff]

theorem holdOffline_keeps {fr : Frame} [Fact (fr.heartwood = false)] [Fact (fr.flash = false)] {s₀ : State} {e : Engine} {cause faults : Nat} {s : State} (hK : Keeps fr s₀ s) :
    Keeps fr s₀ (holdOffline e cause faults s) := by
  unfold holdOffline; try dsimp only
  repeat' first
    | with_reducible assumption | intro _ | with_reducible apply dropWork_keeps
    | with_reducible apply hwNote_keeps | with_reducible apply raiseCore_keeps | with_reducible apply record_keeps
    | with_reducible apply setEngReset_keeps | with_reducible apply Keeps.foldl | split | simp only [Keeps.mk_iff]

theorem escalate_keeps {fr : Frame} [Fact (fr.heartwood = false)] [Fact (fr.flash = false)] {s₀ : State} {e : Engine} {cause faults : Nat} {s : State} (hK : Keeps fr s₀ s) :
    Keeps fr s₀ (escalate e cause faults s) := by
  unfold escalate; try dsimp only
  repeat' first
    | with_reducible assumption | intro _ | with_reducible apply coreFault_keeps
    | with_reducible apply holdOffline_keeps | with_reducible apply quarantineStrm_keeps
    | with_reducible apply Keeps.foldl | split

theorem engineFault_keeps {fr : Frame} [Fact (fr.heartwood = false)] [Fact (fr.flash = false)] {s₀ : State} {e : Engine} {cause : EngCause} {s : State} (hK : Keeps fr s₀ s) :
    Keeps fr s₀ (engineFault e cause s) := by
  unfold engineFault; try dsimp only
  repeat' first
    | with_reducible assumption | intro _ | with_reducible apply coreFault_keeps
    | with_reducible apply dropWork_keeps | with_reducible apply escalate_keeps
    | with_reducible apply hwNote_keeps | with_reducible apply raiseCore_keeps | with_reducible apply record_keeps
    | with_reducible apply setEngReset_keeps | with_reducible apply startDone_keeps
    | with_reducible apply Keeps.foldl | split | simp only [Keeps.mk_iff]

theorem execEngineFault_keeps {fr : Frame} [Fact (fr.heartwood = false)] [Fact (fr.flash = false)] {s₀ : State} {e : Engine} {cause : EngCause} {s : State} (hK : Keeps fr s₀ s) {t} (e : execEngineFault e cause s = .next t) :
    Keeps fr s₀ t := by
  unfold execEngineFault at e
  obtain rfl := Host.Outcome.next.inj e
  try dsimp only
  repeat' first | with_reducible assumption | intro _ | with_reducible apply engineFault_keeps

theorem resumeEngine_keeps {fr : Frame} [Fact (fr.heartwood = false)] [Fact (fr.flash = false)] {s₀ : State} {e : Engine} {s : State} (hK : Keeps fr s₀ s) :
    Keeps fr s₀ (resumeEngine e s) := by
  unfold resumeEngine; try dsimp only
  repeat' first
    | with_reducible assumption | intro _ | with_reducible apply finishCreset_keeps
    | with_reducible apply pumpContexts_keeps | with_reducible apply pumpOtp_keeps
    | with_reducible apply recoverCores_keeps | with_reducible apply restartExchanges_keeps
    | with_reducible apply Keeps.foldl | split

theorem endReset_keeps {fr : Frame} [Fact (fr.heartwood = false)] [Fact (fr.flash = false)] {s₀ : State} {e : Engine} {cellsFailed : List Cell} {s : State} (hK : Keeps fr s₀ s) :
    Keeps fr s₀ (endReset e cellsFailed s) := by
  unfold endReset; try dsimp only
  repeat' first
    | with_reducible assumption | intro _ | with_reducible apply cellsLost_keeps
    | with_reducible apply freshCells_keeps | with_reducible apply placeWaiting_keeps
    | with_reducible apply record_keeps | with_reducible apply resumeEngine_keeps
    | with_reducible apply retireCells_keeps | with_reducible apply setEngReset_keeps

theorem execEngineResetDone_keeps {fr : Frame} [Fact (fr.heartwood = false)] [Fact (fr.flash = false)] {s₀ : State} {e : Engine} {cellsFailed : List Cell} {s : State} (hK : Keeps fr s₀ s) {t} (e : execEngineResetDone e cellsFailed s = .next t) :
    Keeps fr s₀ t := by
  unfold execEngineResetDone at e
  obtain rfl := Host.Outcome.next.inj e
  try dsimp only
  repeat' first
    | with_reducible assumption | intro _ | with_reducible apply endReset_keeps | with_reducible apply Keeps.foldl
    | split

theorem execCoreFault_keeps {fr : Frame} {s₀ : State} {cause : CoreCause} {s : State} (hK : Keeps fr s₀ s) {t} (e : execCoreFault cause s = .next t) :
    Keeps fr s₀ t := by
  unfold execCoreFault at e
  obtain rfl := Host.Outcome.next.inj e
  try dsimp only
  repeat' first
    | with_reducible assumption | intro _ | with_reducible apply coreFault_keeps
    | with_reducible apply Keeps.foldl | split

theorem execMicrocodeDigestCheck_keeps {fr : Frame} [Fact (fr.heartwood = false)] [Fact (fr.flash = false)] {s₀ : State} {pkeStoreBad digStoreBad : Bool} {s : State} (hK : Keeps fr s₀ s) {t} (e : execMicrocodeDigestCheck pkeStoreBad digStoreBad s = .next t) :
    Keeps fr s₀ t := by
  unfold execMicrocodeDigestCheck at e
  obtain rfl := Host.Outcome.next.inj e
  try dsimp only
  repeat' first
    | with_reducible assumption | intro _ | with_reducible apply engineFault_keeps
    | with_reducible apply Keeps.foldl | split | simp only [Keeps.mk_iff]

/-! ## Initiator -/

theorem takeTxn_keeps {fr : Frame} {s₀ : State} {tag : BitVec 6} {s : State} (hK : Keeps fr s₀ s) {r0 r1} (e : takeTxn tag s = some (r0, r1)) :
    Keeps fr s₀ r1 := by
  unfold takeTxn at e; try dsimp only at e
  (repeat' split at e) <;> first | contradiction | (cases e)
  all_goals
    repeat' first
      | with_reducible assumption | intro _ | with_reducible apply Keeps.foldl | split | simp only [Keeps.mk_iff]

theorem forgetTag_keeps {fr : Frame} {s₀ : State} {tag : BitVec 6} {s : State} (hK : Keeps fr s₀ s) :
    Keeps fr s₀ (forgetTag tag s) := by
  unfold forgetTag; try dsimp only
  repeat' first
    | with_reducible assumption | intro _ | with_reducible apply Keeps.foldl | split | simp only [Keeps.mk_iff]

theorem goOn_keeps {fr : Frame} [Fact (fr.heartwood = false)] [Fact (fr.flash = false)] {s₀ : State} {s : State} (hK : Keeps fr s₀ s) :
    Keeps fr s₀ (goOn s) := by
  unfold goOn; try dsimp only
  repeat' first
    | with_reducible assumption | intro _ | with_reducible apply cellsLost_keeps
    | with_reducible apply placeWaiting_keeps | with_reducible apply pumpAll_keeps
    | with_reducible apply pumpContexts_keeps | with_reducible apply pumpOtp_keeps

theorem jobFetched_keeps {fr : Frame} [Fact (fr.flash = false)] {s₀ : State} {j : Job} {b : Bytes} {s : State} (hK : Keeps fr s₀ s) :
    Keeps fr s₀ (jobFetched j b s) := by
  unfold jobFetched; try dsimp only
  repeat' first
    | with_reducible assumption | intro _ | with_reducible apply collectFetched_keeps
    | with_reducible apply consentFetched_keeps | with_reducible apply createSlot_keeps
    | with_reducible apply digInput_keeps | with_reducible apply dumpFetched_keeps
    | with_reducible apply endDerive_keeps | with_reducible apply envelopeFetched_keeps
    | with_reducible apply evidenceView_keeps | with_reducible apply handoverRead_keeps
    | with_reducible apply pkeInput_keeps | with_reducible apply planFetched_keeps
    | with_reducible apply proveFetched_keeps | with_reducible apply secretRead_keeps
    | with_reducible apply shadowFetched_keeps | with_reducible apply stageDataRead_keeps
    | with_reducible apply Keeps.foldl | split

theorem jobStored_keeps {fr : Frame} [Fact (fr.flash = false)] {s₀ : State} {j : Job} {st : Status} {ws : Words} {s : State} (hK : Keeps fr s₀ s) :
    Keeps fr s₀ (jobStored j st ws s) := by
  unfold jobStored; try dsimp only
  repeat' first
    | with_reducible assumption | intro _ | with_reducible apply decideJob_keeps
    | with_reducible apply encapsStored_keeps | with_reducible apply evidenceStored_keeps
    | with_reducible apply handoverStored_keeps | with_reducible apply saveStored_keeps
    | with_reducible apply Keeps.foldl | split

theorem jobTxnDone_keeps {fr : Frame} [Fact (fr.flash = false)] {s₀ : State} {id : Nat} {b : Bytes} {s : State} (hK : Keeps fr s₀ s) :
    Keeps fr s₀ (jobTxnDone id b s) := by
  unfold jobTxnDone; try dsimp only
  repeat' first
    | with_reducible assumption | intro _ | with_reducible apply dumpStored_keeps
    | with_reducible apply jobFetched_keeps | with_reducible apply jobStored_keeps
    | with_reducible apply Keeps.foldl | split

theorem txnDone_keeps {fr : Frame} [Fact (fr.flash = false)] {s₀ : State} {t : Txn} {b : Bytes} {s : State} (hK : Keeps fr s₀ s) :
    Keeps fr s₀ (txnDone t b s) := by
  unfold txnDone; try dsimp only
  repeat' first
    | with_reducible assumption | intro _ | with_reducible apply contributed_keeps
    | with_reducible apply fillDone_keeps | with_reducible apply frameRead_keeps
    | with_reducible apply inboxJudged_keeps | with_reducible apply inboxZeroed_keeps
    | with_reducible apply jobTxnDone_keeps | with_reducible apply ringDoorbell_keeps
    | with_reducible apply ringNotice_keeps | with_reducible apply spillDone_keeps
    | with_reducible apply Keeps.foldl | split

theorem execInitiatorResponse_keeps {fr : Frame} [Fact (fr.heartwood = false)] [Fact (fr.flash = false)] {s₀ : State} {tag : BitVec 6} {data : Bytes} {s : State} (hK : Keeps fr s₀ s) {t} (e : execInitiatorResponse tag data s = .next t) :
    Keeps fr s₀ t := by
  unfold execInitiatorResponse at e
  obtain rfl := Host.Outcome.next.inj e
  try dsimp only
  repeat' first
    | with_reducible assumption | intro _ | with_reducible apply forgetTag_keeps | with_reducible apply goOn_keeps
    | with_reducible refine takeTxn_keeps ?_ (by assumption) | with_reducible apply txnDone_keeps
    | with_reducible apply Keeps.foldl | split

theorem noteTxn_keeps {fr : Frame} {s₀ : State} {t : Txn} {seat : BitVec 8} {op : BitVec 16} {s : State} (hK : Keeps fr s₀ s) :
    Keeps fr s₀ (noteTxn t seat op s) := by
  unfold noteTxn; try dsimp only
  repeat' first | with_reducible assumption | intro _ | with_reducible apply record_keeps

theorem seatError_keeps {fr : Frame} {s₀ : State} {t : Txn} {n : Seat} {op : BitVec 16} {s : State} (hK : Keeps fr s₀ s) :
    Keeps fr s₀ (seatError t n op s) := by
  unfold seatError; try dsimp only
  repeat' first
    | with_reducible assumption | intro _ | with_reducible apply noteTxn_keeps
    | with_reducible apply raiseFault_keeps

theorem jobTxnFailed_keeps {fr : Frame} {s₀ : State} {j : Job} {s : State} (hK : Keeps fr s₀ s) :
    Keeps fr s₀ (jobTxnFailed j s) := by
  unfold jobTxnFailed; try dsimp only
  repeat' first
    | with_reducible assumption | intro _ | with_reducible apply decideJob_keeps
    | with_reducible apply dropCollection_keeps | with_reducible apply endDig_keeps
    | with_reducible apply failJob_keeps | with_reducible apply failLoad_keeps | with_reducible apply Keeps.foldl
    | split

theorem ownTxnFailed_keeps {fr : Frame} [Fact (fr.heartwood = false)] [Fact (fr.flash = false)] {s₀ : State} {e : Engine} {s : State} (hK : Keeps fr s₀ s) :
    Keeps fr s₀ (ownTxnFailed e s) := by
  unfold ownTxnFailed; try dsimp only
  repeat' first
    | with_reducible assumption | intro _ | with_reducible apply coreFault_keeps
    | with_reducible apply engineFault_keeps | with_reducible apply startDone_keeps
    | with_reducible apply Keeps.foldl | split

theorem streamFailed_keeps {fr : Frame} {s₀ : State} {t : Txn} {id : Nat} {s : State} (hK : Keeps fr s₀ s) :
    Keeps fr s₀ (streamFailed t id s) := by
  unfold streamFailed; try dsimp only
  repeat' first
    | with_reducible assumption | intro _ | with_reducible apply failLoad_keeps
    | with_reducible apply noteTxn_keeps | with_reducible apply seatError_keeps | with_reducible apply Keeps.foldl
    | split

theorem txnFailed_keeps {fr : Frame} [Fact (fr.heartwood = false)] [Fact (fr.flash = false)] {s₀ : State} {t : Txn} {s : State} (hK : Keeps fr s₀ s) :
    Keeps fr s₀ (txnFailed t s) := by
  unfold txnFailed; try dsimp only
  repeat' first
    | with_reducible assumption | intro _ | with_reducible apply contextError_keeps
    | with_reducible apply contributed_keeps | with_reducible apply failExchange_keeps
    | with_reducible apply jobTxnFailed_keeps | with_reducible apply State.modLink_keeps
    | with_reducible apply noteTxn_keeps | with_reducible apply ownTxnFailed_keeps
    | with_reducible apply ringNotice_keeps | with_reducible apply seatError_keeps
    | with_reducible apply streamFailed_keeps | with_reducible apply Keeps.foldl | split

theorem failTag_keeps {fr : Frame} [Fact (fr.heartwood = false)] [Fact (fr.flash = false)] {s₀ : State} {tag : BitVec 6} {s : State} (hK : Keeps fr s₀ s) :
    Keeps fr s₀ (failTag tag s) := by
  unfold failTag; try dsimp only
  repeat' first
    | with_reducible assumption | intro _ | with_reducible apply forgetTag_keeps | with_reducible apply goOn_keeps
    | with_reducible refine takeTxn_keeps ?_ (by assumption) | with_reducible apply txnFailed_keeps
    | with_reducible apply Keeps.foldl | split

theorem execInitiatorError_keeps {fr : Frame} [Fact (fr.heartwood = false)] [Fact (fr.flash = false)] {s₀ : State} {tag : BitVec 6} {s : State} (hK : Keeps fr s₀ s) {t} (e : execInitiatorError tag s = .next t) :
    Keeps fr s₀ t := by
  unfold execInitiatorError at e
  obtain rfl := Host.Outcome.next.inj e
  try dsimp only
  repeat' first | with_reducible assumption | intro _ | with_reducible apply failTag_keeps

theorem execInitiatorTimeout_keeps {fr : Frame} [Fact (fr.heartwood = false)] [Fact (fr.flash = false)] {s₀ : State} {tag : BitVec 6} {s : State} (hK : Keeps fr s₀ s) {t} (e : execInitiatorTimeout tag s = .next t) :
    Keeps fr s₀ t := by
  unfold execInitiatorTimeout at e
  obtain rfl := Host.Outcome.next.inj e
  try dsimp only
  repeat' first
    | with_reducible assumption | intro _ | with_reducible apply failTag_keeps | with_reducible apply Keeps.foldl
    | split | simp only [Keeps.mk_iff]

theorem execInitiatorLateResponse_keeps {fr : Frame} {s₀ : State} {tag : BitVec 6} {s : State} (hK : Keeps fr s₀ s) {t} (e : execInitiatorLateResponse tag s = .next t) :
    Keeps fr s₀ t := by
  unfold execInitiatorLateResponse at e
  obtain rfl := Host.Outcome.next.inj e
  try dsimp only
  repeat' first
    | with_reducible assumption | intro _ | with_reducible apply forgetTag_keeps
    | with_reducible apply record_keeps | with_reducible apply Keeps.foldl | split

/-! ## Pldm -/

theorem tell_keeps {fr : Frame} {s₀ : State} {p : MctpPath} {m : PldmMsg} {s : State} (hK : Keeps fr s₀ s) :
    Keeps fr s₀ (tell p m s) := by
  unfold tell; try dsimp only
  repeat' first | with_reducible assumption | intro _ | with_reducible apply emit_keeps

theorem complete_keeps {fr : Frame} {s₀ : State} {p : MctpPath} {name : String} {s : State} (hK : Keeps fr s₀ s) :
    Keeps fr s₀ (complete p name s) := by
  unfold complete; try dsimp only
  repeat' first | with_reducible assumption | intro _ | with_reducible apply tell_keeps

theorem pldmRun_keeps {fr : Frame} {s₀ : State} {p : MctpPath} {go : State → State} {s : State} (hgo : ∀ y0, Keeps fr s₀ y0 → Keeps fr s₀ (go y0)) (hK : Keeps fr s₀ s) {t} (e : pldmRun p go s = .next t) :
    Keeps fr s₀ t := by
  unfold pldmRun at e
  obtain rfl := Host.Outcome.next.inj e
  try dsimp only
  repeat' first
    | with_reducible assumption | intro _ | with_reducible apply hgo | with_reducible apply Keeps.foldl | split

theorem setPldm_keeps {fr : Frame} {s₀ : State} {x : Option PldmSession} {s : State} (hK : Keeps fr s₀ s) :
    Keeps fr s₀ (setPldm x s) := by
  unfold setPldm; try dsimp only
  repeat' first
    | with_reducible assumption | intro _ | with_reducible apply Keeps.foldl | split | simp only [Keeps.mk_iff]

theorem inUpdate_keeps {fr : Frame} {s₀ : State} {p : MctpPath} {go : PldmSession → State → State} {s : State} (hgo : ∀ y0 y1, Keeps fr s₀ y1 → Keeps fr s₀ (go y0 y1)) (hK : Keeps fr s₀ s) :
    Keeps fr s₀ (inUpdate p go s) := by
  unfold inUpdate; try dsimp only
  repeat' first
    | with_reducible assumption | intro _ | with_reducible apply hgo | with_reducible apply complete_keeps
    | with_reducible apply Keeps.foldl | split

theorem dropStage_keeps {fr : Frame} {s₀ : State} {s : State} (hK : Keeps fr s₀ s) : Keeps fr s₀ (dropStage s) := by
  unfold dropStage; try dsimp only
  repeat' first
    | with_reducible assumption | intro _ | with_reducible apply Keeps.foldl | split | simp only [Keeps.mk_iff]

theorem execQueryDeviceIdentifiers_keeps {fr : Frame} {s₀ : State} {p : MctpPath} {s : State} (hK : Keeps fr s₀ s) {t} (e : execQueryDeviceIdentifiers p s = .next t) :
    Keeps fr s₀ t := by
  unfold execQueryDeviceIdentifiers at e
  refine pldmRun_keeps ?_ hK e
  repeat' first | with_reducible exact id | with_reducible assumption | intro _ | with_reducible apply tell_keeps

theorem execGetFirmwareParameters_keeps {fr : Frame} {s₀ : State} {p : MctpPath} {s : State} (hK : Keeps fr s₀ s) {t} (e : execGetFirmwareParameters p s = .next t) :
    Keeps fr s₀ t := by
  unfold execGetFirmwareParameters at e
  refine pldmRun_keeps ?_ hK e
  repeat' first | with_reducible exact id | with_reducible assumption | intro _ | with_reducible apply tell_keeps

theorem onRequestUpdate_keeps {fr : Frame} {s₀ : State} {p : MctpPath} {maxTransfer : Nat} {s : State} (hK : Keeps fr s₀ s) :
    Keeps fr s₀ (onRequestUpdate p maxTransfer s) := by
  unfold onRequestUpdate; try dsimp only
  repeat' first
    | with_reducible assumption | intro _ | with_reducible apply complete_keeps
    | with_reducible apply setPldm_keeps | with_reducible apply tell_keeps | with_reducible apply Keeps.foldl
    | split

theorem execRequestUpdate_keeps {fr : Frame} {s₀ : State} {p : MctpPath} {maxTransfer : Nat} {s : State} (hK : Keeps fr s₀ s) {t} (e : execRequestUpdate p maxTransfer s = .next t) :
    Keeps fr s₀ t := by
  unfold execRequestUpdate at e
  refine pldmRun_keeps ?_ hK e
  repeat' first
    | with_reducible exact id | with_reducible assumption | intro _ | with_reducible apply onRequestUpdate_keeps

theorem execPassComponentTable_keeps {fr : Frame} {s₀ : State} {p : MctpPath} {ident : BitVec 16} {s : State} (hK : Keeps fr s₀ s) {t} (e : execPassComponentTable p ident s = .next t) :
    Keeps fr s₀ t := by
  unfold execPassComponentTable at e
  refine pldmRun_keeps ?_ hK e
  repeat' first
    | with_reducible exact id | with_reducible assumption | intro _ | with_reducible apply inUpdate_keeps
    | with_reducible apply tell_keeps

theorem askPiece_keeps {fr : Frame} {s₀ : State} {p : MctpPath} {x : PldmSession} {s : State} (hK : Keeps fr s₀ s) :
    Keeps fr s₀ (askPiece p x s) := by
  unfold askPiece; try dsimp only
  repeat' first
    | with_reducible assumption | intro _ | with_reducible apply setPldm_keeps | with_reducible apply tell_keeps
    | with_reducible apply Keeps.foldl | split

theorem onUpdateComponent_keeps {fr : Frame} [Fact (fr.flash = false)] {s₀ : State} {p : MctpPath} {ident : BitVec 16} {len : Nat} {x : PldmSession} {s : State} (hK : Keeps fr s₀ s) :
    Keeps fr s₀ (onUpdateComponent p ident len x s) := by
  unfold onUpdateComponent; try dsimp only
  repeat' first
    | with_reducible assumption | intro _ | with_reducible apply askPiece_keeps
    | with_reducible apply complete_keeps | with_reducible apply stageBegin_keeps
    | with_reducible apply tell_keeps | with_reducible apply Keeps.foldl | split

theorem execUpdateComponent_keeps {fr : Frame} [Fact (fr.flash = false)] {s₀ : State} {p : MctpPath} {ident : BitVec 16} {length : BitVec 32} {s : State} (hK : Keeps fr s₀ s) {t} (e : execUpdateComponent p ident length s = .next t) :
    Keeps fr s₀ t := by
  unfold execUpdateComponent at e
  refine pldmRun_keeps ?_ hK e
  repeat' first
    | with_reducible exact id | with_reducible assumption | intro _ | with_reducible apply inUpdate_keeps
    | with_reducible apply onUpdateComponent_keeps

theorem finishComponent_keeps {fr : Frame} [Fact (fr.flash = false)] {s₀ : State} {p : MctpPath} {x : PldmSession} {g : StageSession} {s : State} (hK : Keeps fr s₀ s) :
    Keeps fr s₀ (finishComponent p x g s) := by
  unfold finishComponent; try dsimp only
  repeat' first
    | with_reducible assumption | intro _ | with_reducible apply setPldm_keeps
    | with_reducible apply stageEnd_keeps | with_reducible apply tell_keeps | with_reducible apply Keeps.foldl
    | split

theorem onPiece_keeps {fr : Frame} [Fact (fr.flash = false)] {s₀ : State} {p : MctpPath} {data : Bytes} {x : PldmSession} {s : State} (hK : Keeps fr s₀ s) :
    Keeps fr s₀ (onPiece p data x s) := by
  unfold onPiece; try dsimp only
  repeat' first
    | with_reducible assumption | intro _ | with_reducible apply askPiece_keeps
    | with_reducible apply finishComponent_keeps | with_reducible apply stageWrite_keeps
    | with_reducible apply Keeps.foldl | split

theorem execRequestFirmwareData_keeps {fr : Frame} [Fact (fr.flash = false)] {s₀ : State} {p : MctpPath} {data : Bytes} {s : State} (hK : Keeps fr s₀ s) {t} (e : execRequestFirmwareData p data s = .next t) :
    Keeps fr s₀ t := by
  unfold execRequestFirmwareData at e
  refine pldmRun_keeps ?_ hK e
  repeat' first
    | with_reducible exact id | with_reducible assumption | intro _ | with_reducible apply onPiece_keeps
    | with_reducible apply Keeps.foldl | split

theorem activateTold_end {fr : Frame} [Fact (fr.flash = false)] {s₀ : State} {b : Bool} {r : State × Option Bool} (k :
    Keeps fr s₀ r.1) :
    Keeps fr s₀ (r.1, if r.2 == some b then "SUCCESS" else "ERROR").1 := k

theorem activateTold_keeps {fr : Frame} [Fact (fr.flash = false)] {s₀ : State} {b : Bool} {s : State} (hK : Keeps fr s₀ s) :
    Keeps fr s₀ (activateTold b s).1 := by
  have k := activate_keeps (b := b) hK
  unfold activateTold
  exact activateTold_end k

theorem activateStaged_keeps {fr : Frame} [Fact (fr.flash = false)] {s₀ : State} {p : MctpPath} {s : State} (hK : Keeps fr s₀ s) :
    Keeps fr s₀ (activateStaged p s).1 := by
  unfold activateStaged; try dsimp only
  repeat' first
    | with_reducible assumption | intro _ | with_reducible apply activateTold_keeps
    | with_reducible apply Keeps.foldl | split

theorem onActivate_keeps {fr : Frame} [Fact (fr.flash = false)] {s₀ : State} {p : MctpPath} {x : PldmSession} {s : State} (hK : Keeps fr s₀ s) :
    Keeps fr s₀ (onActivate p x s) := by
  unfold onActivate; try dsimp only
  repeat' first
    | with_reducible assumption | intro _ | with_reducible apply activateStaged_keeps
    | with_reducible apply complete_keeps | with_reducible apply setPldm_keeps | with_reducible apply Keeps.foldl
    | split

theorem execActivateFirmware_keeps {fr : Frame} [Fact (fr.flash = false)] {s₀ : State} {p : MctpPath} {s : State} (hK : Keeps fr s₀ s) {t} (e : execActivateFirmware p s = .next t) :
    Keeps fr s₀ t := by
  unfold execActivateFirmware at e
  refine pldmRun_keeps ?_ hK e
  repeat' first
    | with_reducible exact id | with_reducible assumption | intro _ | with_reducible apply inUpdate_keeps
    | with_reducible apply onActivate_keeps

theorem execGetStatus_keeps {fr : Frame} {s₀ : State} {p : MctpPath} {s : State} (hK : Keeps fr s₀ s) {t} (e : execGetStatus p s = .next t) :
    Keeps fr s₀ t := by
  unfold execGetStatus at e
  refine pldmRun_keeps ?_ hK e
  repeat' first | with_reducible exact id | with_reducible assumption | intro _ | with_reducible apply tell_keeps

theorem onCancelComponent_keeps {fr : Frame} {s₀ : State} {p : MctpPath} {x : PldmSession} {s : State} (hK : Keeps fr s₀ s) :
    Keeps fr s₀ (onCancelComponent p x s) := by
  unfold onCancelComponent; try dsimp only
  repeat' first
    | with_reducible assumption | intro _ | with_reducible apply complete_keeps
    | with_reducible apply dropStage_keeps | with_reducible apply setPldm_keeps | with_reducible apply tell_keeps
    | with_reducible apply Keeps.foldl | split

theorem execCancelUpdateComponent_keeps {fr : Frame} {s₀ : State} {p : MctpPath} {s : State} (hK : Keeps fr s₀ s) {t} (e : execCancelUpdateComponent p s = .next t) :
    Keeps fr s₀ t := by
  unfold execCancelUpdateComponent at e
  refine pldmRun_keeps ?_ hK e
  repeat' first
    | with_reducible exact id | with_reducible assumption | intro _ | with_reducible apply inUpdate_keeps
    | with_reducible apply onCancelComponent_keeps

theorem execCancelUpdate_keeps {fr : Frame} {s₀ : State} {p : MctpPath} {s : State} (hK : Keeps fr s₀ s) {t} (e : execCancelUpdate p s = .next t) :
    Keeps fr s₀ t := by
  unfold execCancelUpdate at e
  refine pldmRun_keeps ?_ hK e
  repeat' first
    | with_reducible exact id | with_reducible assumption | intro _ | with_reducible apply dropStage_keeps
    | with_reducible apply inUpdate_keeps | with_reducible apply setPldm_keeps | with_reducible apply tell_keeps

theorem execPldmUnsupportedCmd_keeps {fr : Frame} {s₀ : State} {p : MctpPath} {code : BitVec 8} {s : State} (hK : Keeps fr s₀ s) {t} (e : execPldmUnsupportedCmd p code s = .next t) :
    Keeps fr s₀ t := by
  unfold execPldmUnsupportedCmd at e
  refine pldmRun_keeps ?_ hK e
  repeat' first
    | with_reducible exact id | with_reducible assumption | intro _ | with_reducible apply complete_keeps
    | with_reducible apply Keeps.foldl | split

theorem execPldmSessionTimeout_keeps {fr : Frame} {s₀ : State} {s : State} (hK : Keeps fr s₀ s) {t} (e : execPldmSessionTimeout s = .next t) :
    Keeps fr s₀ t := by
  unfold execPldmSessionTimeout at e
  obtain rfl := Host.Outcome.next.inj e
  try dsimp only
  repeat' first
    | with_reducible assumption | intro _ | with_reducible apply dropStage_keeps
    | with_reducible apply setPldm_keeps | with_reducible apply Keeps.foldl | split

/-! ## Resets -/

theorem resetCtrl_keeps {fr : Frame} {s₀ s : State} (hK : Keeps fr s₀ s) : Keeps fr s₀ (resetCtrl s) :=
  Keeps.write hK rfl rfl (fun _ => rfl) rfl (fun _ => rfl) rfl (fun _ => Nat.zero_le _)

theorem execChipReset_keeps {fr : Frame} {s₀ : State} {s : State} (hK : Keeps fr s₀ s) {t} (e : execChipReset s = .next t) :
    Keeps fr s₀ t := by
  unfold execChipReset at e
  obtain rfl := Host.Outcome.next.inj e
  try dsimp only
  repeat' first
    | with_reducible assumption | intro _ | with_reducible apply resetCtrl_keeps
    | with_reducible apply Keeps.foldl | split | simp only [Keeps.mk_iff]

theorem leaveReset_keeps {fr : Frame} [Fact (fr.heartwood = false)] [Fact (fr.flash = false)] {s₀ : State} {s : State} (hK : Keeps fr s₀ s) :
    Keeps fr s₀ (leaveReset s) := by
  unfold leaveReset; try dsimp only
  repeat' first
    | with_reducible assumption | intro _ | with_reducible apply serveHeld_keeps
    | with_reducible apply Keeps.foldl | split | simp only [Keeps.mk_iff]

theorem execChipResetRelease_keeps {fr : Frame} [Fact (fr.heartwood = false)] [Fact (fr.flash = false)] {s₀ : State} {s : State} (hK : Keeps fr s₀ s) {t} (e : execChipResetRelease s = .next t) :
    Keeps fr s₀ t := by
  unfold execChipResetRelease at e; try dsimp only at e
  (repeat' split at e) <;> first | contradiction | (cases e)
  all_goals
    repeat' first
      | with_reducible assumption | intro _ | with_reducible apply leaveReset_keeps
      | with_reducible apply Keeps.foldl | split | simp only [Keeps.mk_iff]

theorem cutPulse_keeps {fr : Frame} [Fact (fr.fuses = false)] {s₀ s : State} (hK : Keeps fr s₀ s) :
    Keeps fr s₀ (cutPulse s) := by
  unfold cutPulse
  split
  · exact hK
  · split
    · exact hK
    · rename_i w _ _
      exact Keeps.burn w.addr _ (drawWord_keeps (drawWord_keeps hK)) (Within.or_left _ _) (fun k => Within.cut k)

theorem tearRecord_keeps {fr : Frame} [Fact (fr.heartwood = false)] {s₀ s : State} (hK : Keeps fr s₀ s) :
    Keeps fr s₀ (tearRecord s) := by
  unfold tearRecord
  split
  · exact hK
  · dsimp only
    rename_i h _ _
    generalize hwReserved h.kind = res
    generalize (if res = true then s.recd.resNext else s.recd.genNext) = n
    generalize (if res = true then 512 else 15872) = c
    by_cases hc : c ≤ n
    · rw [if_pos hc]; exact hK
    rw [if_neg hc]
    · exact Keeps.heartWrite hK _ _ _ rfl rfl

theorem powerLost_keeps {fr : Frame} {s₀ s : State} (hK : Keeps fr s₀ s) : Keeps fr s₀ (powerLost s) :=
  Keeps.write hK rfl rfl (fun _ => rfl) rfl (fun _ => rfl) rfl (fun _ => Nat.zero_le _)

theorem execPorAonAssert_keeps {fr : Frame} [Fact (fr.fuses = false)] [Fact (fr.heartwood = false)] {s₀ : State} {s : State} (hK : Keeps fr s₀ s) {t} (e : execPorAonAssert s = .next t) :
    Keeps fr s₀ t := by
  unfold execPorAonAssert at e
  obtain rfl := Host.Outcome.next.inj e
  try dsimp only
  repeat' first
    | with_reducible assumption | intro _ | with_reducible apply cutPulse_keeps
    | with_reducible apply powerLost_keeps | with_reducible apply tearRecord_keeps
    | with_reducible apply Keeps.foldl | split

theorem execPorAonRise_keeps {fr : Frame} [Fact (fr.heartwood = false)] [Fact (fr.flash = false)] {s₀ : State} {s : State} (hK : Keeps fr s₀ s) {t} (e : execPorAonRise s = .next t) :
    Keeps fr s₀ t := by
  unfold execPorAonRise at e
  obtain rfl := Host.Outcome.next.inj e
  try dsimp only
  repeat' first
    | with_reducible assumption | intro _ | with_reducible apply hwCondition_keeps
    | with_reducible apply hwPowerOn_keeps | with_reducible apply leaveReset_keeps
    | with_reducible apply Keeps.foldl | split | simp only [Keeps.mk_iff]

/-! ## Spdm -/

theorem modConn_keeps {fr : Frame} {s₀ : State} {p : MctpPath} {f : SpdmConn → SpdmConn} {s : State} (hK : Keeps fr s₀ s) :
    Keeps fr s₀ (modConn p f s) := by
  unfold modConn; try dsimp only
  repeat' first
    | with_reducible assumption | intro _ | with_reducible apply Keeps.foldl | split | simp only [Keeps.mk_iff]

theorem say_keeps {fr : Frame} {s₀ : State} {p : MctpPath} {r : SpdmRsp} {s : State} (hK : Keeps fr s₀ s) :
    Keeps fr s₀ (say p r s) := by
  unfold say; try dsimp only
  repeat' first | with_reducible assumption | intro _ | with_reducible apply emit_keeps

theorem sayError_keeps {fr : Frame} {s₀ : State} {p : MctpPath} {name : String} {s : State} (hK : Keeps fr s₀ s) :
    Keeps fr s₀ (sayError p name s) := by
  unfold sayError; try dsimp only
  repeat' first | with_reducible assumption | intro _ | with_reducible apply say_keeps

theorem spdmRun_keeps {fr : Frame} {s₀ : State} {p : MctpPath} {go : State → State} {s : State} (hgo : ∀ y0, Keeps fr s₀ y0 → Keeps fr s₀ (go y0)) (hK : Keeps fr s₀ s) {t} (e : spdmRun p go s = .next t) :
    Keeps fr s₀ t := by
  unfold spdmRun at e
  obtain rfl := Host.Outcome.next.inj e
  try dsimp only
  repeat' first
    | with_reducible assumption | intro _ | with_reducible apply hgo | with_reducible apply Keeps.foldl | split

theorem settled_keeps {fr : Frame} {s₀ : State} {p : MctpPath} {go : State → State} {s : State} (hgo : ∀ y0, Keeps fr s₀ y0 → Keeps fr s₀ (go y0)) (hK : Keeps fr s₀ s) :
    Keeps fr s₀ (settled p go s) := by
  unfold settled; try dsimp only
  repeat' first
    | with_reducible assumption | intro _ | with_reducible apply hgo | with_reducible apply sayError_keeps
    | with_reducible apply Keeps.foldl | split

theorem versioned_keeps {fr : Frame} {s₀ : State} {p : MctpPath} {v : BitVec 8} {go : State → State} {s : State} (hgo : ∀ y0, Keeps fr s₀ y0 → Keeps fr s₀ (go y0)) (hK : Keeps fr s₀ s) :
    Keeps fr s₀ (versioned p v go s) := by
  unfold versioned; try dsimp only
  repeat' first
    | with_reducible assumption | intro _ | with_reducible apply hgo | with_reducible apply sayError_keeps
    | with_reducible apply Keeps.foldl | split

theorem onGetVersion_keeps {fr : Frame} {s₀ : State} {p : MctpPath} {v : BitVec 8} {s : State} (hK : Keeps fr s₀ s) :
    Keeps fr s₀ (onGetVersion p v s) := by
  unfold onGetVersion; try dsimp only
  repeat' first
    | with_reducible assumption | intro _ | with_reducible apply modConn_keeps | with_reducible apply say_keeps
    | with_reducible apply sayError_keeps | with_reducible apply Keeps.foldl | split

theorem execGetVersion_keeps {fr : Frame} {s₀ : State} {p : MctpPath} {v : BitVec 8} {s : State} (hK : Keeps fr s₀ s) {t} (e : execGetVersion p v s = .next t) :
    Keeps fr s₀ t := by
  unfold execGetVersion at e
  refine spdmRun_keeps ?_ hK e
  repeat' first
    | with_reducible exact id | with_reducible assumption | intro _ | with_reducible apply onGetVersion_keeps

theorem onGetCapabilities_keeps {fr : Frame} {s₀ : State} {p : MctpPath} {v : BitVec 8} {s : State} (hK : Keeps fr s₀ s) :
    Keeps fr s₀ (onGetCapabilities p v s) := by
  unfold onGetCapabilities; try dsimp only
  repeat' first
    | with_reducible assumption | intro _ | with_reducible apply modConn_keeps | with_reducible apply say_keeps
    | with_reducible apply sayError_keeps | with_reducible apply versioned_keeps
    | with_reducible apply Keeps.foldl | split

theorem execGetCapabilities_keeps {fr : Frame} {s₀ : State} {p : MctpPath} {v : BitVec 8} {s : State} (hK : Keeps fr s₀ s) {t} (e : execGetCapabilities p v s = .next t) :
    Keeps fr s₀ t := by
  unfold execGetCapabilities at e
  refine spdmRun_keeps ?_ hK e
  repeat' first
    | with_reducible exact id | with_reducible assumption | intro _ | with_reducible apply onGetCapabilities_keeps

theorem onNegotiate_keeps {fr : Frame} {s₀ : State} {p : MctpPath} {v : BitVec 8} {s : State} (hK : Keeps fr s₀ s) :
    Keeps fr s₀ (onNegotiate p v s) := by
  unfold onNegotiate; try dsimp only
  repeat' first
    | with_reducible assumption | intro _ | with_reducible apply modConn_keeps | with_reducible apply say_keeps
    | with_reducible apply sayError_keeps | with_reducible apply versioned_keeps
    | with_reducible apply Keeps.foldl | split

theorem execNegotiateAlgorithms_keeps {fr : Frame} {s₀ : State} {p : MctpPath} {v : BitVec 8} {s : State} (hK : Keeps fr s₀ s) {t} (e : execNegotiateAlgorithms p v s = .next t) :
    Keeps fr s₀ t := by
  unfold execNegotiateAlgorithms at e
  refine spdmRun_keeps ?_ hK e
  repeat' first
    | with_reducible exact id | with_reducible assumption | intro _ | with_reducible apply onNegotiate_keeps

theorem withChain_keeps {fr : Frame} {s₀ : State} {p : MctpPath} {slot : BitVec 8} {go : Bytes → State → State} {s : State} (hgo : ∀ y0 y1, Keeps fr s₀ y1 → Keeps fr s₀ (go y0 y1)) (hK : Keeps fr s₀ s) :
    Keeps fr s₀ (withChain p slot go s) := by
  unfold withChain; try dsimp only
  repeat' first
    | with_reducible assumption | intro _ | with_reducible apply hgo | with_reducible apply sayError_keeps
    | with_reducible apply Keeps.foldl | split

theorem onGetDigests_keeps {fr : Frame} {s₀ : State} {p : MctpPath} {s : State} (hK : Keeps fr s₀ s) :
    Keeps fr s₀ (onGetDigests p s) := by
  unfold onGetDigests; try dsimp only
  repeat' first
    | with_reducible assumption | intro _ | with_reducible apply say_keeps | with_reducible apply settled_keeps
    | with_reducible apply withChain_keeps

theorem execGetDigests_keeps {fr : Frame} {s₀ : State} {p : MctpPath} {s : State} (hK : Keeps fr s₀ s) {t} (e : execGetDigests p s = .next t) :
    Keeps fr s₀ t := by
  unfold execGetDigests at e
  refine spdmRun_keeps ?_ hK e
  repeat' first
    | with_reducible exact id | with_reducible assumption | intro _ | with_reducible apply onGetDigests_keeps

theorem onGetCertificate_keeps {fr : Frame} {s₀ : State} {p : MctpPath} {slot : BitVec 8} {off len : Nat} {s : State} (hK : Keeps fr s₀ s) :
    Keeps fr s₀ (onGetCertificate p slot off len s) := by
  unfold onGetCertificate; try dsimp only
  repeat' first
    | with_reducible assumption | intro _ | with_reducible apply say_keeps | with_reducible apply sayError_keeps
    | with_reducible apply settled_keeps | with_reducible apply withChain_keeps | with_reducible apply Keeps.foldl
    | split

theorem execGetCertificate_keeps {fr : Frame} {s₀ : State} {p : MctpPath} {slot : BitVec 8} {off len : Nat} {s : State} (hK : Keeps fr s₀ s) {t} (e : execGetCertificate p slot off len s = .next t) :
    Keeps fr s₀ t := by
  unfold execGetCertificate at e
  refine spdmRun_keeps ?_ hK e
  repeat' first
    | with_reducible exact id | with_reducible assumption | intro _ | with_reducible apply onGetCertificate_keeps

theorem spdmSign_keeps {fr : Frame} {s₀ : State} {s : State} (hK : Keeps fr s₀ s) : Keeps fr s₀ (spdmSign s).2 := by
  unfold spdmSign; try dsimp only
  repeat' first
    | with_reducible assumption | intro _ | with_reducible apply drawBytes_keeps
    | with_reducible apply ecdsaDraw_keeps

theorem onChallenge_keeps {fr : Frame} {s₀ : State} {p : MctpPath} {slot : BitVec 8} {s : State} (hK : Keeps fr s₀ s) :
    Keeps fr s₀ (onChallenge p slot s) := by
  unfold onChallenge; try dsimp only
  repeat' first
    | with_reducible assumption | intro _ | with_reducible apply say_keeps | with_reducible apply sayError_keeps
    | with_reducible apply settled_keeps | with_reducible apply spdmSign_keeps
    | with_reducible apply withChain_keeps | with_reducible apply Keeps.foldl | split

theorem execChallenge_keeps {fr : Frame} {s₀ : State} {p : MctpPath} {slot : BitVec 8} {_nonce : Bytes} {s : State} (hK : Keeps fr s₀ s) {t} (e : execChallenge p slot _nonce s = .next t) :
    Keeps fr s₀ t := by
  unfold execChallenge at e
  refine spdmRun_keeps ?_ hK e
  repeat' first
    | with_reducible exact id | with_reducible assumption | intro _ | with_reducible apply onChallenge_keeps

theorem blocksOf_keeps {fr : Frame} {s₀ : State} {k : Nat} {nonce : Bytes} {s : State} (hK : Keeps fr s₀ s) :
    Keeps fr s₀ (blocksOf k nonce s).2 := by
  unfold blocksOf; try dsimp only
  repeat' first
    | with_reducible assumption | intro _ | with_reducible apply coseSign_keeps
    | with_reducible apply recordToken_keeps | with_reducible apply Keeps.foldl | split

theorem sendMeasurements_keeps {fr : Frame} {s₀ : State} {p : MctpPath} {bs : List (BitVec 8 × Bytes)} {nonce sig : Bytes} {s : State} (hK : Keeps fr s₀ s) :
    Keeps fr s₀ (sendMeasurements p bs nonce sig s) := by
  unfold sendMeasurements; try dsimp only
  repeat' first
    | with_reducible assumption | intro _ | with_reducible apply modConn_keeps | with_reducible apply say_keeps
    | with_reducible apply sayError_keeps | with_reducible apply Keeps.foldl | split

theorem onGetMeasurements_keeps {fr : Frame} {s₀ : State} {p : MctpPath} {index : BitVec 8} {signed : Bool} {nonce : Bytes} {s : State} (hK : Keeps fr s₀ s) :
    Keeps fr s₀ (onGetMeasurements p index signed nonce s) := by
  unfold onGetMeasurements; try dsimp only
  repeat' first
    | with_reducible assumption | intro _ | with_reducible apply blocksOf_keeps
    | with_reducible apply drawBytes_keeps | with_reducible apply sayError_keeps
    | with_reducible apply sendMeasurements_keeps | with_reducible apply settled_keeps
    | with_reducible apply spdmSign_keeps | with_reducible apply Keeps.foldl | split | simp only [Keeps.mk_iff]
    | refine Keeps.of_snd ‹_› ?_

theorem execGetMeasurements_keeps {fr : Frame} {s₀ : State} {p : MctpPath} {index : BitVec 8} {signed : Bool} {nonce : Bytes} {s : State} (hK : Keeps fr s₀ s) {t} (e : execGetMeasurements p index signed nonce s = .next t) :
    Keeps fr s₀ t := by
  unfold execGetMeasurements at e
  refine spdmRun_keeps ?_ hK e
  repeat' first
    | with_reducible exact id | with_reducible assumption | intro _ | with_reducible apply onGetMeasurements_keeps

theorem onKeyExchange_keeps {fr : Frame} {s₀ : State} {p : MctpPath} {slot : BitVec 8} {req : BitVec 16} {peerKey : Bytes} {s : State} (hK : Keeps fr s₀ s) :
    Keeps fr s₀ (onKeyExchange p slot req peerKey s) := by
  unfold onKeyExchange; try dsimp only
  repeat' first
    | with_reducible assumption | intro _ | with_reducible apply drawBytes_keeps
    | with_reducible apply drawWord_keeps | with_reducible apply say_keeps | with_reducible apply sayError_keeps
    | with_reducible apply settled_keeps | with_reducible apply spdmSign_keeps
    | with_reducible apply withChain_keeps | with_reducible apply Keeps.foldl | split | simp only [Keeps.mk_iff]

theorem execKeyExchange_keeps {fr : Frame} {s₀ : State} {p : MctpPath} {slot : BitVec 8} {req : BitVec 16} {peerKey : Bytes} {s : State} (hK : Keeps fr s₀ s) {t} (e : execKeyExchange p slot req peerKey s = .next t) :
    Keeps fr s₀ t := by
  unfold execKeyExchange at e
  refine spdmRun_keeps ?_ hK e
  repeat' first
    | with_reducible exact id | with_reducible assumption | intro _ | with_reducible apply onKeyExchange_keeps

theorem closeSession_keeps {fr : Frame} {s₀ : State} {id : BitVec 32} {s : State} (hK : Keeps fr s₀ s) :
    Keeps fr s₀ (closeSession id s) := by
  unfold closeSession; try dsimp only
  repeat' first
    | with_reducible assumption | intro _ | with_reducible apply Keeps.foldl | split | simp only [Keeps.mk_iff]

theorem onSpdmFinish_keeps {fr : Frame} {s₀ : State} {p : MctpPath} {id : BitVec 32} {verify : BitVec 384} {s : State} (hK : Keeps fr s₀ s) :
    Keeps fr s₀ (onSpdmFinish p id verify s) := by
  unfold onSpdmFinish; try dsimp only
  repeat' first
    | with_reducible assumption | intro _ | with_reducible apply closeSession_keeps
    | with_reducible apply say_keeps | with_reducible apply sayError_keeps | with_reducible apply Keeps.foldl
    | split | simp only [Keeps.mk_iff]

theorem execSpdmFinish_keeps {fr : Frame} {s₀ : State} {p : MctpPath} {id : BitVec 32} {verify : BitVec 384} {s : State} (hK : Keeps fr s₀ s) {t} (e : execSpdmFinish p id verify s = .next t) :
    Keeps fr s₀ t := by
  unfold execSpdmFinish at e
  refine spdmRun_keeps ?_ hK e
  repeat' first
    | with_reducible exact id | with_reducible assumption | intro _ | with_reducible apply onSpdmFinish_keeps

theorem onEndSession_keeps {fr : Frame} {s₀ : State} {p : MctpPath} {id : BitVec 32} {s : State} (hK : Keeps fr s₀ s) :
    Keeps fr s₀ (onEndSession p id s) := by
  unfold onEndSession; try dsimp only
  repeat' first
    | with_reducible assumption | intro _ | with_reducible apply closeSession_keeps
    | with_reducible apply say_keeps | with_reducible apply sayError_keeps | with_reducible apply Keeps.foldl
    | split

theorem execEndSession_keeps {fr : Frame} {s₀ : State} {p : MctpPath} {id : BitVec 32} {s : State} (hK : Keeps fr s₀ s) {t} (e : execEndSession p id s = .next t) :
    Keeps fr s₀ t := by
  unfold execEndSession at e
  refine spdmRun_keeps ?_ hK e
  repeat' first
    | with_reducible exact id | with_reducible assumption | intro _ | with_reducible apply onEndSession_keeps

theorem onMessage_keeps {fr : Frame} {s₀ : State} {p : MctpPath} {m : Bytes} {s : State} (hK : Keeps fr s₀ s) :
    Keeps fr s₀ (onMessage p m s) := by
  unfold onMessage; try dsimp only
  repeat' first
    | with_reducible assumption | intro _ | with_reducible apply onChallenge_keeps
    | with_reducible apply onGetCapabilities_keeps | with_reducible apply onGetCertificate_keeps
    | with_reducible apply onGetDigests_keeps | with_reducible apply onGetMeasurements_keeps
    | with_reducible apply onGetVersion_keeps | with_reducible apply onKeyExchange_keeps
    | with_reducible apply onNegotiate_keeps | with_reducible apply sayError_keeps
    | with_reducible apply Keeps.foldl | split

theorem onChunkSend_keeps {fr : Frame} {s₀ : State} {p : MctpPath} {handle : BitVec 8} {q : BitVec 16} {last : Bool} {data : Bytes} {s : State} (hK : Keeps fr s₀ s) :
    Keeps fr s₀ (onChunkSend p handle q last data s) := by
  unfold onChunkSend; try dsimp only
  repeat' first
    | with_reducible assumption | intro _ | with_reducible apply modConn_keeps
    | with_reducible apply onMessage_keeps | with_reducible apply say_keeps | with_reducible apply sayError_keeps
    | with_reducible apply settled_keeps | with_reducible apply Keeps.foldl | split

theorem execChunkSend_keeps {fr : Frame} {s₀ : State} {p : MctpPath} {handle : BitVec 8} {q : BitVec 16} {last : Bool} {data : Bytes} {s : State} (hK : Keeps fr s₀ s) {t} (e : execChunkSend p handle q last data s = .next t) :
    Keeps fr s₀ t := by
  unfold execChunkSend at e
  refine spdmRun_keeps ?_ hK e
  repeat' first
    | with_reducible exact id | with_reducible assumption | intro _ | with_reducible apply onChunkSend_keeps

theorem onChunkGet_keeps {fr : Frame} {s₀ : State} {p : MctpPath} {handle : BitVec 8} {q : BitVec 16} {s : State} (hK : Keeps fr s₀ s) :
    Keeps fr s₀ (onChunkGet p handle q s) := by
  unfold onChunkGet; try dsimp only
  repeat' first
    | with_reducible assumption | intro _ | with_reducible apply modConn_keeps | with_reducible apply say_keeps
    | with_reducible apply sayError_keeps | with_reducible apply settled_keeps | with_reducible apply Keeps.foldl
    | split

theorem execChunkGet_keeps {fr : Frame} {s₀ : State} {p : MctpPath} {handle : BitVec 8} {q : BitVec 16} {s : State} (hK : Keeps fr s₀ s) {t} (e : execChunkGet p handle q s = .next t) :
    Keeps fr s₀ t := by
  unfold execChunkGet at e
  refine spdmRun_keeps ?_ hK e
  repeat' first
    | with_reducible exact id | with_reducible assumption | intro _ | with_reducible apply onChunkGet_keeps

theorem execSpdmUnsupportedRequest_keeps {fr : Frame} {s₀ : State} {p : MctpPath} {code : BitVec 8} {s : State} (hK : Keeps fr s₀ s) {t} (e : execSpdmUnsupportedRequest p code s = .next t) :
    Keeps fr s₀ t := by
  unfold execSpdmUnsupportedRequest at e
  refine spdmRun_keeps ?_ hK e
  repeat' first
    | with_reducible exact id | with_reducible assumption | intro _ | with_reducible apply sayError_keeps
    | with_reducible apply Keeps.foldl | split

end Sys2Proof.Machine
end

