-- ==== Sys2Proof/Laws/State.lean ====
section
/-! SUPPORT. Every small update of State, field by field: what it writes and that it leaves each other field. -/

namespace Sys2Proof.Machine

/-- Reading back an element that was set. -/
@[simp] theorem vset_self {α : Type} {k : Nat} (v : Vector α k) (i : Fin k) (x : α) : (vset v i x)[i] = x := by
  simp [vset]

/-- Another element is as it was. -/
theorem vset_other {α : Type} {k : Nat} (v : Vector α k) (i j : Fin k) (x : α) (h : j ≠ i) : (vset v i x)[j] = v[j] := by
  have : i.val ≠ j.val := fun e => h (Fin.ext e.symm)
  simp [vset, this]

/-- Reading back an element that was changed. -/
@[simp] theorem vmod_self {α : Type} {k : Nat} (v : Vector α k) (i : Fin k) (f : α → α) : (vmod v i f)[i] = f v[i] :=
  vset_self v i _

/-- A change leaves every other element. -/
theorem vmod_other {α : Type} {k : Nat} (v : Vector α k) (i j : Fin k) (f : α → α) (h : j ≠ i) :
    (vmod v i f)[j] = v[j] := vset_other v i j _ h

@[simp] theorem read_modSeat (s : State) (n : Seat) (f : SeatPage → SeatPage) : (s.modSeat n f).seat n = f (s.seat n) := vmod_self _ _ _
theorem read_modSeat_other (s : State) (n : Seat) (f : SeatPage → SeatPage) (m : Seat) (h : m ≠ n) :
    (s.modSeat n f).seat m = s.seat m := vmod_other _ _ _ _ h

@[simp] theorem box_modBox (s : State) (n : Mbx) (f : Mailbox → Mailbox) : (s.modBox n f).box n = f (s.box n) := vmod_self _ _ _
theorem box_modBox_other (s : State) (n : Mbx) (f : Mailbox → Mailbox) (m : Mbx) (h : m ≠ n) :
    (s.modBox n f).box m = s.box m := vmod_other _ _ _ _ h

@[simp] theorem link_modLink (s : State) (n : Port) (f : Link → Link) : (s.modLink n f).link n = f (s.link n) := vmod_self _ _ _
theorem link_modLink_other (s : State) (n : Port) (f : Link → Link) (m : Port) (h : m ≠ n) :
    (s.modLink n f).link m = s.link m := vmod_other _ _ _ _ h

@[simp] theorem slot_modSlot (s : State) (n : Fin 256) (f : KeySlot → KeySlot) : (s.modSlot n f).slot n = f (s.slot n) := vmod_self _ _ _
theorem slot_modSlot_other (s : State) (n : Fin 256) (f : KeySlot → KeySlot) (m : Fin 256) (h : m ≠ n) :
    (s.modSlot n f).slot m = s.slot m := vmod_other _ _ _ _ h

@[simp] theorem msg_modMsg (s : State) (n : Fin 272) (f : Msg → Msg) : (s.modMsg n f).msg n = f (s.msg n) := vmod_self _ _ _
theorem msg_modMsg_other (s : State) (n : Fin 272) (f : Msg → Msg) (m : Fin 272) (h : m ≠ n) :
    (s.modMsg n f).msg m = s.msg m := vmod_other _ _ _ _ h

/-! ## State.modSeat -/

@[simp] theorem State.modSeat_now (s : State) (n : Seat) (f : SeatPage → SeatPage) : (s.modSeat n f).now = s.now := rfl
@[simp] theorem State.modSeat_draws (s : State) (n : Seat) (f : SeatPage → SeatPage) :
    (s.modSeat n f).draws = s.draws := rfl
@[simp] theorem State.modSeat_orders (s : State) (n : Seat) (f : SeatPage → SeatPage) :
    (s.modSeat n f).orders = s.orders := rfl
@[simp] theorem State.modSeat_pins (s : State) (n : Seat) (f : SeatPage → SeatPage) :
    (s.modSeat n f).pins = s.pins := rfl
@[simp] theorem State.modSeat_rsp (s : State) (n : Seat) (f : SeatPage → SeatPage) : (s.modSeat n f).rsp = s.rsp := rfl
@[simp] theorem State.modSeat_held (s : State) (n : Seat) (f : SeatPage → SeatPage) :
    (s.modSeat n f).held = s.held := rfl
@[simp] theorem State.modSeat_fw (s : State) (n : Seat) (f : SeatPage → SeatPage) : (s.modSeat n f).fw = s.fw := rfl
@[simp] theorem State.modSeat_lcauth (s : State) (n : Seat) (f : SeatPage → SeatPage) :
    (s.modSeat n f).lcauth = s.lcauth := rfl
@[simp] theorem State.modSeat_i3cAddressed (s : State) (n : Seat) (f : SeatPage → SeatPage) :
    (s.modSeat n f).i3cAddressed = s.i3cAddressed := rfl
@[simp] theorem State.modSeat_ibiWaiting (s : State) (n : Seat) (f : SeatPage → SeatPage) :
    (s.modSeat n f).ibiWaiting = s.ibiWaiting := rfl
@[simp] theorem State.modSeat_beat (s : State) (n : Seat) (f : SeatPage → SeatPage) :
    (s.modSeat n f).beat = s.beat := rfl
@[simp] theorem State.modSeat_core (s : State) (n : Seat) (f : SeatPage → SeatPage) :
    (s.modSeat n f).core = s.core := rfl
@[simp] theorem State.modSeat_cells (s : State) (n : Seat) (f : SeatPage → SeatPage) :
    (s.modSeat n f).cells = s.cells := rfl
@[simp] theorem State.modSeat_units (s : State) (n : Seat) (f : SeatPage → SeatPage) :
    (s.modSeat n f).units = s.units := rfl
@[simp] theorem State.modSeat_seats (s : State) (n : Seat) (f : SeatPage → SeatPage) :
    (s.modSeat n f).seats = vmod s.seats n f := rfl
@[simp] theorem State.modSeat_jobs (s : State) (n : Seat) (f : SeatPage → SeatPage) :
    (s.modSeat n f).jobs = s.jobs := rfl
@[simp] theorem State.modSeat_nextJob (s : State) (n : Seat) (f : SeatPage → SeatPage) :
    (s.modSeat n f).nextJob = s.nextJob := rfl
@[simp] theorem State.modSeat_arbs (s : State) (n : Seat) (f : SeatPage → SeatPage) :
    (s.modSeat n f).arbs = s.arbs := rfl
@[simp] theorem State.modSeat_mbx (s : State) (n : Seat) (f : SeatPage → SeatPage) : (s.modSeat n f).mbx = s.mbx := rfl
@[simp] theorem State.modSeat_fi (s : State) (n : Seat) (f : SeatPage → SeatPage) : (s.modSeat n f).fi = s.fi := rfl
@[simp] theorem State.modSeat_otp (s : State) (n : Seat) (f : SeatPage → SeatPage) : (s.modSeat n f).otp = s.otp := rfl
@[simp] theorem State.modSeat_lc (s : State) (n : Seat) (f : SeatPage → SeatPage) : (s.modSeat n f).lc = s.lc := rfl
@[simp] theorem State.modSeat_keys (s : State) (n : Seat) (f : SeatPage → SeatPage) :
    (s.modSeat n f).keys = s.keys := rfl
@[simp] theorem State.modSeat_boot (s : State) (n : Seat) (f : SeatPage → SeatPage) :
    (s.modSeat n f).boot = s.boot := rfl
@[simp] theorem State.modSeat_pke (s : State) (n : Seat) (f : SeatPage → SeatPage) : (s.modSeat n f).pke = s.pke := rfl
@[simp] theorem State.modSeat_dig (s : State) (n : Seat) (f : SeatPage → SeatPage) : (s.modSeat n f).dig = s.dig := rfl
@[simp] theorem State.modSeat_ing (s : State) (n : Seat) (f : SeatPage → SeatPage) : (s.modSeat n f).ing = s.ing := rfl
@[simp] theorem State.modSeat_part (s : State) (n : Seat) (f : SeatPage → SeatPage) :
    (s.modSeat n f).part = s.part := rfl
@[simp] theorem State.modSeat_recd (s : State) (n : Seat) (f : SeatPage → SeatPage) :
    (s.modSeat n f).recd = s.recd := rfl
@[simp] theorem State.modSeat_out (s : State) (n : Seat) (f : SeatPage → SeatPage) : (s.modSeat n f).out = s.out := rfl
@[simp] theorem State.modSeat_pending (s : State) (n : Seat) (f : SeatPage → SeatPage) :
    (s.modSeat n f).pending = s.pending := rfl

/-! ## State.modCell -/

@[simp] theorem State.modCell_now (s : State) (c : Cell) (f : CellState → CellState) :
    (s.modCell c f).now = s.now := rfl
@[simp] theorem State.modCell_draws (s : State) (c : Cell) (f : CellState → CellState) :
    (s.modCell c f).draws = s.draws := rfl
@[simp] theorem State.modCell_orders (s : State) (c : Cell) (f : CellState → CellState) :
    (s.modCell c f).orders = s.orders := rfl
@[simp] theorem State.modCell_pins (s : State) (c : Cell) (f : CellState → CellState) :
    (s.modCell c f).pins = s.pins := rfl
@[simp] theorem State.modCell_rsp (s : State) (c : Cell) (f : CellState → CellState) :
    (s.modCell c f).rsp = s.rsp := rfl
@[simp] theorem State.modCell_held (s : State) (c : Cell) (f : CellState → CellState) :
    (s.modCell c f).held = s.held := rfl
@[simp] theorem State.modCell_fw (s : State) (c : Cell) (f : CellState → CellState) : (s.modCell c f).fw = s.fw := rfl
@[simp] theorem State.modCell_lcauth (s : State) (c : Cell) (f : CellState → CellState) :
    (s.modCell c f).lcauth = s.lcauth := rfl
@[simp] theorem State.modCell_i3cAddressed (s : State) (c : Cell) (f : CellState → CellState) :
    (s.modCell c f).i3cAddressed = s.i3cAddressed := rfl
@[simp] theorem State.modCell_ibiWaiting (s : State) (c : Cell) (f : CellState → CellState) :
    (s.modCell c f).ibiWaiting = s.ibiWaiting := rfl
@[simp] theorem State.modCell_beat (s : State) (c : Cell) (f : CellState → CellState) :
    (s.modCell c f).beat = s.beat := rfl
@[simp] theorem State.modCell_core (s : State) (c : Cell) (f : CellState → CellState) :
    (s.modCell c f).core = s.core := rfl
@[simp] theorem State.modCell_cells (s : State) (c : Cell) (f : CellState → CellState) :
    (s.modCell c f).cells = vmod s.cells c f := rfl
@[simp] theorem State.modCell_units (s : State) (c : Cell) (f : CellState → CellState) :
    (s.modCell c f).units = s.units := rfl
@[simp] theorem State.modCell_seats (s : State) (c : Cell) (f : CellState → CellState) :
    (s.modCell c f).seats = s.seats := rfl
@[simp] theorem State.modCell_jobs (s : State) (c : Cell) (f : CellState → CellState) :
    (s.modCell c f).jobs = s.jobs := rfl
@[simp] theorem State.modCell_nextJob (s : State) (c : Cell) (f : CellState → CellState) :
    (s.modCell c f).nextJob = s.nextJob := rfl
@[simp] theorem State.modCell_arbs (s : State) (c : Cell) (f : CellState → CellState) :
    (s.modCell c f).arbs = s.arbs := rfl
@[simp] theorem State.modCell_mbx (s : State) (c : Cell) (f : CellState → CellState) :
    (s.modCell c f).mbx = s.mbx := rfl
@[simp] theorem State.modCell_fi (s : State) (c : Cell) (f : CellState → CellState) : (s.modCell c f).fi = s.fi := rfl
@[simp] theorem State.modCell_otp (s : State) (c : Cell) (f : CellState → CellState) :
    (s.modCell c f).otp = s.otp := rfl
@[simp] theorem State.modCell_lc (s : State) (c : Cell) (f : CellState → CellState) : (s.modCell c f).lc = s.lc := rfl
@[simp] theorem State.modCell_keys (s : State) (c : Cell) (f : CellState → CellState) :
    (s.modCell c f).keys = s.keys := rfl
@[simp] theorem State.modCell_boot (s : State) (c : Cell) (f : CellState → CellState) :
    (s.modCell c f).boot = s.boot := rfl
@[simp] theorem State.modCell_pke (s : State) (c : Cell) (f : CellState → CellState) :
    (s.modCell c f).pke = s.pke := rfl
@[simp] theorem State.modCell_dig (s : State) (c : Cell) (f : CellState → CellState) :
    (s.modCell c f).dig = s.dig := rfl
@[simp] theorem State.modCell_ing (s : State) (c : Cell) (f : CellState → CellState) :
    (s.modCell c f).ing = s.ing := rfl
@[simp] theorem State.modCell_part (s : State) (c : Cell) (f : CellState → CellState) :
    (s.modCell c f).part = s.part := rfl
@[simp] theorem State.modCell_recd (s : State) (c : Cell) (f : CellState → CellState) :
    (s.modCell c f).recd = s.recd := rfl
@[simp] theorem State.modCell_out (s : State) (c : Cell) (f : CellState → CellState) :
    (s.modCell c f).out = s.out := rfl
@[simp] theorem State.modCell_pending (s : State) (c : Cell) (f : CellState → CellState) :
    (s.modCell c f).pending = s.pending := rfl

/-! ## State.modBox -/

@[simp] theorem State.modBox_now (s : State) (m : Mbx) (f : Mailbox → Mailbox) : (s.modBox m f).now = s.now := rfl
@[simp] theorem State.modBox_draws (s : State) (m : Mbx) (f : Mailbox → Mailbox) : (s.modBox m f).draws = s.draws := rfl
@[simp] theorem State.modBox_orders (s : State) (m : Mbx) (f : Mailbox → Mailbox) :
    (s.modBox m f).orders = s.orders := rfl
@[simp] theorem State.modBox_pins (s : State) (m : Mbx) (f : Mailbox → Mailbox) : (s.modBox m f).pins = s.pins := rfl
@[simp] theorem State.modBox_rsp (s : State) (m : Mbx) (f : Mailbox → Mailbox) : (s.modBox m f).rsp = s.rsp := rfl
@[simp] theorem State.modBox_held (s : State) (m : Mbx) (f : Mailbox → Mailbox) : (s.modBox m f).held = s.held := rfl
@[simp] theorem State.modBox_fw (s : State) (m : Mbx) (f : Mailbox → Mailbox) : (s.modBox m f).fw = s.fw := rfl
@[simp] theorem State.modBox_lcauth (s : State) (m : Mbx) (f : Mailbox → Mailbox) :
    (s.modBox m f).lcauth = s.lcauth := rfl
@[simp] theorem State.modBox_i3cAddressed (s : State) (m : Mbx) (f : Mailbox → Mailbox) :
    (s.modBox m f).i3cAddressed = s.i3cAddressed := rfl
@[simp] theorem State.modBox_ibiWaiting (s : State) (m : Mbx) (f : Mailbox → Mailbox) :
    (s.modBox m f).ibiWaiting = s.ibiWaiting := rfl
@[simp] theorem State.modBox_beat (s : State) (m : Mbx) (f : Mailbox → Mailbox) : (s.modBox m f).beat = s.beat := rfl
@[simp] theorem State.modBox_core (s : State) (m : Mbx) (f : Mailbox → Mailbox) : (s.modBox m f).core = s.core := rfl
@[simp] theorem State.modBox_cells (s : State) (m : Mbx) (f : Mailbox → Mailbox) : (s.modBox m f).cells = s.cells := rfl
@[simp] theorem State.modBox_units (s : State) (m : Mbx) (f : Mailbox → Mailbox) : (s.modBox m f).units = s.units := rfl
@[simp] theorem State.modBox_seats (s : State) (m : Mbx) (f : Mailbox → Mailbox) : (s.modBox m f).seats = s.seats := rfl
@[simp] theorem State.modBox_jobs (s : State) (m : Mbx) (f : Mailbox → Mailbox) : (s.modBox m f).jobs = s.jobs := rfl
@[simp] theorem State.modBox_nextJob (s : State) (m : Mbx) (f : Mailbox → Mailbox) :
    (s.modBox m f).nextJob = s.nextJob := rfl
@[simp] theorem State.modBox_arbs (s : State) (m : Mbx) (f : Mailbox → Mailbox) : (s.modBox m f).arbs = s.arbs := rfl
@[simp] theorem State.modBox_mbx (s : State) (m : Mbx) (f : Mailbox → Mailbox) :
    (s.modBox m f).mbx = vmod s.mbx m f := rfl
@[simp] theorem State.modBox_fi (s : State) (m : Mbx) (f : Mailbox → Mailbox) : (s.modBox m f).fi = s.fi := rfl
@[simp] theorem State.modBox_otp (s : State) (m : Mbx) (f : Mailbox → Mailbox) : (s.modBox m f).otp = s.otp := rfl
@[simp] theorem State.modBox_lc (s : State) (m : Mbx) (f : Mailbox → Mailbox) : (s.modBox m f).lc = s.lc := rfl
@[simp] theorem State.modBox_keys (s : State) (m : Mbx) (f : Mailbox → Mailbox) : (s.modBox m f).keys = s.keys := rfl
@[simp] theorem State.modBox_boot (s : State) (m : Mbx) (f : Mailbox → Mailbox) : (s.modBox m f).boot = s.boot := rfl
@[simp] theorem State.modBox_pke (s : State) (m : Mbx) (f : Mailbox → Mailbox) : (s.modBox m f).pke = s.pke := rfl
@[simp] theorem State.modBox_dig (s : State) (m : Mbx) (f : Mailbox → Mailbox) : (s.modBox m f).dig = s.dig := rfl
@[simp] theorem State.modBox_ing (s : State) (m : Mbx) (f : Mailbox → Mailbox) : (s.modBox m f).ing = s.ing := rfl
@[simp] theorem State.modBox_part (s : State) (m : Mbx) (f : Mailbox → Mailbox) : (s.modBox m f).part = s.part := rfl
@[simp] theorem State.modBox_recd (s : State) (m : Mbx) (f : Mailbox → Mailbox) : (s.modBox m f).recd = s.recd := rfl
@[simp] theorem State.modBox_out (s : State) (m : Mbx) (f : Mailbox → Mailbox) : (s.modBox m f).out = s.out := rfl
@[simp] theorem State.modBox_pending (s : State) (m : Mbx) (f : Mailbox → Mailbox) :
    (s.modBox m f).pending = s.pending := rfl

/-! ## State.modPart -/

@[simp] theorem State.modPart_now (s : State) (n : Part) (f : PartRec → PartRec) : (s.modPart n f).now = s.now := rfl
@[simp] theorem State.modPart_draws (s : State) (n : Part) (f : PartRec → PartRec) :
    (s.modPart n f).draws = s.draws := rfl
@[simp] theorem State.modPart_orders (s : State) (n : Part) (f : PartRec → PartRec) :
    (s.modPart n f).orders = s.orders := rfl
@[simp] theorem State.modPart_pins (s : State) (n : Part) (f : PartRec → PartRec) : (s.modPart n f).pins = s.pins := rfl
@[simp] theorem State.modPart_rsp (s : State) (n : Part) (f : PartRec → PartRec) : (s.modPart n f).rsp = s.rsp := rfl
@[simp] theorem State.modPart_held (s : State) (n : Part) (f : PartRec → PartRec) : (s.modPart n f).held = s.held := rfl
@[simp] theorem State.modPart_fw (s : State) (n : Part) (f : PartRec → PartRec) : (s.modPart n f).fw = s.fw := rfl
@[simp] theorem State.modPart_lcauth (s : State) (n : Part) (f : PartRec → PartRec) :
    (s.modPart n f).lcauth = s.lcauth := rfl
@[simp] theorem State.modPart_i3cAddressed (s : State) (n : Part) (f : PartRec → PartRec) :
    (s.modPart n f).i3cAddressed = s.i3cAddressed := rfl
@[simp] theorem State.modPart_ibiWaiting (s : State) (n : Part) (f : PartRec → PartRec) :
    (s.modPart n f).ibiWaiting = s.ibiWaiting := rfl
@[simp] theorem State.modPart_beat (s : State) (n : Part) (f : PartRec → PartRec) : (s.modPart n f).beat = s.beat := rfl
@[simp] theorem State.modPart_core (s : State) (n : Part) (f : PartRec → PartRec) : (s.modPart n f).core = s.core := rfl
@[simp] theorem State.modPart_cells (s : State) (n : Part) (f : PartRec → PartRec) :
    (s.modPart n f).cells = s.cells := rfl
@[simp] theorem State.modPart_units (s : State) (n : Part) (f : PartRec → PartRec) :
    (s.modPart n f).units = s.units := rfl
@[simp] theorem State.modPart_seats (s : State) (n : Part) (f : PartRec → PartRec) :
    (s.modPart n f).seats = s.seats := rfl
@[simp] theorem State.modPart_jobs (s : State) (n : Part) (f : PartRec → PartRec) : (s.modPart n f).jobs = s.jobs := rfl
@[simp] theorem State.modPart_nextJob (s : State) (n : Part) (f : PartRec → PartRec) :
    (s.modPart n f).nextJob = s.nextJob := rfl
@[simp] theorem State.modPart_arbs (s : State) (n : Part) (f : PartRec → PartRec) : (s.modPart n f).arbs = s.arbs := rfl
@[simp] theorem State.modPart_mbx (s : State) (n : Part) (f : PartRec → PartRec) : (s.modPart n f).mbx = s.mbx := rfl
@[simp] theorem State.modPart_fi (s : State) (n : Part) (f : PartRec → PartRec) : (s.modPart n f).fi = s.fi := rfl
@[simp] theorem State.modPart_otp (s : State) (n : Part) (f : PartRec → PartRec) : (s.modPart n f).otp = s.otp := rfl
@[simp] theorem State.modPart_lc (s : State) (n : Part) (f : PartRec → PartRec) : (s.modPart n f).lc = s.lc := rfl
@[simp] theorem State.modPart_keys (s : State) (n : Part) (f : PartRec → PartRec) : (s.modPart n f).keys = s.keys := rfl
@[simp] theorem State.modPart_boot (s : State) (n : Part) (f : PartRec → PartRec) : (s.modPart n f).boot = s.boot := rfl
@[simp] theorem State.modPart_pke (s : State) (n : Part) (f : PartRec → PartRec) : (s.modPart n f).pke = s.pke := rfl
@[simp] theorem State.modPart_dig (s : State) (n : Part) (f : PartRec → PartRec) : (s.modPart n f).dig = s.dig := rfl
@[simp] theorem State.modPart_ing (s : State) (n : Part) (f : PartRec → PartRec) : (s.modPart n f).ing = s.ing := rfl
@[simp] theorem State.modPart_part (s : State) (n : Part) (f : PartRec → PartRec) :
    (s.modPart n f).part = { s.part with recs := vmod s.part.recs n f } := rfl
@[simp] theorem State.modPart_recd (s : State) (n : Part) (f : PartRec → PartRec) : (s.modPart n f).recd = s.recd := rfl
@[simp] theorem State.modPart_out (s : State) (n : Part) (f : PartRec → PartRec) : (s.modPart n f).out = s.out := rfl
@[simp] theorem State.modPart_pending (s : State) (n : Part) (f : PartRec → PartRec) :
    (s.modPart n f).pending = s.pending := rfl

/-! ## State.modLink -/

@[simp] theorem State.modLink_now (s : State) (k : Port) (f : Link → Link) : (s.modLink k f).now = s.now := rfl
@[simp] theorem State.modLink_draws (s : State) (k : Port) (f : Link → Link) : (s.modLink k f).draws = s.draws := rfl
@[simp] theorem State.modLink_orders (s : State) (k : Port) (f : Link → Link) : (s.modLink k f).orders = s.orders := rfl
@[simp] theorem State.modLink_pins (s : State) (k : Port) (f : Link → Link) : (s.modLink k f).pins = s.pins := rfl
@[simp] theorem State.modLink_rsp (s : State) (k : Port) (f : Link → Link) : (s.modLink k f).rsp = s.rsp := rfl
@[simp] theorem State.modLink_held (s : State) (k : Port) (f : Link → Link) : (s.modLink k f).held = s.held := rfl
@[simp] theorem State.modLink_fw (s : State) (k : Port) (f : Link → Link) : (s.modLink k f).fw = s.fw := rfl
@[simp] theorem State.modLink_lcauth (s : State) (k : Port) (f : Link → Link) : (s.modLink k f).lcauth = s.lcauth := rfl
@[simp] theorem State.modLink_i3cAddressed (s : State) (k : Port) (f : Link → Link) :
    (s.modLink k f).i3cAddressed = s.i3cAddressed := rfl
@[simp] theorem State.modLink_ibiWaiting (s : State) (k : Port) (f : Link → Link) :
    (s.modLink k f).ibiWaiting = s.ibiWaiting := rfl
@[simp] theorem State.modLink_beat (s : State) (k : Port) (f : Link → Link) : (s.modLink k f).beat = s.beat := rfl
@[simp] theorem State.modLink_core (s : State) (k : Port) (f : Link → Link) : (s.modLink k f).core = s.core := rfl
@[simp] theorem State.modLink_cells (s : State) (k : Port) (f : Link → Link) : (s.modLink k f).cells = s.cells := rfl
@[simp] theorem State.modLink_units (s : State) (k : Port) (f : Link → Link) : (s.modLink k f).units = s.units := rfl
@[simp] theorem State.modLink_seats (s : State) (k : Port) (f : Link → Link) : (s.modLink k f).seats = s.seats := rfl
@[simp] theorem State.modLink_jobs (s : State) (k : Port) (f : Link → Link) : (s.modLink k f).jobs = s.jobs := rfl
@[simp] theorem State.modLink_nextJob (s : State) (k : Port) (f : Link → Link) :
    (s.modLink k f).nextJob = s.nextJob := rfl
@[simp] theorem State.modLink_arbs (s : State) (k : Port) (f : Link → Link) : (s.modLink k f).arbs = s.arbs := rfl
@[simp] theorem State.modLink_mbx (s : State) (k : Port) (f : Link → Link) : (s.modLink k f).mbx = s.mbx := rfl
@[simp] theorem State.modLink_fi (s : State) (k : Port) (f : Link → Link) : (s.modLink k f).fi = s.fi := rfl
@[simp] theorem State.modLink_otp (s : State) (k : Port) (f : Link → Link) : (s.modLink k f).otp = s.otp := rfl
@[simp] theorem State.modLink_lc (s : State) (k : Port) (f : Link → Link) : (s.modLink k f).lc = s.lc := rfl
@[simp] theorem State.modLink_keys (s : State) (k : Port) (f : Link → Link) :
    (s.modLink k f).keys = { s.keys with links := vmod s.keys.links k f } := rfl
@[simp] theorem State.modLink_boot (s : State) (k : Port) (f : Link → Link) : (s.modLink k f).boot = s.boot := rfl
@[simp] theorem State.modLink_pke (s : State) (k : Port) (f : Link → Link) : (s.modLink k f).pke = s.pke := rfl
@[simp] theorem State.modLink_dig (s : State) (k : Port) (f : Link → Link) : (s.modLink k f).dig = s.dig := rfl
@[simp] theorem State.modLink_ing (s : State) (k : Port) (f : Link → Link) : (s.modLink k f).ing = s.ing := rfl
@[simp] theorem State.modLink_part (s : State) (k : Port) (f : Link → Link) : (s.modLink k f).part = s.part := rfl
@[simp] theorem State.modLink_recd (s : State) (k : Port) (f : Link → Link) : (s.modLink k f).recd = s.recd := rfl
@[simp] theorem State.modLink_out (s : State) (k : Port) (f : Link → Link) : (s.modLink k f).out = s.out := rfl
@[simp] theorem State.modLink_pending (s : State) (k : Port) (f : Link → Link) :
    (s.modLink k f).pending = s.pending := rfl

/-! ## State.modSlot -/

@[simp] theorem State.modSlot_now (s : State) (i : Fin 256) (f : KeySlot → KeySlot) : (s.modSlot i f).now = s.now := rfl
@[simp] theorem State.modSlot_draws (s : State) (i : Fin 256) (f : KeySlot → KeySlot) :
    (s.modSlot i f).draws = s.draws := rfl
@[simp] theorem State.modSlot_orders (s : State) (i : Fin 256) (f : KeySlot → KeySlot) :
    (s.modSlot i f).orders = s.orders := rfl
@[simp] theorem State.modSlot_pins (s : State) (i : Fin 256) (f : KeySlot → KeySlot) :
    (s.modSlot i f).pins = s.pins := rfl
@[simp] theorem State.modSlot_rsp (s : State) (i : Fin 256) (f : KeySlot → KeySlot) : (s.modSlot i f).rsp = s.rsp := rfl
@[simp] theorem State.modSlot_held (s : State) (i : Fin 256) (f : KeySlot → KeySlot) :
    (s.modSlot i f).held = s.held := rfl
@[simp] theorem State.modSlot_fw (s : State) (i : Fin 256) (f : KeySlot → KeySlot) : (s.modSlot i f).fw = s.fw := rfl
@[simp] theorem State.modSlot_lcauth (s : State) (i : Fin 256) (f : KeySlot → KeySlot) :
    (s.modSlot i f).lcauth = s.lcauth := rfl
@[simp] theorem State.modSlot_i3cAddressed (s : State) (i : Fin 256) (f : KeySlot → KeySlot) :
    (s.modSlot i f).i3cAddressed = s.i3cAddressed := rfl
@[simp] theorem State.modSlot_ibiWaiting (s : State) (i : Fin 256) (f : KeySlot → KeySlot) :
    (s.modSlot i f).ibiWaiting = s.ibiWaiting := rfl
@[simp] theorem State.modSlot_beat (s : State) (i : Fin 256) (f : KeySlot → KeySlot) :
    (s.modSlot i f).beat = s.beat := rfl
@[simp] theorem State.modSlot_core (s : State) (i : Fin 256) (f : KeySlot → KeySlot) :
    (s.modSlot i f).core = s.core := rfl
@[simp] theorem State.modSlot_cells (s : State) (i : Fin 256) (f : KeySlot → KeySlot) :
    (s.modSlot i f).cells = s.cells := rfl
@[simp] theorem State.modSlot_units (s : State) (i : Fin 256) (f : KeySlot → KeySlot) :
    (s.modSlot i f).units = s.units := rfl
@[simp] theorem State.modSlot_seats (s : State) (i : Fin 256) (f : KeySlot → KeySlot) :
    (s.modSlot i f).seats = s.seats := rfl
@[simp] theorem State.modSlot_jobs (s : State) (i : Fin 256) (f : KeySlot → KeySlot) :
    (s.modSlot i f).jobs = s.jobs := rfl
@[simp] theorem State.modSlot_nextJob (s : State) (i : Fin 256) (f : KeySlot → KeySlot) :
    (s.modSlot i f).nextJob = s.nextJob := rfl
@[simp] theorem State.modSlot_arbs (s : State) (i : Fin 256) (f : KeySlot → KeySlot) :
    (s.modSlot i f).arbs = s.arbs := rfl
@[simp] theorem State.modSlot_mbx (s : State) (i : Fin 256) (f : KeySlot → KeySlot) : (s.modSlot i f).mbx = s.mbx := rfl
@[simp] theorem State.modSlot_fi (s : State) (i : Fin 256) (f : KeySlot → KeySlot) : (s.modSlot i f).fi = s.fi := rfl
@[simp] theorem State.modSlot_otp (s : State) (i : Fin 256) (f : KeySlot → KeySlot) : (s.modSlot i f).otp = s.otp := rfl
@[simp] theorem State.modSlot_lc (s : State) (i : Fin 256) (f : KeySlot → KeySlot) : (s.modSlot i f).lc = s.lc := rfl
@[simp] theorem State.modSlot_keys (s : State) (i : Fin 256) (f : KeySlot → KeySlot) :
    (s.modSlot i f).keys = { s.keys with slots := vmod s.keys.slots i f } := rfl
@[simp] theorem State.modSlot_boot (s : State) (i : Fin 256) (f : KeySlot → KeySlot) :
    (s.modSlot i f).boot = s.boot := rfl
@[simp] theorem State.modSlot_pke (s : State) (i : Fin 256) (f : KeySlot → KeySlot) : (s.modSlot i f).pke = s.pke := rfl
@[simp] theorem State.modSlot_dig (s : State) (i : Fin 256) (f : KeySlot → KeySlot) : (s.modSlot i f).dig = s.dig := rfl
@[simp] theorem State.modSlot_ing (s : State) (i : Fin 256) (f : KeySlot → KeySlot) : (s.modSlot i f).ing = s.ing := rfl
@[simp] theorem State.modSlot_part (s : State) (i : Fin 256) (f : KeySlot → KeySlot) :
    (s.modSlot i f).part = s.part := rfl
@[simp] theorem State.modSlot_recd (s : State) (i : Fin 256) (f : KeySlot → KeySlot) :
    (s.modSlot i f).recd = s.recd := rfl
@[simp] theorem State.modSlot_out (s : State) (i : Fin 256) (f : KeySlot → KeySlot) : (s.modSlot i f).out = s.out := rfl
@[simp] theorem State.modSlot_pending (s : State) (i : Fin 256) (f : KeySlot → KeySlot) :
    (s.modSlot i f).pending = s.pending := rfl

/-! ## State.modPlan -/

@[simp] theorem State.modPlan_now (s : State) (i : PlanIx) (f : Plan → Plan) : (s.modPlan i f).now = s.now := rfl
@[simp] theorem State.modPlan_draws (s : State) (i : PlanIx) (f : Plan → Plan) : (s.modPlan i f).draws = s.draws := rfl
@[simp] theorem State.modPlan_orders (s : State) (i : PlanIx) (f : Plan → Plan) :
    (s.modPlan i f).orders = s.orders := rfl
@[simp] theorem State.modPlan_pins (s : State) (i : PlanIx) (f : Plan → Plan) : (s.modPlan i f).pins = s.pins := rfl
@[simp] theorem State.modPlan_rsp (s : State) (i : PlanIx) (f : Plan → Plan) : (s.modPlan i f).rsp = s.rsp := rfl
@[simp] theorem State.modPlan_held (s : State) (i : PlanIx) (f : Plan → Plan) : (s.modPlan i f).held = s.held := rfl
@[simp] theorem State.modPlan_fw (s : State) (i : PlanIx) (f : Plan → Plan) : (s.modPlan i f).fw = s.fw := rfl
@[simp] theorem State.modPlan_lcauth (s : State) (i : PlanIx) (f : Plan → Plan) :
    (s.modPlan i f).lcauth = s.lcauth := rfl
@[simp] theorem State.modPlan_i3cAddressed (s : State) (i : PlanIx) (f : Plan → Plan) :
    (s.modPlan i f).i3cAddressed = s.i3cAddressed := rfl
@[simp] theorem State.modPlan_ibiWaiting (s : State) (i : PlanIx) (f : Plan → Plan) :
    (s.modPlan i f).ibiWaiting = s.ibiWaiting := rfl
@[simp] theorem State.modPlan_beat (s : State) (i : PlanIx) (f : Plan → Plan) : (s.modPlan i f).beat = s.beat := rfl
@[simp] theorem State.modPlan_core (s : State) (i : PlanIx) (f : Plan → Plan) : (s.modPlan i f).core = s.core := rfl
@[simp] theorem State.modPlan_cells (s : State) (i : PlanIx) (f : Plan → Plan) : (s.modPlan i f).cells = s.cells := rfl
@[simp] theorem State.modPlan_units (s : State) (i : PlanIx) (f : Plan → Plan) : (s.modPlan i f).units = s.units := rfl
@[simp] theorem State.modPlan_seats (s : State) (i : PlanIx) (f : Plan → Plan) : (s.modPlan i f).seats = s.seats := rfl
@[simp] theorem State.modPlan_jobs (s : State) (i : PlanIx) (f : Plan → Plan) : (s.modPlan i f).jobs = s.jobs := rfl
@[simp] theorem State.modPlan_nextJob (s : State) (i : PlanIx) (f : Plan → Plan) :
    (s.modPlan i f).nextJob = s.nextJob := rfl
@[simp] theorem State.modPlan_arbs (s : State) (i : PlanIx) (f : Plan → Plan) : (s.modPlan i f).arbs = s.arbs := rfl
@[simp] theorem State.modPlan_mbx (s : State) (i : PlanIx) (f : Plan → Plan) : (s.modPlan i f).mbx = s.mbx := rfl
@[simp] theorem State.modPlan_fi (s : State) (i : PlanIx) (f : Plan → Plan) : (s.modPlan i f).fi = s.fi := rfl
@[simp] theorem State.modPlan_otp (s : State) (i : PlanIx) (f : Plan → Plan) : (s.modPlan i f).otp = s.otp := rfl
@[simp] theorem State.modPlan_lc (s : State) (i : PlanIx) (f : Plan → Plan) : (s.modPlan i f).lc = s.lc := rfl
@[simp] theorem State.modPlan_keys (s : State) (i : PlanIx) (f : Plan → Plan) : (s.modPlan i f).keys = s.keys := rfl
@[simp] theorem State.modPlan_boot (s : State) (i : PlanIx) (f : Plan → Plan) : (s.modPlan i f).boot = s.boot := rfl
@[simp] theorem State.modPlan_pke (s : State) (i : PlanIx) (f : Plan → Plan) : (s.modPlan i f).pke = s.pke := rfl
@[simp] theorem State.modPlan_dig (s : State) (i : PlanIx) (f : Plan → Plan) : (s.modPlan i f).dig = s.dig := rfl
@[simp] theorem State.modPlan_ing (s : State) (i : PlanIx) (f : Plan → Plan) :
    (s.modPlan i f).ing = { s.ing with plans := vmod s.ing.plans i f } := rfl
@[simp] theorem State.modPlan_part (s : State) (i : PlanIx) (f : Plan → Plan) : (s.modPlan i f).part = s.part := rfl
@[simp] theorem State.modPlan_recd (s : State) (i : PlanIx) (f : Plan → Plan) : (s.modPlan i f).recd = s.recd := rfl
@[simp] theorem State.modPlan_out (s : State) (i : PlanIx) (f : Plan → Plan) : (s.modPlan i f).out = s.out := rfl
@[simp] theorem State.modPlan_pending (s : State) (i : PlanIx) (f : Plan → Plan) :
    (s.modPlan i f).pending = s.pending := rfl

/-! ## State.modMsg -/

@[simp] theorem State.modMsg_now (s : State) (i : Fin 272) (f : Msg → Msg) : (s.modMsg i f).now = s.now := rfl
@[simp] theorem State.modMsg_draws (s : State) (i : Fin 272) (f : Msg → Msg) : (s.modMsg i f).draws = s.draws := rfl
@[simp] theorem State.modMsg_orders (s : State) (i : Fin 272) (f : Msg → Msg) : (s.modMsg i f).orders = s.orders := rfl
@[simp] theorem State.modMsg_pins (s : State) (i : Fin 272) (f : Msg → Msg) : (s.modMsg i f).pins = s.pins := rfl
@[simp] theorem State.modMsg_rsp (s : State) (i : Fin 272) (f : Msg → Msg) : (s.modMsg i f).rsp = s.rsp := rfl
@[simp] theorem State.modMsg_held (s : State) (i : Fin 272) (f : Msg → Msg) : (s.modMsg i f).held = s.held := rfl
@[simp] theorem State.modMsg_fw (s : State) (i : Fin 272) (f : Msg → Msg) : (s.modMsg i f).fw = s.fw := rfl
@[simp] theorem State.modMsg_lcauth (s : State) (i : Fin 272) (f : Msg → Msg) : (s.modMsg i f).lcauth = s.lcauth := rfl
@[simp] theorem State.modMsg_i3cAddressed (s : State) (i : Fin 272) (f : Msg → Msg) :
    (s.modMsg i f).i3cAddressed = s.i3cAddressed := rfl
@[simp] theorem State.modMsg_ibiWaiting (s : State) (i : Fin 272) (f : Msg → Msg) :
    (s.modMsg i f).ibiWaiting = s.ibiWaiting := rfl
@[simp] theorem State.modMsg_beat (s : State) (i : Fin 272) (f : Msg → Msg) : (s.modMsg i f).beat = s.beat := rfl
@[simp] theorem State.modMsg_core (s : State) (i : Fin 272) (f : Msg → Msg) : (s.modMsg i f).core = s.core := rfl
@[simp] theorem State.modMsg_cells (s : State) (i : Fin 272) (f : Msg → Msg) : (s.modMsg i f).cells = s.cells := rfl
@[simp] theorem State.modMsg_units (s : State) (i : Fin 272) (f : Msg → Msg) : (s.modMsg i f).units = s.units := rfl
@[simp] theorem State.modMsg_seats (s : State) (i : Fin 272) (f : Msg → Msg) : (s.modMsg i f).seats = s.seats := rfl
@[simp] theorem State.modMsg_jobs (s : State) (i : Fin 272) (f : Msg → Msg) : (s.modMsg i f).jobs = s.jobs := rfl
@[simp] theorem State.modMsg_nextJob (s : State) (i : Fin 272) (f : Msg → Msg) :
    (s.modMsg i f).nextJob = s.nextJob := rfl
@[simp] theorem State.modMsg_arbs (s : State) (i : Fin 272) (f : Msg → Msg) : (s.modMsg i f).arbs = s.arbs := rfl
@[simp] theorem State.modMsg_mbx (s : State) (i : Fin 272) (f : Msg → Msg) : (s.modMsg i f).mbx = s.mbx := rfl
@[simp] theorem State.modMsg_fi (s : State) (i : Fin 272) (f : Msg → Msg) : (s.modMsg i f).fi = s.fi := rfl
@[simp] theorem State.modMsg_otp (s : State) (i : Fin 272) (f : Msg → Msg) : (s.modMsg i f).otp = s.otp := rfl
@[simp] theorem State.modMsg_lc (s : State) (i : Fin 272) (f : Msg → Msg) : (s.modMsg i f).lc = s.lc := rfl
@[simp] theorem State.modMsg_keys (s : State) (i : Fin 272) (f : Msg → Msg) : (s.modMsg i f).keys = s.keys := rfl
@[simp] theorem State.modMsg_boot (s : State) (i : Fin 272) (f : Msg → Msg) : (s.modMsg i f).boot = s.boot := rfl
@[simp] theorem State.modMsg_pke (s : State) (i : Fin 272) (f : Msg → Msg) : (s.modMsg i f).pke = s.pke := rfl
@[simp] theorem State.modMsg_dig (s : State) (i : Fin 272) (f : Msg → Msg) :
    (s.modMsg i f).dig = { s.dig with msgs := vmod s.dig.msgs i f } := rfl
@[simp] theorem State.modMsg_ing (s : State) (i : Fin 272) (f : Msg → Msg) : (s.modMsg i f).ing = s.ing := rfl
@[simp] theorem State.modMsg_part (s : State) (i : Fin 272) (f : Msg → Msg) : (s.modMsg i f).part = s.part := rfl
@[simp] theorem State.modMsg_recd (s : State) (i : Fin 272) (f : Msg → Msg) : (s.modMsg i f).recd = s.recd := rfl
@[simp] theorem State.modMsg_out (s : State) (i : Fin 272) (f : Msg → Msg) : (s.modMsg i f).out = s.out := rfl
@[simp] theorem State.modMsg_pending (s : State) (i : Fin 272) (f : Msg → Msg) :
    (s.modMsg i f).pending = s.pending := rfl

/-! ## modCurve -/

@[simp] theorem modCurve_now (i : Fin 8) (f : CurveSlot → CurveSlot) (s : State) : (modCurve i f s).now = s.now := rfl
@[simp] theorem modCurve_draws (i : Fin 8) (f : CurveSlot → CurveSlot) (s : State) :
    (modCurve i f s).draws = s.draws := rfl
@[simp] theorem modCurve_orders (i : Fin 8) (f : CurveSlot → CurveSlot) (s : State) :
    (modCurve i f s).orders = s.orders := rfl
@[simp] theorem modCurve_pins (i : Fin 8) (f : CurveSlot → CurveSlot) (s : State) :
    (modCurve i f s).pins = s.pins := rfl
@[simp] theorem modCurve_rsp (i : Fin 8) (f : CurveSlot → CurveSlot) (s : State) : (modCurve i f s).rsp = s.rsp := rfl
@[simp] theorem modCurve_held (i : Fin 8) (f : CurveSlot → CurveSlot) (s : State) :
    (modCurve i f s).held = s.held := rfl
@[simp] theorem modCurve_fw (i : Fin 8) (f : CurveSlot → CurveSlot) (s : State) : (modCurve i f s).fw = s.fw := rfl
@[simp] theorem modCurve_lcauth (i : Fin 8) (f : CurveSlot → CurveSlot) (s : State) :
    (modCurve i f s).lcauth = s.lcauth := rfl
@[simp] theorem modCurve_i3cAddressed (i : Fin 8) (f : CurveSlot → CurveSlot) (s : State) :
    (modCurve i f s).i3cAddressed = s.i3cAddressed := rfl
@[simp] theorem modCurve_ibiWaiting (i : Fin 8) (f : CurveSlot → CurveSlot) (s : State) :
    (modCurve i f s).ibiWaiting = s.ibiWaiting := rfl
@[simp] theorem modCurve_beat (i : Fin 8) (f : CurveSlot → CurveSlot) (s : State) :
    (modCurve i f s).beat = s.beat := rfl
@[simp] theorem modCurve_core (i : Fin 8) (f : CurveSlot → CurveSlot) (s : State) :
    (modCurve i f s).core = s.core := rfl
@[simp] theorem modCurve_cells (i : Fin 8) (f : CurveSlot → CurveSlot) (s : State) :
    (modCurve i f s).cells = s.cells := rfl
@[simp] theorem modCurve_units (i : Fin 8) (f : CurveSlot → CurveSlot) (s : State) :
    (modCurve i f s).units = s.units := rfl
@[simp] theorem modCurve_seats (i : Fin 8) (f : CurveSlot → CurveSlot) (s : State) :
    (modCurve i f s).seats = s.seats := rfl
@[simp] theorem modCurve_jobs (i : Fin 8) (f : CurveSlot → CurveSlot) (s : State) :
    (modCurve i f s).jobs = s.jobs := rfl
@[simp] theorem modCurve_nextJob (i : Fin 8) (f : CurveSlot → CurveSlot) (s : State) :
    (modCurve i f s).nextJob = s.nextJob := rfl
@[simp] theorem modCurve_arbs (i : Fin 8) (f : CurveSlot → CurveSlot) (s : State) :
    (modCurve i f s).arbs = s.arbs := rfl
@[simp] theorem modCurve_mbx (i : Fin 8) (f : CurveSlot → CurveSlot) (s : State) : (modCurve i f s).mbx = s.mbx := rfl
@[simp] theorem modCurve_fi (i : Fin 8) (f : CurveSlot → CurveSlot) (s : State) : (modCurve i f s).fi = s.fi := rfl
@[simp] theorem modCurve_otp (i : Fin 8) (f : CurveSlot → CurveSlot) (s : State) : (modCurve i f s).otp = s.otp := rfl
@[simp] theorem modCurve_lc (i : Fin 8) (f : CurveSlot → CurveSlot) (s : State) : (modCurve i f s).lc = s.lc := rfl
@[simp] theorem modCurve_keys (i : Fin 8) (f : CurveSlot → CurveSlot) (s : State) :
    (modCurve i f s).keys = s.keys := rfl
@[simp] theorem modCurve_boot (i : Fin 8) (f : CurveSlot → CurveSlot) (s : State) :
    (modCurve i f s).boot = s.boot := rfl
@[simp] theorem modCurve_pke (i : Fin 8) (f : CurveSlot → CurveSlot) (s : State) :
    (modCurve i f s).pke = { s.pke with curves := vmod s.pke.curves i f } := rfl
@[simp] theorem modCurve_dig (i : Fin 8) (f : CurveSlot → CurveSlot) (s : State) : (modCurve i f s).dig = s.dig := rfl
@[simp] theorem modCurve_ing (i : Fin 8) (f : CurveSlot → CurveSlot) (s : State) : (modCurve i f s).ing = s.ing := rfl
@[simp] theorem modCurve_part (i : Fin 8) (f : CurveSlot → CurveSlot) (s : State) :
    (modCurve i f s).part = s.part := rfl
@[simp] theorem modCurve_recd (i : Fin 8) (f : CurveSlot → CurveSlot) (s : State) :
    (modCurve i f s).recd = s.recd := rfl
@[simp] theorem modCurve_out (i : Fin 8) (f : CurveSlot → CurveSlot) (s : State) : (modCurve i f s).out = s.out := rfl
@[simp] theorem modCurve_pending (i : Fin 8) (f : CurveSlot → CurveSlot) (s : State) :
    (modCurve i f s).pending = s.pending := rfl

/-! ## modConn -/

@[simp] theorem modConn_now (p : MctpPath) (f : SpdmConn → SpdmConn) (s : State) : (modConn p f s).now = s.now := rfl
@[simp] theorem modConn_draws (p : MctpPath) (f : SpdmConn → SpdmConn) (s : State) :
    (modConn p f s).draws = s.draws := rfl
@[simp] theorem modConn_orders (p : MctpPath) (f : SpdmConn → SpdmConn) (s : State) :
    (modConn p f s).orders = s.orders := rfl
@[simp] theorem modConn_pins (p : MctpPath) (f : SpdmConn → SpdmConn) (s : State) : (modConn p f s).pins = s.pins := rfl
@[simp] theorem modConn_rsp (p : MctpPath) (f : SpdmConn → SpdmConn) (s : State) : (modConn p f s).rsp = s.rsp := rfl
@[simp] theorem modConn_held (p : MctpPath) (f : SpdmConn → SpdmConn) (s : State) : (modConn p f s).held = s.held := rfl
@[simp] theorem modConn_fw (p : MctpPath) (f : SpdmConn → SpdmConn) (s : State) : (modConn p f s).fw = s.fw := rfl
@[simp] theorem modConn_lcauth (p : MctpPath) (f : SpdmConn → SpdmConn) (s : State) :
    (modConn p f s).lcauth = s.lcauth := rfl
@[simp] theorem modConn_i3cAddressed (p : MctpPath) (f : SpdmConn → SpdmConn) (s : State) :
    (modConn p f s).i3cAddressed = s.i3cAddressed := rfl
@[simp] theorem modConn_ibiWaiting (p : MctpPath) (f : SpdmConn → SpdmConn) (s : State) :
    (modConn p f s).ibiWaiting = s.ibiWaiting := rfl
@[simp] theorem modConn_beat (p : MctpPath) (f : SpdmConn → SpdmConn) (s : State) : (modConn p f s).beat = s.beat := rfl
@[simp] theorem modConn_core (p : MctpPath) (f : SpdmConn → SpdmConn) (s : State) : (modConn p f s).core = s.core := rfl
@[simp] theorem modConn_cells (p : MctpPath) (f : SpdmConn → SpdmConn) (s : State) :
    (modConn p f s).cells = s.cells := rfl
@[simp] theorem modConn_units (p : MctpPath) (f : SpdmConn → SpdmConn) (s : State) :
    (modConn p f s).units = s.units := rfl
@[simp] theorem modConn_seats (p : MctpPath) (f : SpdmConn → SpdmConn) (s : State) :
    (modConn p f s).seats = s.seats := rfl
@[simp] theorem modConn_jobs (p : MctpPath) (f : SpdmConn → SpdmConn) (s : State) : (modConn p f s).jobs = s.jobs := rfl
@[simp] theorem modConn_nextJob (p : MctpPath) (f : SpdmConn → SpdmConn) (s : State) :
    (modConn p f s).nextJob = s.nextJob := rfl
@[simp] theorem modConn_arbs (p : MctpPath) (f : SpdmConn → SpdmConn) (s : State) : (modConn p f s).arbs = s.arbs := rfl
@[simp] theorem modConn_mbx (p : MctpPath) (f : SpdmConn → SpdmConn) (s : State) : (modConn p f s).mbx = s.mbx := rfl
@[simp] theorem modConn_fi (p : MctpPath) (f : SpdmConn → SpdmConn) (s : State) : (modConn p f s).fi = s.fi := rfl
@[simp] theorem modConn_otp (p : MctpPath) (f : SpdmConn → SpdmConn) (s : State) : (modConn p f s).otp = s.otp := rfl
@[simp] theorem modConn_lc (p : MctpPath) (f : SpdmConn → SpdmConn) (s : State) : (modConn p f s).lc = s.lc := rfl
@[simp] theorem modConn_keys (p : MctpPath) (f : SpdmConn → SpdmConn) (s : State) : (modConn p f s).keys = s.keys := rfl
@[simp] theorem modConn_boot (p : MctpPath) (f : SpdmConn → SpdmConn) (s : State) : (modConn p f s).boot = s.boot := rfl
@[simp] theorem modConn_pke (p : MctpPath) (f : SpdmConn → SpdmConn) (s : State) : (modConn p f s).pke = s.pke := rfl
@[simp] theorem modConn_dig (p : MctpPath) (f : SpdmConn → SpdmConn) (s : State) : (modConn p f s).dig = s.dig := rfl
@[simp] theorem modConn_ing (p : MctpPath) (f : SpdmConn → SpdmConn) (s : State) : (modConn p f s).ing = s.ing := rfl
@[simp] theorem modConn_part (p : MctpPath) (f : SpdmConn → SpdmConn) (s : State) :
    (modConn p f s).part = { s.part with spdm := vmod s.part.spdm (pathIx p) f } := rfl
@[simp] theorem modConn_recd (p : MctpPath) (f : SpdmConn → SpdmConn) (s : State) : (modConn p f s).recd = s.recd := rfl
@[simp] theorem modConn_out (p : MctpPath) (f : SpdmConn → SpdmConn) (s : State) : (modConn p f s).out = s.out := rfl
@[simp] theorem modConn_pending (p : MctpPath) (f : SpdmConn → SpdmConn) (s : State) :
    (modConn p f s).pending = s.pending := rfl

/-! ## setPldm -/

@[simp] theorem setPldm_now (x : Option PldmSession) (s : State) : (setPldm x s).now = s.now := rfl
@[simp] theorem setPldm_draws (x : Option PldmSession) (s : State) : (setPldm x s).draws = s.draws := rfl
@[simp] theorem setPldm_orders (x : Option PldmSession) (s : State) : (setPldm x s).orders = s.orders := rfl
@[simp] theorem setPldm_pins (x : Option PldmSession) (s : State) : (setPldm x s).pins = s.pins := rfl
@[simp] theorem setPldm_rsp (x : Option PldmSession) (s : State) : (setPldm x s).rsp = s.rsp := rfl
@[simp] theorem setPldm_held (x : Option PldmSession) (s : State) : (setPldm x s).held = s.held := rfl
@[simp] theorem setPldm_fw (x : Option PldmSession) (s : State) : (setPldm x s).fw = s.fw := rfl
@[simp] theorem setPldm_lcauth (x : Option PldmSession) (s : State) : (setPldm x s).lcauth = s.lcauth := rfl
@[simp] theorem setPldm_i3cAddressed (x : Option PldmSession) (s : State) :
    (setPldm x s).i3cAddressed = s.i3cAddressed := rfl
@[simp] theorem setPldm_ibiWaiting (x : Option PldmSession) (s : State) : (setPldm x s).ibiWaiting = s.ibiWaiting := rfl
@[simp] theorem setPldm_beat (x : Option PldmSession) (s : State) : (setPldm x s).beat = s.beat := rfl
@[simp] theorem setPldm_core (x : Option PldmSession) (s : State) : (setPldm x s).core = s.core := rfl
@[simp] theorem setPldm_cells (x : Option PldmSession) (s : State) : (setPldm x s).cells = s.cells := rfl
@[simp] theorem setPldm_units (x : Option PldmSession) (s : State) : (setPldm x s).units = s.units := rfl
@[simp] theorem setPldm_seats (x : Option PldmSession) (s : State) : (setPldm x s).seats = s.seats := rfl
@[simp] theorem setPldm_jobs (x : Option PldmSession) (s : State) : (setPldm x s).jobs = s.jobs := rfl
@[simp] theorem setPldm_nextJob (x : Option PldmSession) (s : State) : (setPldm x s).nextJob = s.nextJob := rfl
@[simp] theorem setPldm_arbs (x : Option PldmSession) (s : State) : (setPldm x s).arbs = s.arbs := rfl
@[simp] theorem setPldm_mbx (x : Option PldmSession) (s : State) : (setPldm x s).mbx = s.mbx := rfl
@[simp] theorem setPldm_fi (x : Option PldmSession) (s : State) : (setPldm x s).fi = s.fi := rfl
@[simp] theorem setPldm_otp (x : Option PldmSession) (s : State) : (setPldm x s).otp = s.otp := rfl
@[simp] theorem setPldm_lc (x : Option PldmSession) (s : State) : (setPldm x s).lc = s.lc := rfl
@[simp] theorem setPldm_keys (x : Option PldmSession) (s : State) : (setPldm x s).keys = s.keys := rfl
@[simp] theorem setPldm_boot (x : Option PldmSession) (s : State) :
    (setPldm x s).boot = { s.boot with pldm := x } := rfl
@[simp] theorem setPldm_pke (x : Option PldmSession) (s : State) : (setPldm x s).pke = s.pke := rfl
@[simp] theorem setPldm_dig (x : Option PldmSession) (s : State) : (setPldm x s).dig = s.dig := rfl
@[simp] theorem setPldm_ing (x : Option PldmSession) (s : State) : (setPldm x s).ing = s.ing := rfl
@[simp] theorem setPldm_part (x : Option PldmSession) (s : State) : (setPldm x s).part = s.part := rfl
@[simp] theorem setPldm_recd (x : Option PldmSession) (s : State) : (setPldm x s).recd = s.recd := rfl
@[simp] theorem setPldm_out (x : Option PldmSession) (s : State) : (setPldm x s).out = s.out := rfl
@[simp] theorem setPldm_pending (x : Option PldmSession) (s : State) : (setPldm x s).pending = s.pending := rfl

/-! ## setJob -/

@[simp] theorem setJob_now (j : Job) (s : State) : (setJob j s).now = s.now := rfl
@[simp] theorem setJob_draws (j : Job) (s : State) : (setJob j s).draws = s.draws := rfl
@[simp] theorem setJob_orders (j : Job) (s : State) : (setJob j s).orders = s.orders := rfl
@[simp] theorem setJob_pins (j : Job) (s : State) : (setJob j s).pins = s.pins := rfl
@[simp] theorem setJob_rsp (j : Job) (s : State) : (setJob j s).rsp = s.rsp := rfl
@[simp] theorem setJob_held (j : Job) (s : State) : (setJob j s).held = s.held := rfl
@[simp] theorem setJob_fw (j : Job) (s : State) : (setJob j s).fw = s.fw := rfl
@[simp] theorem setJob_lcauth (j : Job) (s : State) : (setJob j s).lcauth = s.lcauth := rfl
@[simp] theorem setJob_i3cAddressed (j : Job) (s : State) : (setJob j s).i3cAddressed = s.i3cAddressed := rfl
@[simp] theorem setJob_ibiWaiting (j : Job) (s : State) : (setJob j s).ibiWaiting = s.ibiWaiting := rfl
@[simp] theorem setJob_beat (j : Job) (s : State) : (setJob j s).beat = s.beat := rfl
@[simp] theorem setJob_core (j : Job) (s : State) : (setJob j s).core = s.core := rfl
@[simp] theorem setJob_cells (j : Job) (s : State) : (setJob j s).cells = s.cells := rfl
@[simp] theorem setJob_units (j : Job) (s : State) : (setJob j s).units = s.units := rfl
@[simp] theorem setJob_seats (j : Job) (s : State) : (setJob j s).seats = s.seats := rfl
@[simp] theorem setJob_jobs (j : Job) (s : State) :
    (setJob j s).jobs = s.jobs.map (fun x => if x.id = j.id then j else x) := rfl
@[simp] theorem setJob_nextJob (j : Job) (s : State) : (setJob j s).nextJob = s.nextJob := rfl
@[simp] theorem setJob_arbs (j : Job) (s : State) : (setJob j s).arbs = s.arbs := rfl
@[simp] theorem setJob_mbx (j : Job) (s : State) : (setJob j s).mbx = s.mbx := rfl
@[simp] theorem setJob_fi (j : Job) (s : State) : (setJob j s).fi = s.fi := rfl
@[simp] theorem setJob_otp (j : Job) (s : State) : (setJob j s).otp = s.otp := rfl
@[simp] theorem setJob_lc (j : Job) (s : State) : (setJob j s).lc = s.lc := rfl
@[simp] theorem setJob_keys (j : Job) (s : State) : (setJob j s).keys = s.keys := rfl
@[simp] theorem setJob_boot (j : Job) (s : State) : (setJob j s).boot = s.boot := rfl
@[simp] theorem setJob_pke (j : Job) (s : State) : (setJob j s).pke = s.pke := rfl
@[simp] theorem setJob_dig (j : Job) (s : State) : (setJob j s).dig = s.dig := rfl
@[simp] theorem setJob_ing (j : Job) (s : State) : (setJob j s).ing = s.ing := rfl
@[simp] theorem setJob_part (j : Job) (s : State) : (setJob j s).part = s.part := rfl
@[simp] theorem setJob_recd (j : Job) (s : State) : (setJob j s).recd = s.recd := rfl
@[simp] theorem setJob_out (j : Job) (s : State) : (setJob j s).out = s.out := rfl
@[simp] theorem setJob_pending (j : Job) (s : State) : (setJob j s).pending = s.pending := rfl

/-! ## emit -/

@[simp] theorem emit_now (e : PortEvent) (s : State) : (emit e s).now = s.now := rfl
@[simp] theorem emit_draws (e : PortEvent) (s : State) : (emit e s).draws = s.draws := rfl
@[simp] theorem emit_orders (e : PortEvent) (s : State) : (emit e s).orders = s.orders := rfl
@[simp] theorem emit_pins (e : PortEvent) (s : State) : (emit e s).pins = s.pins := rfl
@[simp] theorem emit_rsp (e : PortEvent) (s : State) : (emit e s).rsp = s.rsp := rfl
@[simp] theorem emit_held (e : PortEvent) (s : State) : (emit e s).held = s.held := rfl
@[simp] theorem emit_fw (e : PortEvent) (s : State) : (emit e s).fw = s.fw := rfl
@[simp] theorem emit_lcauth (e : PortEvent) (s : State) : (emit e s).lcauth = s.lcauth := rfl
@[simp] theorem emit_i3cAddressed (e : PortEvent) (s : State) : (emit e s).i3cAddressed = s.i3cAddressed := rfl
@[simp] theorem emit_ibiWaiting (e : PortEvent) (s : State) : (emit e s).ibiWaiting = s.ibiWaiting := rfl
@[simp] theorem emit_beat (e : PortEvent) (s : State) : (emit e s).beat = s.beat := rfl
@[simp] theorem emit_core (e : PortEvent) (s : State) : (emit e s).core = s.core := rfl
@[simp] theorem emit_cells (e : PortEvent) (s : State) : (emit e s).cells = s.cells := rfl
@[simp] theorem emit_units (e : PortEvent) (s : State) : (emit e s).units = s.units := rfl
@[simp] theorem emit_seats (e : PortEvent) (s : State) : (emit e s).seats = s.seats := rfl
@[simp] theorem emit_jobs (e : PortEvent) (s : State) : (emit e s).jobs = s.jobs := rfl
@[simp] theorem emit_nextJob (e : PortEvent) (s : State) : (emit e s).nextJob = s.nextJob := rfl
@[simp] theorem emit_arbs (e : PortEvent) (s : State) : (emit e s).arbs = s.arbs := rfl
@[simp] theorem emit_mbx (e : PortEvent) (s : State) : (emit e s).mbx = s.mbx := rfl
@[simp] theorem emit_fi (e : PortEvent) (s : State) : (emit e s).fi = s.fi := rfl
@[simp] theorem emit_otp (e : PortEvent) (s : State) : (emit e s).otp = s.otp := rfl
@[simp] theorem emit_lc (e : PortEvent) (s : State) : (emit e s).lc = s.lc := rfl
@[simp] theorem emit_keys (e : PortEvent) (s : State) : (emit e s).keys = s.keys := rfl
@[simp] theorem emit_boot (e : PortEvent) (s : State) : (emit e s).boot = s.boot := rfl
@[simp] theorem emit_pke (e : PortEvent) (s : State) : (emit e s).pke = s.pke := rfl
@[simp] theorem emit_dig (e : PortEvent) (s : State) : (emit e s).dig = s.dig := rfl
@[simp] theorem emit_ing (e : PortEvent) (s : State) : (emit e s).ing = s.ing := rfl
@[simp] theorem emit_part (e : PortEvent) (s : State) : (emit e s).part = s.part := rfl
@[simp] theorem emit_recd (e : PortEvent) (s : State) : (emit e s).recd = s.recd := rfl
@[simp] theorem emit_out (e : PortEvent) (s : State) : (emit e s).out = s.out ++ [e] := rfl
@[simp] theorem emit_pending (e : PortEvent) (s : State) : (emit e s).pending = s.pending := rfl

/-! ## answered -/

@[simp] theorem answered_now (rq : Req) (data : Word) (s : State) : (answered rq data s).now = s.now := rfl
@[simp] theorem answered_draws (rq : Req) (data : Word) (s : State) : (answered rq data s).draws = s.draws := rfl
@[simp] theorem answered_orders (rq : Req) (data : Word) (s : State) : (answered rq data s).orders = s.orders := rfl
@[simp] theorem answered_pins (rq : Req) (data : Word) (s : State) : (answered rq data s).pins = s.pins := rfl
@[simp] theorem answered_rsp (rq : Req) (data : Word) (s : State) :
    (answered rq data s).rsp = { valid := true, err := false, rdata := data, src := rq.src, id := rq.id } := rfl
@[simp] theorem answered_held (rq : Req) (data : Word) (s : State) : (answered rq data s).held = s.held := rfl
@[simp] theorem answered_fw (rq : Req) (data : Word) (s : State) : (answered rq data s).fw = s.fw := rfl
@[simp] theorem answered_lcauth (rq : Req) (data : Word) (s : State) : (answered rq data s).lcauth = s.lcauth := rfl
@[simp] theorem answered_i3cAddressed (rq : Req) (data : Word) (s : State) :
    (answered rq data s).i3cAddressed = s.i3cAddressed := rfl
@[simp] theorem answered_ibiWaiting (rq : Req) (data : Word) (s : State) :
    (answered rq data s).ibiWaiting = s.ibiWaiting := rfl
@[simp] theorem answered_beat (rq : Req) (data : Word) (s : State) : (answered rq data s).beat = s.beat := rfl
@[simp] theorem answered_core (rq : Req) (data : Word) (s : State) : (answered rq data s).core = s.core := rfl
@[simp] theorem answered_cells (rq : Req) (data : Word) (s : State) : (answered rq data s).cells = s.cells := rfl
@[simp] theorem answered_units (rq : Req) (data : Word) (s : State) : (answered rq data s).units = s.units := rfl
@[simp] theorem answered_seats (rq : Req) (data : Word) (s : State) : (answered rq data s).seats = s.seats := rfl
@[simp] theorem answered_jobs (rq : Req) (data : Word) (s : State) : (answered rq data s).jobs = s.jobs := rfl
@[simp] theorem answered_nextJob (rq : Req) (data : Word) (s : State) : (answered rq data s).nextJob = s.nextJob := rfl
@[simp] theorem answered_arbs (rq : Req) (data : Word) (s : State) : (answered rq data s).arbs = s.arbs := rfl
@[simp] theorem answered_mbx (rq : Req) (data : Word) (s : State) : (answered rq data s).mbx = s.mbx := rfl
@[simp] theorem answered_fi (rq : Req) (data : Word) (s : State) : (answered rq data s).fi = s.fi := rfl
@[simp] theorem answered_otp (rq : Req) (data : Word) (s : State) : (answered rq data s).otp = s.otp := rfl
@[simp] theorem answered_lc (rq : Req) (data : Word) (s : State) : (answered rq data s).lc = s.lc := rfl
@[simp] theorem answered_keys (rq : Req) (data : Word) (s : State) : (answered rq data s).keys = s.keys := rfl
@[simp] theorem answered_boot (rq : Req) (data : Word) (s : State) : (answered rq data s).boot = s.boot := rfl
@[simp] theorem answered_pke (rq : Req) (data : Word) (s : State) : (answered rq data s).pke = s.pke := rfl
@[simp] theorem answered_dig (rq : Req) (data : Word) (s : State) : (answered rq data s).dig = s.dig := rfl
@[simp] theorem answered_ing (rq : Req) (data : Word) (s : State) : (answered rq data s).ing = s.ing := rfl
@[simp] theorem answered_part (rq : Req) (data : Word) (s : State) : (answered rq data s).part = s.part := rfl
@[simp] theorem answered_recd (rq : Req) (data : Word) (s : State) : (answered rq data s).recd = s.recd := rfl
@[simp] theorem answered_out (rq : Req) (data : Word) (s : State) : (answered rq data s).out = s.out := rfl
@[simp] theorem answered_pending (rq : Req) (data : Word) (s : State) : (answered rq data s).pending = s.pending := rfl

end Sys2Proof.Machine
end

