-- ==== Sys2Proof/Laws/Turns.lean ====
section
/-! SUPPORT. Job rows: what a row does at its turn, and the form of its check order. -/

namespace Sys2Proof.Machine

/-- A job row whose turn stands runs its job. -/
theorem turn_run {o : Op} {s u : State} {j : Job} (h : Turn o s j u) (go : Job → State → State) : runJob o true go s = go j u := by
  unfold Turn at h; simp only [runJob, h]

/-- With every check passed no check fails first. -/
theorem ff_none {cs : List (Bool × Status)} (h : Passes cs) : firstFail cs = none := by
  induction cs with
  | nil => rfl
  | cons c cs ih =>
    obtain ⟨ok, st⟩ := c
    have : ok = true := h (ok, st) (by simp)
    subst this; exact ih fun d hd => h d (by simp [hd])

/-- A row that refuses at its first failed check and otherwise has its effect meets its check order. -/
theorem admits_of {c : Instr} {s : State} {cs : List (Bool × Status)} {e : State} {r : Status → State}
    (hx : exec c s = .next (match firstFail cs with | some st => r st | none => e)) : Admits c s cs e r :=
  ⟨fun h => by rw [hx, ff_none h], fun st h => by rw [hx, h]⟩

/-- The burn pump goes through the choice of the outcome. -/
theorem pump_ff (cs : List (Bool × Status)) (r : Status → State) (e : State) :
  pumpOtp (match firstFail cs with | some st => r st | none => e) = (match firstFail cs with | some st => pumpOtp (r st) | none => pumpOtp e) := by split <;> rfl

/-- A PKE row whose turn stands runs its job and chooses anew. -/
theorem pke_run {o : Op} {s u : State} {j : Job} (h : PkeTurn o s j u) (go : Job → State → State) :
    runPke o go s = choosePke (go j u) := by
  obtain ⟨hm, n, i, hc, hq, ho, hb, hs⟩ := h
  unfold runPke
  rw [hm]
  simp only [Bool.not_true, Bool.false_eq_true, if_false]
  rw [hc]; dsimp only
  rw [hq]; dsimp only
  rw [if_pos (by rw [ho, hb]; simp)]
  rw [hs]

/-- A DIG row whose turn stands starts its job. -/
theorem dig_run {o : Op} {s u : State} {j : Job} (h : DigTurn o s j u) : runDig o s = startDig j u := by
  obtain ⟨hm, hp, n, a, i, ha, hy, he, ho, hs⟩ := h
  unfold runDig
  rw [hm, hp]
  simp only [Bool.not_true, Bool.or_self, Bool.false_eq_true, if_false]
  rw [ha]; dsimp only
  rw [hy]; dsimp only
  rw [he]; dsimp only
  rw [if_pos ho, hs]

/-- The operation of the job a DIG turn starts. -/
theorem dig_op {o : Op} {s u : State} {j : Job} (h : DigTurn o s j u) : j.op = o := by
  obtain ⟨_, _, n, a, i, _, _, _, ho, hs⟩ := h
  have := congrArg (fun p => p.1.op) hs
  exact this.symm.trans ho

/-- The operation of the job a PKE turn starts. -/
theorem pke_op {o : Op} {s u : State} {j : Job} (h : PkeTurn o s j u) : j.op = o := by
  obtain ⟨_, n, i, _, _, ho, _, hs⟩ := h
  have := congrArg (fun p => p.1.op) hs
  exact this.symm.trans ho

/-- The later of two writes of an element stands. -/
theorem vset_vset {α : Type} {n : Nat} (v : Vector α n) (i : Fin n) (x y : α) : vset (vset v i x) i y = vset v i y := by
  simp [vset]

/-- ING starts the job of its choice. -/
theorem start_ing {o : Op} {n : Seat} {a : Arb} {i : Fin 32} {s u : State} {j : Job} (go : Job → State → State)
    (hq : oldestQueued (s.seat n) .ing = some i) (ho : (s.seat n).entries[i].op = o)
    (hs : startEntry n i { s with arbs := vset s.arbs (engineIx .ing) a } = (j, u)) : startIng o n a go s = go j u := by
  unfold startIng; rw [hq]; dsimp only; rw [if_pos ho, hs]

/-- ING starts the job of its choice, whatever arbiter was put before. -/
theorem start_ing' {o : Op} {n : Seat} {a b : Arb} {i : Fin 32} {s u : State} {j : Job} (go : Job → State → State)
    (hq : oldestQueued (s.seat n) .ing = some i) (ho : (s.seat n).entries[i].op = o)
    (hs : startEntry n i { s with arbs := vset s.arbs (engineIx .ing) a } = (j, u)) :
    startIng o n a go { s with arbs := vset s.arbs (engineIx .ing) b } = go j u := by
  refine start_ing go (i := i) hq ho ?_
  rw [← hs]; dsimp only; rw [vset_vset]

/-- An ING row whose turn stands runs its job. -/
theorem ing_run {o : Op} {s u : State} {j : Job} (h : IngTurn o s j u) (go : Job → State → State) :
    runIng o go s = go j u := by
  obtain ⟨hm, n, a, i, hc, hq, ho, hs⟩ := h
  unfold runIng
  rw [hm]
  simp only [Bool.not_true, Bool.false_eq_true, if_false]
  rcases hc with ⟨hl, hw, hf, rfl⟩ | ⟨hl, hw, a', hp, rfl⟩ | ⟨hw, a', hp, hf, rfl⟩ | ⟨hw, m, a', a'', hp, hf, hp2, rfl⟩
  · rw [hw]; dsimp only; rw [if_pos hl, if_pos hf]
    exact start_ing go hq ho hs
  · obtain ⟨m, hm⟩ := Option.isSome_iff_exists.mp hw
    dsimp only at hp
    rw [hm]; dsimp only; rw [if_neg hl]; rw [hp]; dsimp only
    exact start_ing go hq ho hs
  · dsimp only at hp
    rw [hw]; dsimp only; rw [hp]; dsimp only; rw [if_neg (by rw [hf]; simp)]
    exact start_ing go hq ho hs
  · dsimp only at hp
    rw [hw]; dsimp only; rw [hp]; dsimp only; rw [if_pos hf]
    have hx : ∀ t : State, t = { s with arbs := vset s.arbs (engineIx .ing) { a' with chosen := some m } } →
        (match arbPick { a' with chosen := some m } (fun k => weightOf t k .ing) (fun k => (oldestQueued (s.seat k) .ing).isSome && !loadNext t k) with
         | none => t | some (n, a'') => startIng o n { a'' with chosen := some m } go t) = go j u := by
      intro t ht
      have hp3 : arbPick { a' with chosen := some m } (fun k => weightOf t k .ing) (fun k => (oldestQueued (s.seat k) .ing).isSome && !loadNext t k) = some (n, a'') := by
        subst ht; exact hp2
      rw [hp3]; dsimp only; subst ht
      exact start_ing' go hq ho hs
    exact hx _ rfl

end Sys2Proof.Machine
end

