-- ==== Sys2Proof/WellFormed.lean ====
section
/-! DEFINITION. Which commands are well formed: the lengths and limits that the ports and message formats of the
spec give their operands. -/

namespace Sys2Proof

/-- A sense environment names each drifting word once (R166). -/
def SenseEnv.wf (e : SenseEnv) : Bool := decide (e.drift.map (·.1)).Nodup

/-- An SFDP declaration fits the flash of R96: up to 256 MiB, sectors of at least one KiB. -/
def Sfdp.wf (f : Sfdp) : Bool := decide (0 < f.sizeMiB) && decide (f.sizeMiB ≤ 256) && decide (0 < f.sectorKiB)

/-- Well-formedness of a command. A command without a limit on its operands is well formed. -/
def Instr.wf : Instr → Bool
  | .fuseSense env => env.wf
  | .startSequence env => env.sfdp.wf
  | .registerWrite a => a.write
  | .streamChunk _ _ _ beats data => decide (data.length = 16 * beats)
  | .sweepReadData chunk => decide (chunk.length = 4096)
  | .challenge _ _ nonce => decide (nonce.length = 32)
  | .getMeasurements _ _ _ nonce => decide (nonce.length = 32)
  | .keyExchange _ _ _ peer => decide (peer.length = 96)
  | .beatEdge _ _ off => decide (off < 2 ^ 64)
  | _ => true

end Sys2Proof
end

