-- ==== Sys2Proof/Tests/Slice0.lean ====
section
/-! SUPPORT. Tests: the checks of WellFormed, the worked examples of the spec, and a witness for the hypotheses of every
statement. -/

open Sys2Proof Sys2Proof.Machine

set_option maxRecDepth 20000
set_option exponentiation.threshold 600

namespace Sys2Proof.Tests

/-! ## WellFormed: an ill-formed command for each check -/

theorem test_wf_sense : (Instr.fuseSense { groupsFailed := [], drift := [(1, 0, 0), (1, 0, 0)], transient := false }).wf = false := by
  decide
theorem test_wf_sfdp : (Instr.startSequence { sfdp := { sizeMiB := 257, sectorKiB := 4, octal := false }, cellsFailed := [], pulses := [], initError := false, kdAcks := 0, suiteRejects := 0 }).wf = false := by decide
theorem test_wf_write : (Instr.registerWrite { write := false, addr := 0, src := 0, id := 0, wide := true, data := 0 }).wf = false := by
  decide
theorem test_wf_chunk : (Instr.streamChunk 0 0 true 2 (List.replicate 31 0)).wf = false := by decide
theorem test_wf_sweep : (Instr.sweepReadData [0]).wf = false := by decide
theorem test_wf_nonce : (Instr.challenge .pcie 0 []).wf = false ∧ (Instr.getMeasurements .pcie 1 true []).wf = false := by decide
theorem test_wf_peer : (Instr.keyExchange .pcie 0 0 []).wf = false := by decide
theorem test_wf_edge : (Instr.beatEdge 0 true (2 ^ 64)).wf = false ∧ (Instr.beatEdge 0 true (2 ^ 64 - 1)).wf = true := by decide

/-! ## Worked examples of the spec -/

/-- 03_seats_queues_mailboxes.md, example under R119: a refusal with hint 60, and an acceptance into PKE entry 3. -/
theorem test_accept : refusedWord .busy 60 = 0x2003C ∧ acceptedWord 0x1A3 .pke 3 = 0x1A300001800 := by decide
/-- The same example: the header of the entry before and after completion. -/
theorem test_header :
    entryHeader { st := .started 0, tag := 0x0B07, seq := 0x1A3 } = 0x00010B07000001A3
    ∧ entryHeader { st := .done, tag := 0x0B07, seq := 0x1A3 } = 0x0B07000001A3 := by decide
/-- 12_partitions_attestation.md, example under Table 12-2: a sealed weight range of partition 5. -/
theorem test_entry :
    let e : FbEntry := 0x000000240000002403F22C6000000000
    entryBase e = 0x24000 ∧ entryLast e = 0x2403F ∧ entryKind e = 1 ∧ entryOwner e = 5 ∧ bits e.toNat 39 4 = 8
    ∧ entryRead e = true ∧ entrySealed e = true ∧ entryConf e = true ∧ entryReservedOk e = true := by decide
/-- 15_worked_session.md, Table 15-2: the two entries of partition 12. -/
theorem test_entries :
    let a : FbEntry := 0x0000030000000301FFF2646000000000
    let b : FbEntry := 0x0000030200000303FFF2662000000000
    entryBase a = 0x300000 ∧ entryLast a = 0x301FFF ∧ entryOwner a = 12 ∧ bits a.toNat 39 4 = 8 ∧ entrySealed a = true
    ∧ entryBase b = 0x302000 ∧ entryLast b = 0x303FFF ∧ entryOwner b = 12 ∧ bits b.toNat 39 4 = 12
    ∧ entrySealed b = false ∧ entryConf b = true := by decide
/-- 04_fabric_beat.md, example under R138: 250 ns after the edge, LOCKED in epoch 1. -/
theorem test_stamp :
    stampNow { State.reset with
      now := 250 * Config.nanosecond
      beat := { mode := .locked, lbeat := 0x4200000, epoch := 1, tEdge := 0 } } = { beat := 0x4200000, info := 0xC0140000 } := by
  decide
/-- 15_worked_session.md: PART_INFO12 after the swap. -/
theorem test_partInfo :
    partInfo { State.reset with
      part := { recs := vset (Vector.replicate 64 {}) 12 { st := .active, conf := true, created := 1 } } } 12
      = 0x100000041 := by decide
/-- 05_fuses_counters.md, example under R164: counter 3 after a pulse that power cut. -/
theorem test_counter :
    let s : State := { State.reset with
      otp := { array := [(0x460, (0xFFFFFFFFFFFFFFFF, 0xFFFFFFFFFFFFFFFF)), (0x461, (0x7F, 0x3F))] } }
    ctrLive s 3 = 71 ∧ (mrepOf 0x461 (0x7F, 0x3F)).map mrepWord = some 0x4616010000000000 := by decide

/-! ## States the tests use -/

/-- CTRL running in Control, Fielded, the beat locked at 5,000, an installer on seat 64, every region open. -/
def up : State :=
  { State.reset with
    pins := { porAonN := true, chipRstN := true, relFabric := true, relMem := true, relLink := true, relDma := true,
              relCompute := true, rstComputeN := true, mgmtRelease := true, rstMgmtN := true, flashReset := false }
    core := { ctrlReset := false, startDone := true, vpp := 1800 }
    lc := { state := lcFielded, auth := #v[{ held := { role := .installer, lapse := 1000000 } }, {}, {}] }
    otp := { sensed := true, regions := Vector.replicate 32 .opened }
    recd := { replayDone := true }
    beat := { mode := .locked, epoch := 1, lbeat := 5000 }
    boot := { running := some false, everReleased := true, sfdp := some { sizeMiB := 128, sectorKiB := 64, octal := false } }
    keys := { rootLoaded := true, l0Done := true, l1Done := true } }

/-- The same in a life-cycle state, with a role on seat 64. -/
def upAs (lc : BitVec 3) (r : Role) : State :=
  { up with lc := { up.lc with state := lc, auth := #v[{ held := { role := r, lapse := 1000000 } }, {}, {}] } }

/-- The seven words of a list. -/
def wordsAt (args : List Word) : Words :=
  #v[args.getD 0 0, args.getD 1 0, args.getD 2 0, args.getD 3 0, args.getD 4 0, args.getD 5 0, args.getD 6 0]

/-- A job in entry 0 of its class at seat n, with its engine's turn at that seat. -/
def queue (n : Seat) (o : Op) (args : List Word) (s : State) : State :=
  let x : Entry := { st := .queued, op := o, tag := 7, seq := 1, args := wordsAt args }
  let t := s.modSeat n (fun p => { p with entries := vset p.entries (entryIx (classOf o) 0) x })
  { t with arbs := vset t.arbs (engineIx (engineOf o)) { ptr := n } }

/-- The turn stands at a job of this operation, and the job and the state it starts in meet p. -/
def atTurn (o : Op) (s : State) (p : State → Job → Bool) : Bool :=
  match startNext o true s with
  | some (j, u) => p u j
  | none => false

/-- The turn stands at a job of this operation and every check passes. -/
def passes (o : Op) (s : State) (cs : State → Job → List (Bool × Status)) : Bool :=
  atTurn o s (fun u j => (cs u j).all (fun c => c.1))

/-- The turn stands at a job of this operation and the first failing check gives this status. -/
def fails (o : Op) (s : State) (st : Status) (cs : State → Job → List (Bool × Status)) : Bool :=
  atTurn o s (fun u j => firstFail (cs u j) == some st)

/-- What atTurn says: a job and a state that meet Turn and p. -/
theorem atTurn_turn {o : Op} {s : State} {p : State → Job → Bool} (h : atTurn o s p = true) :
    ∃ j u, Turn o s j u ∧ p u j = true := by
  unfold atTurn at h
  split at h
  · exact ⟨_, _, by assumption, h⟩
  · exact absurd h (by decide)

/-- What passes says: Turn and Passes together. -/
theorem passes_turn {o : Op} {s : State} {cs : State → Job → List (Bool × Status)} (h : passes o s cs = true) :
    ∃ j u, Turn o s j u ∧ Passes (cs u j) := by
  obtain ⟨j, u, ht, hp⟩ := atTurn_turn h
  exact ⟨j, u, ht, fun c hc => List.all_eq_true.mp hp c hc⟩

/-- What fails says: Turn and a first failing check. -/
theorem fails_turn {o : Op} {s : State} {st : Status} {cs : State → Job → List (Bool × Status)}
    (h : fails o s st cs = true) : ∃ j u, Turn o s j u ∧ firstFail (cs u j) = some st := by
  obtain ⟨j, u, ht, hp⟩ := atTurn_turn h
  exact ⟨j, u, ht, by simpa using hp⟩

/-- A partition record in a state. -/
def withPart (n : Part) (st : PartState) (s : State) : State := s.modPart n (fun r => { r with st := st })

/-- A load plan of partition 0 in a state. -/
def withPlan (i : PlanIx) (st : PlanState) (s : State) : State := s.modPlan i (fun p => { p with st := st })

/-- Full, with STRM powered. -/
def full : State :=
  { up with core := { up.core with power := .full }, pins := { up.pins with pwrStrmReq := true, pwrStrmGood := true, isoStrm := false } }

/-- A key of so many bytes, usable for everything, of seat 64. -/
def keyOfLen (n : Nat) : KeySlot :=
  { used := true, owner := 64, cls := 2, usage := 0xFF, content := List.replicate n 1 }

/-- The microcode loaded, and keys of 64, 32 and 64 bytes in slots 32 to 34. -/
def keyed : State :=
  { up with
    boot := { up.boot with mcLoaded := true }
    keys := { up.keys with slots := vset (vset (vset up.keys.slots 32 (keyOfLen 64)) 33 (keyOfLen 32)) 34 (keyOfLen 64) } }

/-- The same with message 0. -/
def withMsg (m : Msg) : State := { keyed with dig := { keyed.dig with msgs := vset keyed.dig.msgs 0 m } }

/-- PKE's turn stands at a job of this operation, and the job and its state meet p. -/
def atPke (o : Op) (s : State) (p : State → Job → Bool) : Bool :=
  let v := choosePke s
  match v.arbs[engineIx .pke].chosen with
  | none => false
  | some n =>
    match oldestQueued (v.seat n) .pke with
    | none => false
    | some i =>
      let r := startEntry n i { v with arbs := vmod v.arbs (engineIx .pke) (fun a => chosenStarted a n) }
      mayStart s .pke && decide ((v.seat n).entries[i].op = o)
        && blockReady v o (fld ((v.seat n).entries[i].args.toList.getD 0 0) 16 8) && p r.2 r.1

/-- What atPke says. -/
theorem atPke_turn {o : Op} {s : State} {p : State → Job → Bool} (h : atPke o s p = true) :
    ∃ j u, PkeTurn o s j u ∧ p u j = true := by
  unfold atPke at h
  dsimp only at h
  split at h
  · exact absurd h (by decide)
  · rename_i n hn
    split at h
    · exact absurd h (by decide)
    · rename_i i hi
      simp only [Bool.and_eq_true, decide_eq_true_eq] at h
      exact ⟨_, _, ⟨h.1.1.1, n, i, hn, hi, h.1.1.2, h.1.2, rfl⟩, h.2⟩

/-- The digest engine's turn stands at a job of this operation, and the job and its state meet p. -/
def atDig (o : Op) (s : State) (p : State → Job → Bool) : Bool :=
  match arbTurn s .dig (digWork s) with
  | none => false
  | some (n, a) =>
    match digEligible s n with
    | none => false
    | some i =>
      let r := startEntry n i { s with arbs := vset s.arbs (engineIx .dig) a }
      mayStart s .dig && pipeFree s && (yielded s n).isNone && decide ((s.seat n).entries[i].op = o) && p r.2 r.1

/-- What atDig says. -/
theorem atDig_turn {o : Op} {s : State} {p : State → Job → Bool} (h : atDig o s p = true) :
    ∃ j u, DigTurn o s j u ∧ p u j = true := by
  unfold atDig at h
  split at h
  · exact absurd h (by decide)
  · rename_i n a ha
    split at h
    · exact absurd h (by decide)
    · rename_i i hi
      simp only [Bool.and_eq_true, decide_eq_true_eq, Option.isNone_iff_eq_none] at h
      exact ⟨_, _, ⟨h.1.1.1.1, h.1.1.1.2, n, a, i, ha, h.1.1.2, hi, h.1.2, rfl⟩, h.2⟩

/-- ING's turn stands at a job of this operation with no load waiting for a lane, and the job and its state meet p. -/
def atIng (o : Op) (s : State) (p : State → Job → Bool) : Bool :=
  match arbPick s.arbs[engineIx .ing] (fun m => weightOf s m .ing) (fun m => (oldestQueued (s.seat m) .ing).isSome) with
  | none => false
  | some (n, a) =>
    match oldestQueued (s.seat n) .ing with
    | none => false
    | some i =>
      let r := startEntry n i { s with arbs := vset s.arbs (engineIx .ing) { a with chosen := none } }
      mayStart s .ing && (loadWaits s).isNone && !(loadNext s n && (freeLane s).isNone)
        && decide ((s.seat n).entries[i].op = o) && p r.2 r.1

/-- What atIng says. -/
theorem atIng_turn {o : Op} {s : State} {p : State → Job → Bool} (h : atIng o s p = true) :
    ∃ j u, IngTurn o s j u ∧ p u j = true := by
  unfold atIng at h
  split at h
  · exact absurd h (by decide)
  · rename_i n a ha
    split at h
    · exact absurd h (by decide)
    · rename_i i hi
      simp only [Bool.and_eq_true, decide_eq_true_eq, Option.isNone_iff_eq_none, Bool.not_eq_true'] at h
      exact ⟨_, _, ⟨h.1.1.1.1, n, _, i, .inr (.inr (.inl ⟨h.1.1.1.2, a, ha, h.1.1.2, rfl⟩)), hi, h.1.2, rfl⟩, h.2⟩

/-! ## Witnesses: steps, registers and mailboxes -/

/-- StepRunsFrontCommand and CommandsLeaveTheQueue: a command at the front, and what its step answers. -/
theorem witness_front : ({ up with pending := [.chipReset, .cmpReady] } : State).pending = .chipReset :: [.cmpReady]
    ∧ (∃ t, step { up with pending := [.chipReset, .cmpReady] } = .next t) ∧ ∃ t, exec .cmpReady up = .next t :=
  ⟨rfl, ⟨_, rfl⟩, ⟨_, rfl⟩⟩

/-- EmptyQueueLetsOneCyclePass: reset has an empty queue. -/
theorem witness_empty : State.reset.pending = [] := by decide

/-- A state without memories is sound. -/
theorem sound_blank (s : State) (h1 : s.otp.array = []) (h2 : s.otp.sense = []) (h3 : s.boot.flash = [])
    (h4 : s.pke.window = []) (h5 : s.recd.heartwood = []) (h6 : s.recd.recs = []) : Sound s :=
  ⟨by rw [h1]; rfl, fun a => by simp [otpLive, h1, memGet, Within], by rw [h2]; rfl, by rw [h3]; rfl, by rw [h4]; rfl,
   by rw [h5]; rfl, by rw [h6]; exact Nat.zero_le _⟩

/-- StepsKeepSoundness and NoStepClearsABurnedFuse: a sound state with a step. -/
theorem witness_sound : Sound up ∧ ∃ t, step up = .next t := ⟨sound_blank up rfl rfl rfl rfl rfl rfl, ⟨_, rfl⟩⟩

/-- A request of seat n with this write data. -/
def asks (n : Seat) (data : Word) : Req := { src := stampOf n, id := 1, wide := true, low := 0, data := data }

/-- Served: a request of each kind of seat. -/
theorem witness_served : Served host (asks host 0x3F) up ∧ Served 5 (asks 5 0) up ∧ Served peer (asks peer 0) up :=
  ⟨⟨rfl, rfl, rfl, rfl, rfl⟩, ⟨rfl, rfl, rfl, rfl, rfl⟩, ⟨rfl, rfl, rfl, rfl, rfl⟩⟩

/-- Write data of SEAT_CMD_HDR for an opcode. -/
def hdr (opcode : Nat) : Word := word (opcode * 2 ^ 48 + 0x0B07 * 2 ^ 32)

/-- A seat whose CTRL entries are all in this state. -/
def busySeat (st : EntryState) : State :=
  up.modSeat host (fun p => { p with entries := Vector.replicate 32 { st := st, op := .otpRead, tag := 7 } })

/-- SubmissionOutcomes: an accepted submission, a seat that does not exist, an opcode that is not implemented, a class
that is full with a result and without one. -/
theorem witness_submission :
    (seatExists up host = true ∧ opOfCode (BitVec.ofNat 16 (fld (hdr 0x0301) 48 16)) = some .otpRead
      ∧ freeEntry (up.seat host) (classOf .otpRead) = some 0)
    ∧ seatExists up 5 = false
    ∧ opOfCode (BitVec.ofNat 16 (fld (hdr 0xFFFF) 48 16)) = none
    ∧ (seatExists (busySeat .done) host = true ∧ freeEntry ((busySeat .done).seat host) .ctrl = none
      ∧ hasDone ((busySeat .done).seat host) .ctrl = true)
    ∧ (freeEntry ((busySeat .queued).seat host) .ctrl = none ∧ hasDone ((busySeat .queued).seat host) .ctrl = false) := by
  decide

/-- ReleaseFreesResult and AbortWithdrawsJob: a word that names a completed, a queued and a started entry (TAG 7, CTRL
entry 0 is word 0x7_0000_0018), and one with a wrong TAG. -/
theorem witness_named :
    ((namedJob ((busySeat .done).seat host) 0x700000018).map (·.st) = some .done)
    ∧ ((namedJob ((busySeat .queued).seat host) 0x700000018).map (·.st) = some .queued)
    ∧ ((namedJob ((busySeat (.started 3)).seat host) 0x700000018).map (·.st) = some (.started 3))
    ∧ namedJob ((busySeat .done).seat host) 0x600000018 = none
    ∧ (({ busySeat (.started 3) with jobs := [{ id := 3 }] } : State).job? 3).isSome = true := by decide

/-- SeatResetNeedsItsKey: the key and its neighbour. -/
theorem witness_seatReset : fld (asks host 0x5EA7).data 0 16 = 0x5EA7 ∧ fld (asks host 0x5EA8).data 0 16 ≠ 0x5EA7 := by decide

/-- PostStatusAndNotice: a receiver of 66 and of 67, a full mailbox, an absent, a sleeping and a ready receiver, with
and without NO_WAIT. -/
theorem witness_post :
    66 < fld (67 : Word) 0 7 ∧ ¬ 66 < fld (66 : Word) 0 7
    ∧ (({ up with mbx := vset up.mbx 127 { full := true } } : State).box 127).full = true ∧ (up.box 127).full = false
    ∧ reach up (seatNo 5) = .absent ∧ reach up (seatNo 66) = .sleeping ∧ reach up (seatNo 64) = .ready
    ∧ (66 : Word).getLsbD 8 = false ∧ (0x142 : Word).getLsbD 8 = true := by decide

/-- Mailbox m with a pending notice to seat 64. -/
def notified (m : Mbx) : State := { up with mbx := vset up.mbx m { full := true, receiver := 64, sender := 65 } }

/-- ReceiverEmptiesMailbox: the receiver at mailboxes 63 and 64, and another seat. -/
theorem witness_mailbox :
    isReceiver (notified 63) 63 host = true ∧ (63 : Mbx).val < 64 ∧ isReceiver (notified 64) 64 host = true
    ∧ 64 ≤ (64 : Mbx).val ∧ isReceiver (notified 63) 63 mgmt = false ∧ (0x8000000000000000 : Word).getLsbD 63 = true := by
  decide

/-- In Watch. -/
def watching : State := { up with core := { up.core with power := .watch } }

/-- WakeFromWatch: Watch and not Watch, WAKE written, by HOST, BMC and MGMT. -/
theorem witness_wake : inWatch up = false ∧ inWatch watching = true ∧ watching.core.ctrlReset = false
    ∧ (0x100000000 : Word).getLsbD 32 = true ∧ host ≠ mgmt ∧ ¬(mgmt = host ∨ mgmt = bmc) := by decide

/-- PlainWritesAndErrors: a 32-bit request, CTRL in reset, a stamp of no seat, a misaligned access. -/
theorem witness_plain :
    ({ asks host 1 with wide := false } : Req).wide = false ∧ State.reset.core.ctrlReset = true
    ∧ 68 ≤ (68 : BitVec 8).toNat ∧ ¬ 68 ≤ (67 : BitVec 8).toNat
    ∧ ((0x40044 : BitVec 21).toNat % 8 ≠ 0) ∧ (0x40042 : BitVec 21).toNat % 4 ≠ 0 := by decide

/-- A message of seat 64 that takes words, with so many of them waiting. -/
def feeding (k : Nat) : State :=
  (withMsg { st := .opened, seat := host, alg := 0x01, length := 100, outLen := 32 }).modSeat host
    (fun p => { p with fifo := List.replicate k { handle := 0, bytes := [] } })

/-- WordInput: no message, one with 63 words waiting and one with 64. -/
theorem witness_words : selected up host = none ∧ selected (feeding 63) host = some 0
    ∧ ((feeding 63).seat host).fifo.length < 64 ∧ selected (feeding 64) host = some 0
    ∧ 64 ≤ ((feeding 64).seat host).fifo.length := by decide

/-- GroveNoticeArms: a notice for beat 5,016 is not barred at beat 5,000, one for 5,015 is, as is any in Blank. -/
theorem witness_grove :
    (let a := noticeOfWords (vset (vset up.part.groveIn 0 5016) 7 0)
     up.part.armed.isSome = false ∧ ¬ a.beat.toNat < lbeat up + 16 ∧ up.keys.held = false ∧ up.keys.l0Done = true)
    ∧ (noticeOfWords (vset (vset up.part.groveIn 0 5015) 7 0)).beat.toNat < lbeat up + 16
    ∧ (upAs lcBlank .none).lc.state = lcBlank ∧ up.lc.state ≠ lcBlank := by decide

/-- Slot A runs a sapling of generation 3. -/
def sapling : State :=
  { up with boot := { up.boot with sapling := true, trialEnd := some 100,
                                   flash := [(0x400004, 3), (0x400005, 0), (0x400006, 0), (0x400007, 0)] } }

/-- ConfirmAndLinkDoorbell: the right confirmation and one with a wrong generation; a doorbell of port 5. -/
theorem witness_confirm :
    (ctrlUp sapling = true ∧ sapling.boot.running = some false ∧ sapling.boot.confirming = false ∧ sapling.now < 100
      ∧ fld (0x300005A91 : Word) 0 16 = 0x5A91 ∧ fld (0x300005A91 : Word) 32 32 = slotGen sapling false)
    ∧ confirmValid mgmt 0x400005A91 sapling = false
    ∧ (let s : State := { up with fw := { up.fw with linkEnable := 0x3F },
                                  boot := { up.boot with cfg := { up.boot.cfg with exchangeBase := 0x10000, installId := [1] } } }
       fld (0x50018 : Word) 16 3 = 5 ∧ fld (0x50018 : Word) 0 16 = 24 ∧ linkConfigured s 5 = true
       ∧ (s.link 5).reading = false ∧ (s.link 5).frame = none) := by decide

/-- An access frame of one entry. -/
def frameOf (count : BitVec 8) : Bytes := [0x7F#8] ++ beBytes 4 Config.ianaEnterprise.toNat ++ [0x01, 0, count] ++ List.replicate 16 0

/-- SidebandAccess: frames of Limcy's with a right and a wrong count, and the conditions of LCAUTH and bus-free. -/
theorem witness_frame : pathOpen up .pcie = true ∧ (∀ c, isFrame (frameOf c) = true) ∧ (frameOf 1).length = 8 + 16 * 1
    ∧ getLe (frameOf 1) 7 1 = 1 ∧ getLe (frameOf 1) 5 1 = 1 ∧ getLe (frameOf 17) 7 1 = 17 := by
  refine ⟨by decide, fun c => ?_, ?_, ?_, ?_, ?_⟩ <;>
    simp [isFrame, frameOf, getLe, slice, beBytes, leBytes, leNat]

/-- The same for the pins. -/
theorem witness_i3c : up.core.power ≠ .off ∧ ({ up with i3cAddressed := true, ibiWaiting := true } : State).ibiWaiting = true
    ∧ isPending ((up.modSeat bmc (fun p => { p with irqStatus := 0x40, irqEn := 0x40 })).seat bmc) = true
    ∧ isPending (up.seat bmc) = false := by decide

/-! ## Witnesses: power, start, supplies -/

/-- PowerLossAndPowerOn, ChipResetKeepsAon, ReleaseBeginsAStart: power present and absent, no request held. -/
theorem witness_power : up.pins.porAonN = true ∧ up.otp.run = none ∧ up.recd.queue = [] ∧ State.reset.pins.porAonN = false
    ∧ State.reset.held = [] ∧ up.pins.chipRstN = true ∧ State.reset.core.ctrlReset = true := by decide

/-- CTRL out of reset, before the sense and after it. -/
def starting (sensed : Bool) : State :=
  { up with otp := { sensed := sensed }, core := { up.core with startDone := false } }

/-- FuseSenseDrivesWires and StartEndsDoneOrFatal: the sense due and not due, with and without its faults, and the
start due. -/
theorem witness_start :
    (ctrlUp (starting false) = true ∧ (starting false).recd.replayDone = true ∧ (starting false).otp.sensed = false
      ∧ healthy (starting false) (Fin.ofNat 92 84) = true)
    ∧ ¬(ctrlUp up = true ∧ up.recd.replayDone = true ∧ up.otp.sensed = false)
    ∧ (ctrlUp (starting true) = true ∧ (starting true).otp.sensed = true ∧ (starting true).core.startDone = false)
    ∧ ¬(ctrlUp up = true ∧ up.otp.sensed = true ∧ up.core.startDone = false) := by decide

/-- PowerSetMovesState: each target at its turn, with the STRM supply in order and quarantined. -/
theorem witness_powerSet :
    let ok (w : Word) (s : State) (p : State → Job → Bool) : Bool := atTurn .powerSet (queue host .powerSet [w] s)
      (fun u j => isHmb j.seat && zeroFrom (j.w 0) 2 && operatorRight u j.seat && u.lc.state == lcFielded
        && u.core.toFull.isNone && p u j)
    ok 2 up (fun u j => j.f 0 0 2 == u.core.power.code) = true
    ∧ ok 3 up (fun u _ => u.core.power != .full && !u.core.strmQuar) = true
    ∧ ok 3 { up with core := { up.core with strmQuar := true } } (fun u _ => u.core.power != .full && u.core.strmQuar) = true
    ∧ ok 2 full (fun u j => u.core.power != .control && powerAdmitted u j 2) = true
    ∧ ok 1 up (fun u j => u.core.power != .watch && powerAdmitted u j 1) = true := by decide

/-- FullNeedsItsSupply, StrmFaultsQuarantine, CoreFaultStopsEngines. -/
theorem witness_supply :
    ({ up with core := { up.core with toFull := some {} } } : State).core.toFull.isSome = true ∧ ctrlUp up = true
    ∧ up.core.toFull = none ∧ up.core.strmQuar = false ∧ full.pins.pwrStrmReq = true ∧ full.pins.pwrStrmGood = true
    ∧ ctrlUp full = true ∧ up.pins.pwrStrmReq = false ∧ up.core.fatal = false ∧ up.pins.pwrCtrlReq ≠ 0 := by decide

/-- Readings at their nominal values and a temperature. -/
def reading (t : BitVec 16) : Samples := { vpp := 1800, vaon := 750, vctrl := 700, vstrm := 0, t0 := t, t1 := 0, t2 := 0, t3 := 0 }

/-- SensorSamples: ts0 at its warning level of 100 degrees is within every threshold; above its limit of 115 degrees it
is the second sample in a row. -/
theorem witness_sensor :
    (vppOk up (reading 200).vpp = true ∧ ∀ i : Fin 7, inputSampled up i = true →
      (sampled (reading 200))[i] ≤ threshold up i false ∧ (sampled (reading 200))[i] ≤ threshold up i true)
    ∧ ((3 : Fin 7) ≠ 2 ∧ threshold up 3 true < (sampled (reading 231))[(3 : Fin 7)]
      ∧ 1 ≤ ({ up with core := { up.core with overLimit := Vector.replicate 7 1 } } : State).core.overLimit[(3 : Fin 7)]) := by
  decide

/-- ComputeResetHandshake: the command at its turn and each phase. -/
theorem witness_computeReset :
    atTurn .computeReset (queue host .computeReset [0] up) (fun u j => isHmb j.seat && zeroFrom (j.w 0) 1
      && operatorRight u j.seat && u.lc.state == lcFielded && u.core.power == .control && u.recd.creset.phase == 0) = true
    ∧ (∀ p ∈ [(1 : BitVec 3), 2, 3],
        let s : State := { up with recd := { up.recd with creset := { phase := p } } }
        ctrlUp s = true ∧ s.recd.creset.phase = p ∧ s.recd.creset.ended = false ∧ engInReset s .recd = false) := by decide

/-! ## Witnesses: the beat -/

/-- A beat state that has seen an edge of count 5,000 one period ago. -/
def beating (m : BeatMode) (acq relock : Nat) : State :=
  { up with
    now := 5376000
    beat := { mode := m, epoch := 1, lbeat := 5000, prev := some { count := 5000, time := 0, valid := true }, acq := acq, relock := relock } }

/-- EdgesMoveTheBeat: an on-time matching edge in LOCKED and HOLDOVER, one that is not, the sixteenth valid one in NONE
and in LOST at, ahead of and behind the slot, and an edge without lock. -/
theorem witness_edges :
    rebaseJob (beating .locked 16 0) = none
    ∧ ((classifyEdge (beating .locked 16 0).beat 5001 true 5376000).onTime = true
      ∧ (classifyEdge (beating .locked 16 0).beat 5001 true 5376000).matching = true)
    ∧ ¬((classifyEdge (beating .locked 16 0).beat 5001 true (5376000 + 43009)).onTime = true
      ∧ (classifyEdge (beating .locked 16 0).beat 5001 true (5376000 + 43009)).matching = true)
    ∧ ((beating .holdover 16 3).beat.relock = 3 ∧ (classifyEdge (beating .holdover 16 3).beat 5001 true 5376000).onTime = true)
    ∧ ((classifyEdge (beating .none 15 0).beat 5001 true 5376000).acqValid = true ∧ (beating .none 15 0).beat.acq = 15)
    ∧ (classifyEdge (beating .none 15 0).beat 5001 false 5376000).acqValid = false
    ∧ (5001 : Word) = (classifyEdge (beating .lost 15 0).beat 5001 true 5376000).slot
    ∧ (classifyEdge { (beating .lost 15 0).beat with prev := none } 5002 true 5376000).slot.toNat < (5002 : Word).toNat
    ∧ (4999 : Word).toNat < (classifyEdge { (beating .lost 15 0).beat with prev := none } 4999 true 5376000).slot.toNat
    ∧ ({ (beating .lost 15 0).beat with backward := true } : Beat).backward = true := by decide

/-- BeatWithoutEdgesAndRebase: 63 and 64 unlocked beats, a heartbeat and a checkpoint due, a rebase at its turn and
one that waits. -/
theorem witness_noEdges :
    ({ (beating .holdover 0 0).beat with unlocked := 63 } : Beat).unlocked < 64
    ∧ 64 ≤ ({ (beating .holdover 0 0).beat with unlocked := 64 } : Beat).unlocked
    ∧ up.beat.lastHb < up.beat.lbeat.toNat / 2 ^ up.beat.hbExp
    ∧ (let s : State := { up with beat := { up.beat with lbeat := 0x1000000000 } }
       s.beat.lastCk < s.beat.lbeat.toNat / 2 ^ s.beat.ckExp ∧ s.recd.queue.length < 32)
    ∧ atTurn .beatRebase (queue host .beatRebase [4000]
        { up with beat := { up.beat with backward := true, acq := 16, lastJump := 4000 } }) (fun u j =>
          isHmb j.seat && j.w 0 == u.beat.lastJump && operatorRight u j.seat && u.lc.state == lcFielded && u.beat.backward
          && u.beat.acq == 16
          && (u.jobs.filter (fun x => x.op == .beatRebase && x.id != j.id && x.stage == .engine)).isEmpty) = true
    ∧ (let s : State := { beating .lost 16 0 with jobs := [{ op := .beatRebase }] }
       (rebaseJob s).isSome = true ∧ (classifyEdge s.beat 5001 true 5376000).acqValid = true
       ∧ (classifyEdge s.beat 5001 false 5376000).acqValid = false) := by decide

/-! ## Witnesses: fuses -/

/-- A burn of one bit of word 0x100 with so many pulses behind it. -/
def burning (pulses : Nat) (ctrlReset : Bool) : State :=
  { up with otp := { run := some { owner := .start, todo := [{ addr := 0x100, want := 1 }], pulses := pulses } },
            core := { up.core with ctrlReset := ctrlReset } }

/-- A pulse that left the bit at zero. -/
def nothingBurned : Pulse := { lo := 0, hi := 0, vpp := 1800 }

/-- PulseEnds: sound states with a pulse in progress, CTRL in reset and running, before the eighth pulse and at it. -/
theorem witness_pulse :
    Sound (burning 6 false) ∧ (ctrlUp (burning 6 true) = false ∧ ctrlUp (burning 6 false) = true)
    ∧ (let b : Burn := { owner := .start, todo := [{ addr := 0x100, want := 1 }], pulses := 6 }
       let u := pulseWord 0x100 nothingBurned { burning 6 false with now := 5 * Config.microsecond }
       (burning 6 false).otp.run = some b
       ∧ (groupMasks 0x100 b.single).getD b.group 0 &&& bitsLeft u { addr := 0x100, want := 1 } ≠ 0
       ∧ b.pulses + 1 < 8 ∧ vppOk (burning 6 false) nothingBurned.vpp = true)
    ∧ 8 ≤ 7 + 1 := ⟨sound_blank _ rfl rfl rfl rfl rfl rfl, by decide, by decide, by decide⟩

/-! ## Witnesses: cells, engines, results, the initiator -/

/-- A cell of DIG with a unit that failed so often. -/
def working (attempts : Nat) : State :=
  up.modCell 40 (fun x => { x with work := some { owner := .digJob 0, attempts := attempts } })

/-- The same with every other DIG pipeline retired, and with all of them. -/
def lastPipe (all : Bool) : State :=
  [40, 41, 42, 43].foldl (fun s (c : Cell) => if all || c != 40 then s.modCell c (fun x => { x with retired := true }) else s) (working 0)

/-- CellOutcomes: a unit before and at its fourth attempt, with another cell, none other and none left; a test due and
a re-test. -/
theorem witness_cells :
    cellRuns (working 2) 40 = true ∧ ((working 2).cells[(40 : Cell)].work.map (·.attempts)) = some 2
    ∧ ((working 3).cells[(40 : Cell)].work.map (·.attempts)) = some 3
    ∧ (let x : CellUnit := { owner := .digJob 0, attempts := 1, tried := [40] }
       placeUnit (idleCell 40 (working 0)) x = .onCell 41
       ∧ placeUnit (idleCell 40 (lastPipe false)) x = .onCell 40
       ∧ placeUnit (idleCell 40 (lastPipe true)) x = .noneLeft
       ∧ placeUnit ([40, 41, 42, 43].foldl (fun s (c : Cell) => s.modCell c (fun y => { y with work := some x })) up) x = .wait)
    ∧ ((up.modCell 40 (fun x => { x with retest := some 3 })).cells[(40 : Cell)].retest = some 3)
    ∧ (up.cells[(40 : Cell)].testDue = false ∧ up.cells[(40 : Cell)].retest = none)
    ∧ (up.modCell 40 (fun x => { x with testDue := true })).cells[(40 : Cell)].testDue = true := by decide

/-- EngineFaultsAndResets: the first and the third fault of the window, SEQ in the start, an engine in reset, and a
digest check due. -/
theorem witness_engine :
    (faultWindow up .pke).length < 3
    ∧ 3 ≤ (faultWindow { up with core := { up.core with faultBeats := Vector.replicate 9 [4000, 4500] } } .pke).length
    ∧ engOffline up .pke = false ∧ (starting true).core.startDone = false ∧ ctrlUp (starting true) = true
    ∧ engInReset { up with core := { up.core with engReset := 1 } } .pke = true
    ∧ (let s : State := { keyed with beat := { keyed.beat with lbeat := 0x1000000 } }
       s.boot.mcLoaded = true ∧ s.beat.lastDigest < lbeat s / 2 ^ 24 ∧ ctrlUp s = true) := by decide

/-- ResultsAndHeartwood: a decided job, a queued record, a chain to check. -/
theorem witness_results :
    (let s : State := { busySeat (.started 3) with jobs := [{ id := 3, stage := .ready .ok noWords }] }
     (s.seat host).entries[entryIx .ctrl 7].st = .started 3 ∧ (s.job? 3).map (·.stage) = some (.ready .ok noWords))
    ∧ up.pins.porAonN = true ∧ (up.recd.replayDone = true ∧ up.recd.chainDone = false) := by decide

/-- A read outstanding under tag 63. -/
def reading63 : State := { up with fi := { live := [{ tag := 63, len := 8 }], late := [5] } }

/-- InitiatorAnswers: an outstanding tag, one that is not, and a late one. -/
theorem witness_initiator :
    (reading63.fi.live.find? (fun t => t.tag == 63)).isSome = true ∧ reading63.fi.live.find? (fun t => t.tag == 5) = none
    ∧ reading63.fi.late.contains 5 = true ∧ ctrlUp reading63 = true := by decide

/-! ## Witnesses: streams, HBM, the sweep, the links -/

/-- A load of tag 9 whose envelope has two chunks, the first accepted at beat 5,000. -/
def streaming : Load :=
  { job := 0, plan := 0, part := 0, lane := 0, phase := .streaming, tag := 9, accepted := 1, lastBeat := 5000,
    env := List.replicate 44 0 ++ [2, 0, 0, 0], chunks := [{ index := 0, cipher := [] }] }

/-- STRM that takes its chunks, with 64 writes of the first one outstanding. -/
def loading : State :=
  { full with ing := { full.ing with loads := [streaming], hbm := [{ lane := 0, job := 0, index := 0, addr := 0, left := 1 }] },
              beat := { full.beat with lbeat := 0x101388 } }

/-- StreamsAndHbm: a tag with and without a load, a chunk it accepts and one too many, the last acknowledgement and
one before it, a chunk 2^20 beats overdue. -/
theorem witness_streams :
    strmRuns loading = true
    ∧ (loading.ing.loads.find? (fun l => l.phase == .streaming && l.tag == 9)).isSome = true
    ∧ loading.ing.loads.find? (fun l => l.phase == .streaming && l.tag == 8) = none
    ∧ streaming.accepted < envChunks streaming.env ∧ buffered loading 0 < 2
    ∧ envChunks streaming.env ≤ ({ streaming with accepted := 2 } : Load).accepted
    ∧ (hbmFront loading 0).map (·.left) = some 1
    ∧ (let u := { loading with ing := { loading.ing with hbm := hbmStep 0 loading.ing.hbm } }
       (loadOf u 0).isSome = true ∧ (chunkOf streaming 0).isSome = true)
    ∧ streaming.lastBeat.toNat + 2 ^ 20 ≤ lbeat loading := by decide

/-- SweepMoves: a beat without its credit, reads of an abandoned pass, and a pass with reads to come. -/
theorem witness_sweep :
    full.beat.lastCredit ≠ lbeat full ∧ strmRuns full = true
    ∧ ({ full with ing := { full.ing with stale := 1 } } : State).ing.stale ≠ 0
    ∧ (let s := withPlan 3 .resident { full with ing := { full.ing with pass := some { plan := 3, issued := 1 } } }
       s.ing.stale = 0 ∧ s.ing.pass = some { plan := 3, issued := 1 } ∧ s.ing.plans[(3 : PlanIx)].st = .resident) := by decide

/-- Ready to exchange keys, with the installation secret of port 0 and a port state. -/
def linked (l : Link) : State :=
  { keyed with keys := { keyed.keys with endorsed := true, slots := vset keyed.keys.slots 12 (keyOfLen 32), links := Vector.replicate 6 l } }

/-- A frame of a type with its length. -/
def linkFrame (type : Nat) : Bytes :=
  [0x4C#8, BitVec.ofNat 8 type, 0, 1] ++ leBytes 4 (frameLength type) ++ List.replicate (frameLength type - 8) 0

/-- LinkExchanges: a frame of type 4 ready to be handled, a HELLO due, an exchange 2^14 beats old, a key to install, one to
switch to, and none at its rotation with PKE out. -/
theorem witness_links :
    ((linked { frame := some (linkFrame 4) }).link 0).frame = some (linkFrame 4)
    ∧ exchangeReady (linked {}) = true ∧ frameOk 4 (linkFrame 4) = true
    ∧ helloDue (linked {}) 0 = true
    ∧ (({ initiator := true, start := 5000 - 0x4000 } : Exchange).start + 0x4000 = 5000)
    ∧ keysUp (linked {}) = true
    ∧ (hasSecret (linked {}) 0 = true ∧ pkeOut (linked {}) = false ∧ ((linked {}).link 0).rot * 2 ^ 24 ≤ lbeat (linked {}) + 0x10000)
    ∧ ((linked { next := some { beat := 5000, e := 1 } }).link 0).next = some { beat := 5000, e := 1 }
    ∧ (let s : State := { linked {} with core := { (linked {}).core with pkeOffline := true } }
       (s.link 0).next = none ∧ hasSecret s 0 = true ∧ pkeOut s = true ∧ (s.link 0).rot * 2 ^ 24 ≤ lbeat s) := by decide

/-- Frames of the four types are known by their lengths. -/
theorem witness_frames : ∀ t ∈ [1, 2, 3, 4], getLe (linkFrame t) 1 1 = t ∧ getLe (linkFrame t) 4 4 = frameLength t := by decide

/-- KeyDelivery: a message at its first and at its third attempt, in Watch and not. -/
theorem witness_delivery :
    inWatch watching = true ∧ inWatch up = false ∧ ctrlUp up = true
    ∧ ((linked { kd := [{ op := 1 }], attempts := 2 }).link 0).kd = { op := 1 } :: []
    ∧ ((linked { kd := [{ op := 1 }], attempts := 2 }).link 0).attempts < 3
    ∧ 3 ≤ ((linked { kd := [{ op := 2 }], attempts := 3 }).link 0).attempts := by decide

/-! ## Witnesses: firebreak and due events -/

/-- Unit 0 present, with a swap in progress. -/
def swapping (w : Swap) : State :=
  { up with otp := { up.otp with sense := [(0x704, (codeword 1, codeword 1))] }, part := { up.part with swap := some w } }

/-- SwapProtocol: the CRC phase before and after a rewrite, the right and a wrong CRC, the armed phase before and at
its deadline, with and without an answer, and a retry that is due. -/
theorem witness_swap :
    (unitsPresent (swapping {})).contains 0 = true ∧ allUnits (swapping {}) [] = false ∧ allUnits (swapping {}) [0] = true
    ∧ (swapping {}).part.swap = some { phase := .crc } ∧ (swapping { rewritten := true }).part.swap = some { rewritten := true }
    ∧ tableCrc (swapping {}).part.shadow + 1 ≠ tableCrc (swapping {}).part.shadow
    ∧ (let w : Swap := { phase := .armed, beat := 5032 }
       (swapping w).part.swap = some w ∧ w.answered.contains 0 = false ∧ w.swapped = [] ∧ w.beat.toNat ≤ lbeat (swapping w) + 32)
    ∧ ({ phase := .armed, beat := 5000 } : Swap).beat.toNat ≤ lbeat up ∧ up.beat.mode = .locked
    ∧ ({ up with part := { up.part with retryAt := some (5, 5000) } } : State).part.retryAt = some (5, 5000)
    ∧ ctrlUp up = true ∧ engInReset up .part = false := by
  refine ⟨by decide, by decide, by decide, by decide, by decide, ?_, by decide, by decide, by decide, by decide, by decide, by decide⟩
  generalize tableCrc (swapping {}).part.shadow = x
  bv_omega

/-- A clearing run that waits for unit 0 and another unit. -/
def clearing (us : List Unit7) (fails : Nat) : State :=
  { up with part := { up.part with runs := [{ part := 5, startMiB := 0, lenMiB := 1, number := 7, waitingOn := us, sent := true, fails := fails }],
                                   polls := [(0, 5)] },
            beat := { up.beat with lbeat := 65536 } }

/-- ScrubsAndBlockedWrites: a run with two controllers and with the last one, before and at its third failure, a poll to
answer, and a poll due. -/
theorem witness_scrub :
    (∀ us ∈ [[(0 : Unit7), 1], [0]],
      ((clearing us 2).part.runs.find? (fun r => r.sent && !r.settled && r.number == 7 && r.waitingOn.contains 0)).isSome = true)
    ∧ ([(0 : Unit7), 1].filter (· != 0) ≠ [] ∧ [(0 : Unit7)].filter (· != 0) = [])
    ∧ ((clearing [0] 1).part.runs.map (·.fails) = [1] ∧ (clearing [0] 2).part.runs.map (·.fails) = [2])
    ∧ ((clearing [0] 0).part.polls.find? (fun p => p.1 == 0)) = some (0, 5)
    ∧ (clearing [0] 0).beat.lastPoll < lbeat (clearing [0] 0) / 65536 := by decide

/-- DueEvents: each event at the beat it comes due. -/
theorem witness_due :
    (let a : GroveArmed := { beat := 5000, addr := 0, position := 0, number := 1, aggregator := 0, nonce := [] }
     ({ up with part := { up.part with armed := some a } } : State).part.armed = some a ∧ a.beat.toNat ≤ lbeat up)
    ∧ (let c : Collection := { job := 0, list := [], count := 1, inbox := 0, beat := 0, nonce := [] }
       let s : State := { up with part := { up.part with collection := some c, grovePhase := .waiting }, beat := { up.beat with lbeat := 65536 } }
       s.part.collection = some c ∧ c.beat.toNat + 65536 ≤ lbeat s ∧ s.part.grovePhase = .waiting)
    ∧ (let s : State := { up with boot := { up.boot with ctrPending := true, ctrRetryBeat := 5000 } }
       s.boot.ctrPending = true ∧ confirmOnPath s = false ∧ s.boot.ctrRetryBeat.toNat ≤ lbeat s ∧ engInReset s .seq = false)
    ∧ (authOf { up with beat := { up.beat with lbeat := 1000000 } } host).held.lapse.toNat ≤ 1000000
    ∧ (let s : State := { up with lc := { up.lc with auth := Vector.replicate 3 { roleNonce := some { value := 0, beat := 0 }, consentNonce := some { value := 0, beat := 0 } } },
                                  beat := { up.beat with lbeat := 0x1000000 } }
       isHmb host = true ∧ (authOf s host).roleNonce = some { value := 0, beat := 0 } ∧ (0 : Word).toNat + 2 ^ 24 ≤ lbeat s)
    ∧ (let s : State := { up with boot := { up.boot with pldm := some { seat := host, asked := some 0 } }, beat := { up.beat with lbeat := 0x8000000 } }
       s.boot.pldm = some { seat := host, asked := some 0 } ∧ (0 : Word).toNat + 2 ^ 27 ≤ lbeat s)
    ∧ (sapling.boot.trialEnd = some 100 ∧ sapling.boot.sapling = true ∧ inWatch sapling = false
      ∧ inWatch { sapling with core := { sapling.core with power := .watch } } = true) := by decide

/-! ## Witnesses: SPDM and PLDM -/

/-- A connection with its algorithms settled and these sessions. -/
def spdmUp (xs : List SpdmSession) : State :=
  { keyed with part := { keyed.part with spdm := Vector.replicate 2 { version := true, caps := true, algs := true }, sessions := xs } }

/-- SpdmConnection: both paths are heard, before and after the algorithms; slot 0 has its chain. -/
theorem witness_spdm :
    spdmHeard .pcie up = true ∧ spdmHeard .i3c { up with i3cAddressed := true } = true ∧ (spdmConn .pcie up).algs = false
    ∧ (spdmConn .pcie (spdmUp [])).algs = true ∧ (slotZero (spdmUp [])).isSome = true ∧ slotZero State.reset = none
    ∧ canSign (spdmUp []) = true ∧ supportedCodes.contains 0x87 = false := by
  refine ⟨by decide, by decide, by decide, by decide, rfl, rfl, by decide, by decide⟩

/-- A session, live or not. -/
def spdmSession (live : Bool) : SpdmSession := { id := 1, path := .pcie, secret := 0, live := live }

/-- SpdmMeasurementsAndSessions: the blocks of an index and none, four sessions and fewer, a key that is a point, and
sessions live and not. -/
theorem witness_sessions :
    (canSign up = false ∧ canSign (spdmUp []) = true)
    ∧ (∃ bs u, blocksOf (0x01 : BitVec 8).toNat [] (spdmUp []) = (.ok bs, u))
    ∧ (∃ u, blocksOf (0x7F : BitVec 8).toNat [] (spdmUp []) = (.error .noSuch, u))
    ∧ 4 ≤ (spdmUp [spdmSession true, spdmSession true, spdmSession true, spdmSession true]).part.sessions.length
    ∧ (spdmUp [spdmSession true, spdmSession true, spdmSession true]).part.sessions.length < 4
    ∧ pointOk p384 (0x04#8 :: padTo 96 ((encodePoint p384 (ecGen p384)).drop 1)) = true
    ∧ sessionOf (spdmUp []) .pcie 1 = none ∧ sessionOf (spdmUp [spdmSession false]) .pcie 1 = some (spdmSession false)
    ∧ sessionOf (spdmUp [spdmSession true]) .pcie 1 = some (spdmSession true) :=
  ⟨by decide, ⟨_, _, rfl⟩, ⟨_, rfl⟩, by decide, by decide, by decide, by decide, by decide, by decide⟩

/-- A PLDM session with a component and without one. -/
def updating (x : PldmSession) : State :=
  { up with boot := { up.boot with pldm := some x, stage := some { seat := host, pldm := true, component := 2, length := 64 } } }

/-- PldmDevice: a path that is heard, with a session of its own and without, a component asked for, and an unknown
code. -/
theorem witness_pldm :
    pldmHeard .pcie up = true ∧ pldmOf .pcie up = none ∧ pldmOf .pcie (updating { seat := host }) = some { seat := host }
    ∧ pldmCodes.contains 0x7F = false
    ∧ (pldmOf .pcie (updating { seat := host, comp := some 2, asked := some 0 })).map (fun x => (x.comp, x.asked)) = some (some 2, some 0)
    ∧ (pldmStage (updating { seat := host })).isSome = true
    ∧ (({ seat := host, finished := [1] } : PldmSession).finished.contains 1 = true)
    ∧ (({ seat := host, finished := [2] } : PldmSession).finished.contains 1 = false) := by decide

/-- MemoriesChangeOnlyByTheirCommands: a command outside each list, with its next state. -/
theorem witness_memories : changesFuses .cmpReady = false ∧ writesHeartwood .cmpReady = false ∧ programsFlash .cmpReady = false
    ∧ ∃ t, exec .cmpReady up = .next t := ⟨rfl, rfl, rfl, ⟨_, rfl⟩⟩

/-! ## Witnesses: each job at its turn with every check passed -/

theorem witness_otpRead : passes .otpRead (queue host .otpRead [0x100] up) (fun u j =>
      let a := j.f 0 0 12
      let reg := regionOf a
      let hmb := isHmb j.seat
      let word12 := zeroFrom (j.w 0) 12
      [(hmb, .denied), (word12, .badArgument), (reg ≠ 4 && regionState u reg != .wlockRlock && regionState u reg
       != .altered && regionState u reg != .erased && regionState u reg != .erasePartial && !readInhibit u reg,
       .locked), (healthyCount u senseCells != 0, .retired)]) = true := by decide

/-- A check of the family that fails: the seat. -/
theorem witness_otpRead_denied : fails .otpRead (queue peer .otpRead [0x100] up) .denied (fun u j =>
      let a := j.f 0 0 12
      let reg := regionOf a
      let hmb := isHmb j.seat
      let word12 := zeroFrom (j.w 0) 12
      [(hmb, .denied), (word12, .badArgument), (reg ≠ 4 && regionState u reg != .wlockRlock && regionState u reg
       != .altered && regionState u reg != .erased && regionState u reg != .erasePartial && !readInhibit u reg,
       .locked), (healthyCount u senseCells != 0, .retired)]) = true := by decide

theorem witness_otpProgram : passes .otpProgram (queue host .otpProgram [0x100, 1] (upAs lcTest .maker)) (fun u j =>
      let a := j.f 0 0 12
      let reg := regionOf a
      let hmb := isHmb j.seat
      let word12 := zeroFrom (j.w 0) 12
      [(hmb, .denied), (word12, .badArgument), (mayProgram u j.seat a (j.w 1), .denied), (lcForRegion u reg,
       .state), (reg == 1 || (regionState u reg == .opened && !writeInhibit u reg), .locked), (fitsCodeword u a
       (j.w 1), .locked)]) = true := by decide

theorem witness_otpRepair : passes .otpRepair (queue host .otpRepair [0x100] up) (fun u j =>
      let a := j.f 0 0 12
      let r := otpLive u a
      let reg := regionOf a
      let role := roleOf u j.seat
      let hmb := isHmb j.seat
      let word12 := zeroFrom (j.w 0) 12
      [(hmb, .denied), (word12, .badArgument), (role == .maker || role == .installer, .denied), (if role ==
       .maker then u.lc.state == lcTest else u.lc.state == lcIntegration || u.lc.state == lcFielded ||
       u.lc.state == lcReturned, .state), (wordClass a ≠ .d && reg ≠ 0, .denied), (!(resolve a r).2,
       .otpMarginal)]) = true := by decide

theorem witness_otpCtrAdvance : passes .otpCtrAdvance (queue host .otpCtrAdvance [16, 1] up) (fun u j =>
      let role := roleOf u j.seat
      let hmb := isHmb j.seat
      let c := j.f 0 0 5
      let t := j.f 1 0 11
      [(hmb, .denied), (zeroFrom (j.w 0) 5 && zeroFrom (j.w 1) 11 && decide (c ≤ 23), .badArgument), (decide (16
       ≤ c) && role == .installer, .denied), (u.lc.state == lcIntegration || u.lc.state == lcFielded, .state),
       (!ctrGuard u c, .state), (decide (ctrLive u c ≤ t) && decide (t ≤ ctrLive u c + 64), .badArgument)]) = true := by decide

theorem witness_lcAuthBegin : passes .lcAuthBegin (queue bmc .lcAuthBegin [1] up) (fun _ j =>
      let hmb := isHmb j.seat
      [(hmb, .denied), (zeroFrom (j.w 0) 1, .badArgument)]) = true := by decide

/-- A check of the family that fails: the seat. -/
theorem witness_lcAuthBegin_denied : fails .lcAuthBegin (queue peer .lcAuthBegin [1] up) .denied (fun _ j =>
      let hmb := isHmb j.seat
      [(hmb, .denied), (zeroFrom (j.w 0) 1, .badArgument)]) = true := by decide

theorem witness_lcAuthProve : passes .lcAuthProve (queue host .lcAuthProve [0, 14852] ({ up with lc := { up.lc with auth := #v[{ roleNonce := some { value := 1, beat := 5000 } }, {}, {}] } })) (fun u j =>
      let v := endRole j.seat 2 u
      let nonce := (authOf v j.seat).roleNonce
      [(zeroFrom (j.w 1) 32 && credLenOk (j.f 1 0 32), .badArgument), (nonceLive v nonce && dualServes v,
       .state)]) = true := by decide

theorem witness_lcTransition : passes .lcTransition (queue host .lcTransition [3, 0] ({ upAs lcIntegration .installer with lc := { (upAs lcIntegration .installer).lc with committed := some 3 } })) (fun u j =>
      let hmb := isHmb j.seat
      let role := roleOf u j.seat
      let t := j.f 0 0 3
      [(hmb, .denied), (zeroFrom (j.w 0) 3 && decide (1 ≤ t) && decide (t ≤ 5) && j.w 1 == serial u,
       .badArgument), (transitionRight u role t, .denied), (transitionFrom u t && (u.lc.committed == some
       (BitVec.ofNat 3 t) || prerequisites u t) && !lcBusy u j.id, .state), (vppOk u u.core.vpp, .otpSupply)]) = true := by decide

theorem witness_lcDebugOpen : passes .lcDebugOpen (queue host .lcDebugOpen [2] (upAs lcIntegration .installer)) (fun u j =>
      let lc := u.lc.state
      let level := j.f 0 0 2
      let consent := level == 3 && lc == lcReturned
      [(levelSeat j.seat level, .denied), (zeroFrom (j.w 0) 2 && level != 0 && zeroFrom (j.w 2) 32 && (!consent
       || credLenOk (j.f 2 0 32)), .badArgument), (debugRight u j.seat level, .denied), (debugState u j,
       .state)]) = true := by decide

theorem witness_lcDebugClose : passes .lcDebugClose (queue host .lcDebugClose [2] ({ up with lc := { up.lc with level := 2 } })) (fun u j =>
      let level := j.f 0 0 2
      [(levelSeat j.seat level, .denied), (zeroFrom (j.w 0) 2 && level != 0, .badArgument), (level != 2 ||
       operatorRight u j.seat, .denied), (if level = 1 then u.lc.prof.getLsbD (ownPart j.seat).val else level ==
       2 && u.lc.level == 2, .state)]) = true := by decide

theorem witness_lcDebugPolicy : passes .lcDebugPolicy (queue host .lcDebugPolicy [1] (upAs lcTest .maker)) (fun u j =>
      let hmb := isHmb j.seat
      let lc := u.lc.state
      let role := roleOf u j.seat
      [(hmb, .denied), (zeroFrom (j.w 0) 3, .badArgument), ((role == .maker && j.f 0 1 2 == 0) || (role ==
       .installer && j.f 0 0 1 == 0), .denied), (if role == .maker then lc == lcTest else lc == lcIntegration ||
       lc == lcFielded, .state), (vppOk u u.core.vpp, .otpSupply)]) = true := by decide

theorem witness_keysGenerate : passes .keysGenerate (queue host .keysGenerate [0x10FF01] up) (fun u j =>
      [(j.seat ≠ peer, .denied), (cuOk (j.w 0), .badArgument), (keysLc u && quotaFree u j.seat, .state)]) = true := by decide

/-- A check of the family that fails: the seat. -/
theorem witness_keysGenerate_denied : fails .keysGenerate (queue peer .keysGenerate [0x10FF01] up) .denied (fun u j =>
      [(j.seat ≠ peer, .denied), (cuOk (j.w 0), .badArgument), (keysLc u && quotaFree u j.seat, .state)]) = true := by decide

theorem witness_keysImport : passes .keysImport (queue host .keysImport [0x40FF02, 0x1000] up) (fun u j =>
      [(j.seat ≠ peer, .denied), (cuOk (j.w 0) && (cuOf (j.w 0)).cls != clsSealed, .badArgument), (keysLc u &&
       quotaFree u j.seat, .state)]) = true := by decide

theorem witness_keysExport : passes .keysExport (queue host .keysExport [32, 0x1000] ({ up with keys := { up.keys with slots := vset up.keys.slots 32 { used := true, owner := 64, cls := clsExport, usage := 0xFF, content := [1] } } })) (fun u j =>
      let i := ownSlot u j.seat (j.f 0 0 16)
      let k := u.slot (i.getD 0)
      let lc := u.lc.state
      let own : List (Bool × Status) := [(zeroFrom (j.w 0) 16 && i.isSome, .badArgument)]
      (own ++ [(k.cls == clsExport, .denied), (lc != lcScrapped, .state)])) = true := by decide

theorem witness_keysDerive : passes .keysDerive (queue host .keysDerive [32, 0x10FF02] ({ up with keys := { up.keys with slots := vset up.keys.slots 32 { used := true, owner := 64, cls := 2, usage := 0xFF, content := [1] } } })) (fun u j =>
      let i := ownSlot u j.seat (j.f 0 0 16)
      let k := u.slot (i.getD 0)
      let lc := u.lc.state
      [(zeroFrom (j.w 0) 16 && i.isSome && cuOk (j.w 1) && ctxOk j, .badArgument), (k.usage.getLsbD useKdf &&
       childOk k.cls (cuOf (j.w 1)).cls, .denied), (lc != lcScrapped && !u.keys.held && quotaFree u j.seat,
       .state)]) = true := by decide

theorem witness_keysSealDerive : passes .keysSealDerive (queue mgmt .keysSealDerive [0, 0x10FF02] up) (fun u j =>
      let lc := u.lc.state
      [(j.seat = mgmt, .denied), (zeroFrom (j.w 0) 16 && cuOk (j.w 1) && (cuOf (j.w 1)).cls != clsExport &&
       ctxOk j, .badArgument), (decide (j.f 0 0 16 ≤ u.keys.svn1.toNat), .denied), (lc != lcScrapped &&
       u.keys.rootLoaded && u.keys.l1Done && !u.keys.held && quotaFree u j.seat, .state)]) = true := by decide

theorem witness_keysInstallerDerive : passes .keysInstallerDerive (queue host .keysInstallerDerive [0, 0x10FF02] ({ up with otp := { up.otp with regions := Vector.replicate 32 .wlockRlock } })) (fun u j =>
      let lc := u.lc.state
      [(isHmb j.seat, .denied), (zeroFrom (j.w 0) 5 && cuOk (j.w 1) && (cuOf (j.w 1)).cls != clsExport && ctxOk
       j, .badArgument), (roleOf u j.seat == .installer || roleOf u j.seat == .operator, .denied), (lc !=
       lcReturned && lc != lcScrapped && regionState u (6 + j.f 0 4 1) == .wlockRlock && !u.keys.held &&
       quotaFree u j.seat, .state)]) = true := by decide

theorem witness_keysFree : passes .keysFree (queue host .keysFree [32] ({ up with keys := { up.keys with slots := vset up.keys.slots 32 { used := true, owner := 64, cls := 2, usage := 0xFF, content := [1] } } })) (fun u j =>
      let i := ownSlot u j.seat (j.f 0 0 16)
      let lc := u.lc.state
      let own : List (Bool × Status) := [(zeroFrom (j.w 0) 16 && i.isSome, .badArgument)]
      (own ++ [(lc != lcScrapped, .state)])) = true := by decide

theorem witness_keysInfo : passes .keysInfo (queue host .keysInfo [32] ({ up with keys := { up.keys with slots := vset up.keys.slots 32 { used := true, owner := 64, cls := 2, usage := 0xFF, content := [1] } } })) (fun u j =>
      let i := ownSlot u j.seat (j.f 0 0 16)
      let lc := u.lc.state
      let own : List (Bool × Status) := [(zeroFrom (j.w 0) 16 && i.isSome, .badArgument)]
      (own ++ [(lc != lcScrapped, .state)])) = true := by decide

theorem witness_keysCertRead : passes .keysCertRead (queue host .keysCertRead [0x11, 0x1000] ({ up with keys := { up.keys with certs := [(0x11, [1])] } })) (fun u j =>
      let kind := j.f 0 0 8
      let lc := u.lc.state
      [(zeroFrom (j.w 0) 8 && decide (0x11 ≤ kind) && decide (kind ≤ 0x15), .badArgument), (lc != lcScrapped &&
       u.keys.rootLoaded && (certBytes u kind).isSome, .state)]) = true := by decide

theorem witness_keysRootProvision : passes .keysRootProvision (queue host .keysRootProvision [] (upAs lcTest .maker)) (fun u j =>
      let lc := u.lc.state
      [(isHmb j.seat, .denied), (roleOf u j.seat == .maker, .denied), (lc == lcTest && !u.keys.held &&
       regionState u 4 == .opened && (List.range 128).all (fun n => otpLive u (0x200 + n) == (0, 0)), .state)]) = true := by decide

theorem witness_bootStageBegin : passes .bootStageBegin (queue host .bootStageBegin [2, 64] up) (fun u j =>
      let hmb := isHmb j.seat
      let c := j.f 0 0 3
      [(hmb, .denied), (zeroFrom (j.w 0) 3 && decide (1 ≤ c) && decide (c ≤ 4) && zeroFrom (j.w 1) 32 && decide
       (1 ≤ j.f 1 0 32) && decide (j.f 1 0 32 ≤ componentMax c), .badArgument), (componentRole u j.seat c,
       .denied), (bootLc u && stageAdmitted u c, .state)]) = true := by decide

/-- A check of the family that fails: the seat. -/
theorem witness_bootStageBegin_denied : fails .bootStageBegin (queue peer .bootStageBegin [2, 64] up) .denied (fun u j =>
      let hmb := isHmb j.seat
      let c := j.f 0 0 3
      [(hmb, .denied), (zeroFrom (j.w 0) 3 && decide (1 ≤ c) && decide (c ≤ 4) && zeroFrom (j.w 1) 32 && decide
       (1 ≤ j.f 1 0 32) && decide (j.f 1 0 32 ≤ componentMax c), .badArgument), (componentRole u j.seat c,
       .denied), (bootLc u && stageAdmitted u c, .state)]) = true := by decide

theorem witness_bootStageData : passes .bootStageData (queue host .bootStageData [0x1000, 0, 64] ({ up with boot := { up.boot with stage := some { seat := host, component := 2, length := 64 } } })) (fun u j =>
      let g := u.boot.stage.getD { seat := j.seat }
      [(sessionSeat u j.seat, .denied), (zeroFrom (j.w 1) 32 && zeroFrom (j.w 2) 21 && decide (1 ≤ j.f 2 0 21)
       && decide (j.f 2 0 21 ≤ 0x100000) && (u.boot.stage.isNone || (j.f 1 0 32 == g.bytes && decide (g.bytes +
       j.f 2 0 21 ≤ g.length))), .badArgument), (u.boot.stage.isNone || componentRole u j.seat
       g.component.toNat, .denied), (bootLc u && u.boot.stage.isSome, .state)]) = true := by decide

theorem witness_bootStageFinish : passes .bootStageFinish (queue host .bootStageFinish [] ({ upAs lcTest .maker with boot := { up.boot with stage := some { seat := host, component := 4, length := 64, bytes := 64 } } })) (fun u j =>
      let g := u.boot.stage.getD { seat := j.seat }
      [(sessionSeat u j.seat, .denied), (u.boot.stage.isNone || componentRole u j.seat g.component.toNat,
       .denied), (bootLc u && u.boot.stage.isSome && finishAdmitted u g, .state)]) = true := by decide

theorem witness_bootStageCancel : passes .bootStageCancel (queue host .bootStageCancel [] ({ up with boot := { up.boot with stage := some { seat := host, component := 2, length := 64 } } })) (fun u j =>
      [(sessionSeat u j.seat, .denied), (bootLc u && u.boot.stage.isSome, .state)]) = true := by decide

theorem witness_bootHandoverPut : passes .bootHandoverPut (queue mgmt .bootHandoverPut [0x1000, 16777216] ({ up with boot := { up.boot with flash := [(0x400000, 0xF0), (0x3400000, 0xFC)] } })) (fun u j =>
      [(j.seat = mgmt, .denied), (zeroFrom (j.w 1) 25 && decide (1 ≤ j.f 1 0 25) && decide (j.f 1 0 25 ≤
       16777216), .badArgument), (putAdmitted u, .state)]) = true := by decide

theorem witness_bootHandoverGet : passes .bootHandoverGet (queue mgmt .bootHandoverGet [0x1000, 1, 1] ({ up with boot := { up.boot with imgMeas := 0xFFFFFFFFFFFFFFFFFFFFFFFFFFFFFFFFFFFFFFFFFFFFFFFFFFFFFFFFFFFFFFFFFFFFFFFFFFFFFFFFFFFFFFFFFFFFFFFF#384, flash := [(0x6440000, 0xFC), (0x6440008, 1), (0x6440009, 0), (0x644000A, 0), (0x644000B, 0)] } })) (fun u j =>
      [(j.seat = mgmt, .denied), (zeroFrom (j.w 1) 25 && zeroFrom (j.w 2) 1, .badArgument), (getAdmitted u,
       .state), (decide (getLe (handoverHeader u) 8 4 ≤ j.f 1 0 25), .badArgument)]) = true := by decide

theorem witness_bootConfigCommit : passes .bootConfigCommit (queue host .bootConfigCommit [] up) (fun u j =>
      let hmb := isHmb j.seat
      [(hmb, .denied), (roleOf u j.seat == .installer, .denied), (countersAdvance u, .state)]) = true := by decide

theorem witness_bootSecretAccess : passes .bootSecretAccess (queue mgmt .bootSecretAccess [2, 0, 0, 0] up) (fun u j =>
      let op := j.f 0 0 2
      let off := (j.w 2).toNat
      let len := j.f 3 0 21
      [(j.seat = mgmt, .denied), (zeroFrom (j.w 0) 2 && decide (op ≤ 2) && zeroFrom (j.w 3) 21 && decide (off <
       secretSize) && (op == 2 || (decide (1 ≤ len) && decide (off + len ≤ secretSize))), .badArgument),
       (u.lc.state == lcIntegration || u.lc.state == lcFielded, .state)]) = true := by decide

theorem witness_partCreate : passes .partCreate (queue host .partCreate [0x100] up) (fun u j =>
      let n := j.part
      let hmb := isHmb j.seat
      let oper := operatorRight u j.seat
      [(hmb, .denied), (fld (j.w 0) 6 2 == 0 && zeroFrom (j.w 0) 9, .badArgument), (oper, .denied), (partPower u
       && modeAdmitted u (j.f 0 8 1 == 1) && !u.lc.hold && !makerDebug u && u.part.recs[n].st == .free &&
       !departedOf u n, .state)]) = true := by decide

/-- A check of the family that fails: the seat. -/
theorem witness_partCreate_denied : fails .partCreate (queue peer .partCreate [0x100] up) .denied (fun u j =>
      let n := j.part
      let hmb := isHmb j.seat
      let oper := operatorRight u j.seat
      [(hmb, .denied), (fld (j.w 0) 6 2 == 0 && zeroFrom (j.w 0) 9, .badArgument), (oper, .denied), (partPower u
       && modeAdmitted u (j.f 0 8 1 == 1) && !u.lc.hold && !makerDebug u && u.part.recs[n].st == .free &&
       !departedOf u n, .state)]) = true := by decide

theorem witness_partDestroy : passes .partDestroy (queue host .partDestroy [5] (withPart 5 .active up)) (fun u j =>
      let n := j.part
      let hmb := isHmb j.seat
      let oper := operatorRight u j.seat
      [(hmb, .denied), (zeroFrom (j.w 0) 6, .badArgument), (oper, .denied), (partPower u && partLc u &&
       u.part.recs[n].st == .active && u.part.session.isNone && !shadowTaken u && u.beat.mode == .locked,
       .state)]) = true := by decide

theorem witness_partShadowBegin : passes .partShadowBegin (queue host .partShadowBegin [1] up) (fun u j =>
      let hmb := isHmb j.seat
      let oper := operatorRight u j.seat
      [(hmb, .denied), (zeroFrom (j.w 0) 1, .badArgument), (oper, .denied), (partPower u && partLc u &&
       u.part.session.isNone && !shadowTaken u, .state)]) = true := by decide

theorem witness_partShadowWrite : passes .partShadowWrite (queue host .partShadowWrite [0, 0x1000, 1] ({ up with part := { up.part with session := some host } })) (fun u j =>
      let hmb := isHmb j.seat
      let oper := operatorRight u j.seat
      let owner : Bool × Status := (hmb && (u.part.session.isNone || u.part.session == some j.seat), .denied)
      let session : Bool := partPower u && partLc u && u.part.session == some j.seat && u.part.swap.isNone
      [owner, (zeroFrom (j.w 0) 12 && zeroFrom (j.w 2) 13 && decide (1 ≤ j.f 2 0 13) && decide (j.f 0 0 12 + j.f
       2 0 13 ≤ 4096) && aligned64 (j.w 1), .badArgument), (oper, .denied), (session && true, .state)]) = true := by decide

theorem witness_partShadowCancel : passes .partShadowCancel (queue host .partShadowCancel [] ({ up with part := { up.part with session := some host } })) (fun u j =>
      let hmb := isHmb j.seat
      let oper := operatorRight u j.seat
      let owner : Bool × Status := (hmb && (u.part.session.isNone || u.part.session == some j.seat), .denied)
      let session : Bool := partPower u && partLc u && u.part.session == some j.seat && u.part.swap.isNone
      [owner, (true, .badArgument), (oper, .denied), (session && true, .state)]) = true := by decide

theorem witness_partSwap : passes .partSwap (queue host .partSwap [5288] ({ up with part := { up.part with session := some host } })) (fun u j =>
      let hmb := isHmb j.seat
      let oper := operatorRight u j.seat
      let owner : Bool × Status := (hmb && (u.part.session.isNone || u.part.session == some j.seat), .denied)
      let session : Bool := partPower u && partLc u && u.part.session == some j.seat && u.part.swap.isNone
      let beat := if j.w 0 = 0 then lbeat u + 512 else (j.w 0).toNat
      [owner, (true, .badArgument), (oper, .denied), (session && (decide (lbeat u + 288 ≤ beat) && u.beat.mode
       == .locked), .state)]) = true := by decide

theorem witness_partClearRetry : passes .partClearRetry (queue host .partClearRetry [5] (withPart 5 .clearFailed up)) (fun u j =>
      let n := j.part
      let hmb := isHmb j.seat
      let oper := operatorRight u j.seat
      [(hmb, .denied), (zeroFrom (j.w 0) 6, .badArgument), (oper, .denied), (partPower u && partLc u &&
       u.part.recs[n].st == .clearFailed, .state)]) = true := by decide

theorem witness_partEvidence : passes .partEvidence (queue host .partEvidence [5, 0, 0, 0x1000, 4096] (withPart 5 .active keyed)) (fun u j =>
      let hmb := isHmb j.seat
      [(j.seat.val < 64 || hmb, .denied), (zeroFrom (j.w 0) 6 && zeroFrom (j.w 2) 7 && zeroFrom (j.w 4) 32 &&
       decide (j.f 2 0 7 ≤ 64) && (j.f 2 0 7 == 0 || aligned64 (j.w 1)) && aligned64 (j.w 3), .badArgument),
       (partPower u && evidenceOk u && partExists u (evPart j), .state)]) = true := by decide

theorem witness_partGroveCollect : passes .partGroveCollect (queue host .partGroveCollect [0x1000, 1, 0x2000, 0x3000, 4096, 0x4000] keyed) (fun u j =>
      let hmb := isHmb j.seat
      let oper := operatorRight u j.seat
      [(hmb, .denied), (zeroFrom (j.w 1) 17 && zeroFrom (j.w 4) 32 && decide (1 ≤ j.f 1 0 17) && decide (j.f 1 0
       17 ≤ 65536) && aligned64 (j.w 0) && aligned64 (j.w 2) && aligned64 (j.w 3) && aligned64 (j.w 5),
       .badArgument), (oper, .denied), (partPower u && evidenceOk u && u.part.collection.isNone && !u.jobs.any
       (fun x => x.op == .partGroveCollect && x.id != j.id && x.stage == .fetch), .state)]) = true := by decide

theorem witness_recRead : passes .recRead (queue host .recRead [0, 0x1000, 4096] up) (fun u j =>
      let hmb := isHmb j.seat
      let oper := operatorRight u j.seat
      let lc := u.lc.state
      [(hmb, .denied), (zeroFrom (j.w 0) 13 && zeroFrom (j.w 2) 13 && decide (1 ≤ j.f 2 0 13) && decide (j.f 0 0
       13 + j.f 2 0 13 ≤ 4096) && aligned64 (j.w 1), .badArgument), (oper || (isMaker u j.seat && (lc == lcBlank
       || lc == lcScrapped)), .denied)]) = true := by decide

/-- A check of the family that fails: the seat. -/
theorem witness_recRead_denied : fails .recRead (queue peer .recRead [0, 0x1000, 4096] up) .denied (fun u j =>
      let hmb := isHmb j.seat
      let oper := operatorRight u j.seat
      let lc := u.lc.state
      [(hmb, .denied), (zeroFrom (j.w 0) 13 && zeroFrom (j.w 2) 13 && decide (1 ≤ j.f 2 0 13) && decide (j.f 0 0
       13 + j.f 2 0 13 ≤ 4096) && aligned64 (j.w 1), .badArgument), (oper || (isMaker u j.seat && (lc == lcBlank
       || lc == lcScrapped)), .denied)]) = true := by decide

theorem witness_recClear : passes .recClear (queue host .recClear [0] up) (fun u j =>
      let hmb := isHmb j.seat
      let oper := operatorRight u j.seat
      let lc := u.lc.state
      [(hmb, .denied), (zeroFrom (j.w 0) 32, .badArgument), (oper, .denied), (lc != lcScrapped && (j.w 0).toNat
       == u.recd.headSeq.toNat, .state)]) = true := by decide

theorem witness_recHwRead : passes .recHwRead (queue host .recHwRead [16383, 0x1000, 1] up) (fun u j =>
      let hmb := isHmb j.seat
      [(hmb, .denied), (zeroFrom (j.w 0) 14 && zeroFrom (j.w 2) 15 && decide (1 ≤ j.f 2 0 15) && decide (j.f 0 0
       14 + j.f 2 0 15 ≤ 16384) && aligned64 (j.w 1), .badArgument), (mayReadHeartwood u j.seat, .denied)]) = true := by decide

theorem witness_recRetest : passes .recRetest (queue host .recRetest [91] ({ up with core := { up.core with power := .full }, cells := Vector.replicate 92 { retired := true } })) (fun u j =>
      let hmb := isHmb j.seat
      let oper := operatorRight u j.seat
      let lc := u.lc.state
      let cell : Cell := Fin.ofNat 92 (j.f 0 0 7)
      [(hmb, .denied), (zeroFrom (j.w 0) 7 && decide (j.f 0 0 7 < 92), .badArgument), (oper, .denied), (lc !=
       lcScrapped && u.cells[cell].retired && u.cells[cell].retest.isNone && !engOffline u (cellEngine cell) &&
       !engInReset u (cellEngine cell) && (cellEngine cell != .ing || u.core.power == .full), .state)]) = true := by decide

theorem witness_recDumpRead : passes .recDumpRead (queue host .recDumpRead [5, 0x1000, 0x2000, 0x4000000] (withPart 5 .active up)) (fun u j =>
      let n := j.part
      let hmb := isHmb j.seat
      let oper := operatorRight u j.seat
      let lc := u.lc.state
      [(hmb, .denied), (zeroFrom (j.w 0) 6 && zeroFrom (j.w 3) 27 && decide (4096 ≤ j.f 3 0 27) && decide (j.f 3
       0 27 ≤ 0x4000000) && j.f 3 0 27 % 4096 == 0 && (j.w 1).toNat % 4096 == 0 && aligned64 (j.w 2),
       .badArgument), (oper && !(partExists u n && u.part.recs[n].conf), .denied), (partPower u && lc !=
       lcScrapped && partExists u n, .state)]) = true := by decide

theorem witness_keysLinkRestart : passes .keysLinkRestart (queue host .keysLinkRestart [0x3F] up) (fun u j =>
      [(isHmb j.seat, .denied), (zeroFrom (j.w 0) 6, .badArgument), (roleOf u j.seat == .installer || roleOf u
       j.seat == .operator, .denied), (u.lc.state == lcIntegration || u.lc.state == lcFielded, .state)]) = true := by decide

/-- A check of the family that fails: the seat. -/
theorem witness_keysLinkRestart_denied : fails .keysLinkRestart (queue peer .keysLinkRestart [0x3F] up) .denied (fun u j =>
      [(isHmb j.seat, .denied), (zeroFrom (j.w 0) 6, .badArgument), (roleOf u j.seat == .installer || roleOf u
       j.seat == .operator, .denied), (u.lc.state == lcIntegration || u.lc.state == lcFielded, .state)]) = true := by decide

/-! ## Witnesses: PKE, DIG and ING -/

theorem witness_pkeSign : atPke .pkeSign (queue host .pkeSign [0x20020, 0x1000, 48, 0x2000, 96] keyed)
    (fun u j => !u.core.pkeOffline && pkeArgsOk u j && pkeRightsOk u j && pkeStateOk u j) = true := by decide

theorem witness_pkeVerify : atPke .pkeVerify (queue host .pkeVerify [0x20000, 0x1000, 241] keyed)
    (fun u j => !u.core.pkeOffline && pkeArgsOk u j && pkeRightsOk u j && pkeStateOk u j) = true := by decide

theorem witness_pkeHybridSign : atPke .pkeHybridSign (queue host .pkeHybridSign [32, 0x1000, 10, 0x2000, 4723, 33] keyed)
    (fun u j => !u.core.pkeOffline && pkeArgsOk u j && pkeRightsOk u j && pkeStateOk u j) = true := by decide

theorem witness_pkeHybridVerify : atPke .pkeHybridVerify (queue host .pkeHybridVerify [0, 0x1000, 7412] keyed)
    (fun u j => !u.core.pkeOffline && pkeArgsOk u j && pkeRightsOk u j && pkeStateOk u j) = true := by decide

theorem witness_pkeEcdh : atPke .pkeEcdh (queue host .pkeEcdh [0x20020, 0x1000, 97, 0, 0, 0x30ff02] keyed)
    (fun u j => !u.core.pkeOffline && pkeArgsOk u j && pkeRightsOk u j && pkeStateOk u j) = true := by decide

theorem witness_pkeKemEncaps : atPke .pkeKemEncaps (queue host .pkeKemEncaps [0x110000, 0x1000, 1568, 0x2000, 1568, 0x20ff02] keyed)
    (fun u j => !u.core.pkeOffline && pkeArgsOk u j && pkeRightsOk u j && pkeStateOk u j) = true := by decide

theorem witness_pkeKemDecaps : atPke .pkeKemDecaps (queue host .pkeKemDecaps [0x110022, 0x1000, 1568, 0, 0, 0x20ff02] keyed)
    (fun u j => !u.core.pkeOffline && pkeArgsOk u j && pkeRightsOk u j && pkeStateOk u j) = true := by decide

theorem witness_pkePublic : atPke .pkePublic (queue host .pkePublic [0x20020, 0, 0, 0x2000, 97] keyed)
    (fun u j => !u.core.pkeOffline && pkeArgsOk u j && pkeRightsOk u j && pkeStateOk u j) = true := by decide

theorem witness_pkeRsaSign : atPke .pkeRsaSign (queue host .pkeRsaSign [0x200021, 0x1000, 60, 0x2000, 256] keyed)
    (fun u j => !u.core.pkeOffline && pkeArgsOk u j && pkeRightsOk u j && pkeStateOk u j) = true := by decide

theorem witness_pkeRsaVerify : atPke .pkeRsaVerify (queue host .pkeRsaVerify [0x200000, 0x1000, 550] keyed)
    (fun u j => !u.core.pkeOffline && pkeArgsOk u j && pkeRightsOk u j && pkeStateOk u j) = true := by decide

theorem witness_pkeCurveLoad : atPke .pkeCurveLoad (queue host .pkeCurveLoad [0x80000, 0x1000, 169] keyed)
    (fun u j => !u.core.pkeOffline && isHmb j.seat && pkeArgsOk u j && pkeRightsOk u j && pkeStateOk u j) = true := by decide

theorem witness_pkeCurveClear : atPke .pkeCurveClear (queue host .pkeCurveClear [0x80000] ({ keyed with pke := { curves := vset keyed.pke.curves 0 { st := .loaded } } }))
    (fun u j => !u.core.pkeOffline && isHmb j.seat && pkeArgsOk u j && pkeRightsOk u j && pkeStateOk u j) = true := by decide

theorem witness_pkeOffline : atPke .pkeSign (queue host .pkeSign [0] { up with core := { up.core with pkeOffline := true } })
    (fun u _ => u.core.pkeOffline) = true := by decide

/-- A hybrid job whose ML-DSA part waits, with LT0 free, and no such job. -/
theorem witness_hybridSecondPart :
    let s : State := { keyed with jobs := [{ op := .pkeHybridSign, lt := .waiting }] }
    ctrlUp s = true ∧ engInReset s .pke = false ∧ freeBlock s true = some 4
    ∧ (s.jobs.find? (fun y => y.lt == .waiting && (freeBlock s true).isSome || y.bn == .waiting && (freeBlock s false).isSome)).isSome = true
    ∧ keyed.jobs = [] := by decide

theorem witness_digOpen : atDig .digOpen (queue host .digOpen [0x010000, 100] keyed) (fun u j =>
      !u.core.digOffline && ([(openArgsOk u j, .badArgument), (openRightsOk u j, .denied), (digStateOk u &&
       decide ((seatMsgs u j.seat).length < 4) && (j.f 0 24 2 != 2 || quotaFree u j.seat), .state)] : List (Bool
       × Status)).all (fun c => c.1)) = true := by decide

theorem witness_digRestore : atDig .digRestore (queue host .digRestore [0x1000] keyed) (fun u j =>
      !u.core.digOffline && ([((j.w 0).toNat % 1024 == 0, .badArgument), (digStateOk u && decide ((seatMsgs u
       j.seat).length < 4), .state)] : List (Bool × Status)).all (fun c => c.1)) = true := by decide

theorem witness_digAbsorb : atDig .digAbsorb (queue host .digAbsorb [0, 0x1000, 64] (withMsg { st := .opened, seat := host, alg := 0x01, length := 100, outLen := 32, bufferMode := true })) (fun u j =>
      let m := u.msg ((jobMsg u j).getD 0)
      !u.core.digOffline && ([(msgArgsOk u j, .badArgument), (msgRightsOk u j, .denied), (digStateOk u, .state),
       (msgState u m != .failed || j.op == .digAbort, msgFailStatus m), (stateAdmits m (msgState u m) j.op,
       .state), (!(j.op == .digFinal && m.dest == 2) || quotaFree u j.seat, .state)] : List (Bool × Status)).all
       (fun c => c.1)) = true := by decide

theorem witness_digSave : atDig .digSave (queue host .digSave [0] (withMsg { st := .opened, seat := host, alg := 0x01, length := 100, outLen := 32 })) (fun u j =>
      let m := u.msg ((jobMsg u j).getD 0)
      !u.core.digOffline && ([(msgArgsOk u j, .badArgument), (msgRightsOk u j, .denied), (digStateOk u, .state),
       (msgState u m != .failed || j.op == .digAbort, msgFailStatus m), (stateAdmits m (msgState u m) j.op,
       .state), (!(j.op == .digFinal && m.dest == 2) || quotaFree u j.seat, .state)] : List (Bool × Status)).all
       (fun c => c.1)) = true := by decide

theorem witness_digFinal : atDig .digFinal (queue host .digFinal [0] (withMsg { st := .opened, seat := host, alg := 0x01, length := 0, outLen := 32 })) (fun u j =>
      let m := u.msg ((jobMsg u j).getD 0)
      !u.core.digOffline && ([(msgArgsOk u j, .badArgument), (msgRightsOk u j, .denied), (digStateOk u, .state),
       (msgState u m != .failed || j.op == .digAbort, msgFailStatus m), (stateAdmits m (msgState u m) j.op,
       .state), (!(j.op == .digFinal && m.dest == 2) || quotaFree u j.seat, .state)] : List (Bool × Status)).all
       (fun c => c.1)) = true := by decide

theorem witness_digCompare : atDig .digCompare (queue host .digCompare [0, 0, 0x1000] (withMsg { st := .held, seat := host, alg := 0x01, length := 0, outLen := 32 })) (fun u j =>
      let m := u.msg ((jobMsg u j).getD 0)
      !u.core.digOffline && ([(msgArgsOk u j, .badArgument), (msgRightsOk u j, .denied), (digStateOk u, .state),
       (msgState u m != .failed || j.op == .digAbort, msgFailStatus m), (stateAdmits m (msgState u m) j.op,
       .state), (!(j.op == .digFinal && m.dest == 2) || quotaFree u j.seat, .state)] : List (Bool × Status)).all
       (fun c => c.1)) = true := by decide

theorem witness_digAbort : atDig .digAbort (queue host .digAbort [0] (withMsg { st := .failed, seat := host, alg := 0x01, length := 0, outLen := 32 })) (fun u j =>
      let m := u.msg ((jobMsg u j).getD 0)
      !u.core.digOffline && ([(msgArgsOk u j, .badArgument), (msgRightsOk u j, .denied), (digStateOk u, .state),
       (msgState u m != .failed || j.op == .digAbort, msgFailStatus m), (stateAdmits m (msgState u m) j.op,
       .state), (!(j.op == .digFinal && m.dest == 2) || quotaFree u j.seat, .state)] : List (Bool × Status)).all
       (fun c => c.1)) = true := by decide

theorem witness_digOffline : atDig .digOpen (queue host .digOpen [0] { up with core := { up.core with digOffline := true } })
    (fun u _ => u.core.digOffline) = true := by decide

/-- A yielded job of DIG at its seat's turn, and a FIFO to drain. -/
theorem witness_digAgain :
    (let s : State := { feeding 0 with jobs := [{ seat := host, cls := .dig, op := .digAbsorb }], arbs := Vector.replicate 9 { ptr := host } }
     (arbTurn s .dig (digWork s)).isSome = true ∧ (yielded s host).map (·.op) = some .digAbsorb ∧ pipeFree s = true ∧ mayStart s .dig = true)
    ∧ (let s : State := { feeding 1 with arbs := Vector.replicate 9 { ptr := host } }
       (arbTurn s .dig (digWork s)).isSome = true ∧ drainable s host = true ∧ pipeFree s = true ∧ mayStart s .dig = true) := by decide

theorem witness_ingPlan : atIng .ingPlan (queue 0 .ingPlan [5, 0x1000, 1032] ({ full with part := { full.part with recs := vset full.part.recs 0 { st := .active } } })) (fun u j =>
      ([(!u.core.strmQuar, .fault), (partOrMgmt j.seat, .denied), (zeroFrom (j.w 0) 6 && zeroFrom (j.w 2) 11 &&
       decide (24 ≤ j.f 2 0 11) && decide (j.f 2 0 11 ≤ 1032) && j.f 2 0 11 % 16 == 8, .badArgument), (true,
       .denied), (ingStateOk u && (partExists u (ingPart j) && !quarantined u (ingPart j) && (indices 256).any
       (fun i => u.ing.plans[i].st == .free)), .state)] : List (Bool × Status)).all (fun c => c.1)) = true := by decide

theorem witness_ingPlanFree : atIng .ingPlanFree (queue mgmt .ingPlanFree [255] (withPlan 255 .failed full)) (fun u j =>
      ([(!u.core.strmQuar, .fault), (partOrMgmt j.seat, .denied), (zeroFrom (j.w 0) 8 && planMine u j,
       .badArgument), (true, .denied), (ingStateOk u && (u.ing.plans[j.plan].st == .ready ||
       u.ing.plans[j.plan].st == .failed || u.ing.plans[j.plan].st == .resident), .state)] : List (Bool ×
       Status)).all (fun c => c.1)) = true := by decide

theorem witness_ingShardInfo : atIng .ingShardInfo (queue mgmt .ingShardInfo [255, 0x1000] (withPlan 255 .resident full)) (fun u j =>
      ([(!u.core.strmQuar, .fault), (j.seat.val < 64 || isHmb j.seat, .denied), (zeroFrom (j.w 0) 8 && planMine
       u j, .badArgument), (true, .denied), (ingStateOk u && (u.ing.plans[j.plan].st != .free), .state)] : List
       (Bool × Status)).all (fun c => c.1)) = true := by decide

theorem witness_ingSweepSet : atIng .ingSweepSet (queue host .ingSweepSet [64] full) (fun u j =>
      ([(!u.core.strmQuar, .fault), (isHmb j.seat, .denied), (zeroFrom (j.w 0) 7 && decide (1 ≤ j.f 0 0 7) &&
       decide (j.f 0 0 7 ≤ 64), .badArgument), (operatorRight u j.seat, .denied), (ingStateOk u && true,
       .state)] : List (Bool × Status)).all (fun c => c.1)) = true := by decide

theorem witness_ingKeyDrop : atIng .ingKeyDrop (queue mgmt .ingKeyDrop [5] (withPart 5 .active full)) (fun u j =>
      ([(!u.core.strmQuar, .fault), (partOrMgmt j.seat, .denied), (zeroFrom (j.w 0) 6, .badArgument), (true,
       .denied), (ingStateOk u && partExists u (ingPart j), .state)] : List (Bool × Status)).all (fun c => c.1)) = true := by decide

theorem witness_ingLoad : atIng .ingLoad (queue mgmt .ingLoad [255, 0x1000, 0x40] (withPlan 255 .ready (withPart 0 .active full))) (fun u j =>
      ([(!u.core.strmQuar, .fault), (partOrMgmt j.seat, .denied), (zeroFrom (j.w 0) 8 && fld (j.w 2) 0 6 == 0 &&
       planMine u j, .badArgument), (true, .denied), (ingStateOk u && ((u.ing.plans[j.plan].st == .ready ||
       u.ing.plans[j.plan].st == .failed) && partExists u u.ing.plans[j.plan].part && !quarantined u
       u.ing.plans[j.plan].part), .state)] : List (Bool × Status)).all (fun c => c.1)) = true := by decide

theorem witness_freeLane : freeLane full = some 0 := by decide

/-! ## Witnesses that need a value of an outside function -/

/-- The four words of a 256-bit digest. -/
def digestWord (d : BitVec 256) (k : Nat) : Word := BitVec.ofNat 64 (d.toNat / 2 ^ (64 * k))

/-- OTP_LOCK of region 16 in digest mode with the digest of its present content. -/
def locking : State :=
  let d := regionDigest (otpLive up) 16
  queue host .otpLock [0x110, digestWord d 0, digestWord d 1, digestWord d 2, digestWord d 3] up

theorem leBytes_succ (n x : Nat) : leBytes (n + 1) x = BitVec.ofNat 8 x :: leBytes n (x / 256) := rfl

/-- The bytes of a number in two runs. -/
theorem leBytes_add (m n x : Nat) : leBytes (m + n) x = leBytes m x ++ leBytes n (x / 256 ^ m) := by
  induction m generalizing x with
  | zero => simp [leBytes]
  | succ m ih => rw [Nat.succ_add, leBytes_succ, ih, leBytes_succ, Nat.div_div_eq_div_mul, Nat.pow_succ', List.cons_append]

/-- Only the low bytes of a number count. -/
theorem leBytes_mod (n x : Nat) : leBytes n (x % 256 ^ n) = leBytes n x := by
  induction n generalizing x with
  | zero => rfl
  | succ n ih =>
    have h : (x % 256 ^ (n + 1)) / 256 = x / 256 % 256 ^ n := by rw [Nat.pow_succ', Nat.mod_mul_right_div_self]
    rw [leBytes_succ, leBytes_succ, h, ih]
    refine congrArg (· :: _) (BitVec.eq_of_toNat_eq ?_)
    simp only [BitVec.toNat_ofNat]
    exact Nat.mod_mod_of_dvd _ (Dvd.intro_left (256 ^ n) rfl)

theorem wordBytes_digestWord (d : BitVec 256) (k : Nat) : wordBytes (digestWord d k) = leBytes 8 (d.toNat / 2 ^ (64 * k)) := by
  unfold wordBytes digestWord
  rw [BitVec.toNat_ofNat]
  exact leBytes_mod 8 _

/-- The four words of a digest spell its bytes. -/
theorem digestWords_bytes (d : BitVec 256) :
    bvBytes d = wordBytes (digestWord d 0) ++ wordBytes (digestWord d 1) ++ wordBytes (digestWord d 2) ++ wordBytes (digestWord d 3) := by
  simp only [wordBytes_digestWord]
  show leBytes (8 + 8 + 8 + 8) d.toNat = _
  rw [leBytes_add (8 + 8 + 8) 8, leBytes_add (8 + 8) 8, leBytes_add 8 8]
  norm_num

theorem witness_otpLock : ∃ j u, Turn .otpLock locking j u ∧ isHmb j.seat = true ∧ zeroFrom (j.w 0) 10 = true
    ∧ j.f 0 5 3 = 0 ∧ lockArgOk u 16 true false = true ∧ roleForRegion u j.seat 16 = true ∧ lcForRegion u 16 = true
    ∧ regionState u 16 = .opened ∧ writeInhibit u 16 = false ∧ regionMarginal (otpLive u) 16 = false
    ∧ bvBytes (regionDigest (otpLive u) (j.f 0 0 5)) = j.digestArg := by
  refine ⟨_, _, rfl, by decide, by decide, by decide, by decide, by decide, by decide, by decide, by decide, by decide, ?_⟩
  exact digestWords_bytes (regionDigest (otpLive up) 16)

/-- Slot B with a written image of generation 3 whose header is well formed and whose body is empty. -/
def writtenB : State :=
  let cells : List (Nat × Byte) :=
      [(0x3400000, 0xFC), (0x3400004, 3), (0x3400005, 0), (0x3400006, 0), (0x3400007, 0),
       (0x3440000, 0x4C), (0x3440001, 0x54), (0x3440002, 0x49), (0x3440003, 0x4D), (0x3440004, 1)]
      ++ (List.range 75).map (fun i => (0x3440005 + i, 0)) ++ [(0x3440050, 4)]
      ++ (List.range 700).map (fun i => (0x3441D44 + i, 0))
  { keyed with boot := { keyed.boot with flash := cells } }

/-- BOOT_ACTIVATE of slot B with every check passed; whether the image is signed is the standard's function. -/
theorem witness_bootActivate : passes .bootActivate (queue host .bootActivate [1, 3] writtenB) (fun u j =>
      let b := j.f 0 0 1 == 1
      let h := slotHeader u b
      [(isHmb j.seat, .denied), (zeroFrom (j.w 0) 1 && zeroFrom (j.w 1) 32, .badArgument), (operatorRight u j.seat, .denied),
       (activateAdmitted u b (j.f 1 0 32), .state), (headerOk h && svnAdmitted u h && bodyFits u h, .badArgument)]) = true := by
  decide

/-- OtpCommands: a sense group has read the word of an OTP_READ at the high margin. -/
theorem witness_otpReadDone :
    let j : Job := { seat := host, op := .otpRead, num := 1 }
    let w : CellUnit := { owner := .otpRead 0 }
    let u : State := { up with jobs := [j], cells := vset up.cells 84 { work := some w } }
    otpFree up = true ∧ cellRuns u 84 = true ∧ u.cells[(84 : Cell)].work = some w ∧ u.job? j.id = some j ∧ j.num ≠ 0 := by decide

end Sys2Proof.Tests
end

section
/-! Register accesses (R12, R67, R69, R425): the row of the access port each command is, the equations of the reads
and writes they reach, and the three statements of the access rules of chapter 0. -/

namespace Sys2Proof.Machine

/-! ## The access a command is -/

section Rows

variable (n : Seat) (k : Part) (rq : Req) (a : Access) (s : State)

theorem exec_seatCmdHdr : exec (.seatCmdHdr n rq) s = .next (serve (reqAccess true (pageAddr n 0x040) rq) s) := rfl
theorem exec_seatRelease : exec (.seatRelease n rq) s = .next (serve (reqAccess true (pageAddr n 0x030) rq) s) := rfl
theorem exec_seatAbort : exec (.seatAbort n rq) s = .next (serve (reqAccess true (pageAddr n 0x038) rq) s) := rfl
theorem exec_seatReset : exec (.seatReset n rq) s = .next (serve (reqAccess true (pageAddr n 0x028) rq) s) := rfl
theorem exec_seatFaultClear :
    exec (.seatFaultClear n rq) s = .next (serve (reqAccess true (pageAddr n 0x010) rq) s) := rfl
theorem exec_seatIrqStatusClear :
    exec (.seatIrqStatusClear n rq) s = .next (serve (reqAccess true (pageAddr n 0x018) rq) s) := rfl
theorem exec_seatIrqEnWrite :
    exec (.seatIrqEnWrite n rq) s = .next (serve (reqAccess true (pageAddr n 0x020) rq) s) := rfl
theorem exec_coreIrqStatusClear : exec (.coreIrqStatusClear rq) s = .next (serve (reqAccess true 0x10 rq) s) := rfl
theorem exec_coreIrqEnWrite : exec (.coreIrqEnWrite rq) s = .next (serve (reqAccess true 0x18 rq) s) := rfl
theorem exec_registerWrite : exec (.registerWrite a) s = .next (serve a s) := rfl
theorem exec_accessErrorResponse : exec (.accessErrorResponse a) s = .next (serve a s) := rfl
theorem exec_beatNowRead : exec (.beatNowRead rq) s = .next (serve (reqAccess false 0x1008 rq) s) := rfl
theorem exec_beatEventsRead : exec (.beatEventsRead rq) s = .next (serve (reqAccess false 0x1030 rq) s) := rfl
theorem exec_pkeCountsRead : exec (.pkeCountsRead rq) s = .next (serve (reqAccess false 0x8018 rq) s) := rfl
theorem exec_digCountsRead : exec (.digCountsRead rq) s = .next (serve (reqAccess false 0xC108 rq) s) := rfl
theorem exec_ingDropRead : exec (.ingDropRead rq) s = .next (serve (reqAccess false 0xE018 rq) s) := rfl
theorem exec_partBlockedRead :
    exec (.partBlockedRead k rq) s = .next (serve (reqAccess false (0x10300 + 8 * k.val) rq) s) := rfl
theorem exec_seatMbxEmptiedRead_lower :
    exec (.seatMbxEmptiedRead n false rq) s = .next (serve (reqAccess false (pageAddr n 0x070) rq) s) := rfl
theorem exec_seatMbxEmptiedRead_upper :
    exec (.seatMbxEmptiedRead n true rq) s = .next (serve (reqAccess false (pageAddr n 0x078) rq) s) := rfl

end Rows

/-! ## Writes -/

section Writes

variable (n : Seat) (data : Word) (s : State)

theorem writeSeat_seatId : writeSeat n 0x000 data s = s := by simp [writeSeat]

theorem writeSeat_seatFault : writeSeat n 0x010 data s =
    s.modSeat n (fun p => { p with fault := p.fault &&& ~~~(data.truncate 6) }) := by simp only [writeSeat, clearFault]

theorem writeSeat_seatIrqStatus : writeSeat n 0x018 data s =
    modSeatIrq n (fun p => { p with irqStatus := p.irqStatus &&& ~~~(data.truncate 7) }) s := by
  simp only [writeSeat, clearSeatIrq]

theorem writeSeat_seatIrqEn : writeSeat n 0x020 data s = modSeatIrq n (fun p => { p with irqEn := data.truncate 7 }) s := by
  simp only [writeSeat, enableSeatIrq]

theorem writeSeat_seatPostPtr : writeSeat n 0x050 data s = s.modSeat n (fun p => { p with postPtr := data }) := by
  simp only [writeSeat]

/-- The seven argument registers. -/
theorem writeSeat_seatArg (k : Fin 7) :
    writeSeat n (0x080 + 8 * k.val) data s = s.modSeat n (fun p => { p with args := vset p.args k data }) := by
  fin_cases k <;> rfl

/-- CORE_IRQ_STATUS: a seat without a bank writes nothing (R426). -/
theorem writeWide_coreIrqStatus : writeWide n 0x10 data s =
    if isHmb n then modSeatIrq n (fun p => { p with coreIrq := p.coreIrq &&& ~~~(data.truncate 19) }) s else s := by
  simp [writeWide, pageOf, writeBlock, clearCoreIrq]

/-- CORE_IRQ_EN: a seat without a bank writes nothing (R426). -/
theorem writeWide_coreIrqEn : writeWide n 0x18 data s =
    if isHmb n then modSeatIrq n (fun p => { p with coreIrqEn := data.truncate 19 }) s else s := by
  simp [writeWide, pageOf, writeBlock, enableCoreIrq]

end Writes

/-- Settles O9: each command is a served write of one register, whose effect the register's equation states. -/
theorem interruptRegisterWrites : Obligations.InterruptRegisterWrites := by
  intro n rq s h
  refine ⟨?_, ?_, ?_, ?_, ?_⟩
  · rw [exec_seatFaultClear, serve_page h _ (by decide) (by decide), writeSeat_seatFault]
  · rw [exec_seatIrqStatusClear, serve_page h _ (by decide) (by decide), writeSeat_seatIrqStatus]
  · rw [exec_seatIrqEnWrite, serve_page h _ (by decide) (by decide), writeSeat_seatIrqEn]
  · rw [exec_coreIrqStatusClear, serve_wr h _ (by decide) (by decide) (.inl rfl), writeWide_coreIrqStatus]
  · rw [exec_coreIrqEnWrite, serve_wr h _ (by decide) (by decide) (.inl rfl), writeWide_coreIrqEn]

/-! ## Reads that clear or capture -/

section Reads

variable (n : Seat) (s : State)

/-- Below 0x04_0000 lies no seat's page. -/
theorem pageOf_low {addr : Nat} (h : addr < 0x40000) : pageOf addr = none := if_neg (by omega)

/-- A served read of a register below the seat pages, but BEAT_NOW, which alone captures a stamp. -/
theorem serve_rd_low {n : Seat} {rq : Req} {s : State} (h : Served n rq s) (a : Nat) (ha : a < 0x40000) (ha8 : a % 8 = 0)
    (hc : a ≠ 0x1008) : serve (reqAccess false a rq) s = answered rq (readWord n a s) (readEffect n a s) := by
  rw [serve_rd h a (by omega) ha8 (.inl (pageOf_low ha)), captureEffect, if_neg hc]

theorem readWord_captureEffect_beatNow : readWord n 0x1008 (captureEffect n 0x1008 s) = s.beat.lbeat := by
  simp [readWord, pageOf, readBeat, captureEffect, captureNow]

theorem readEffect_captureEffect_beatNow : readEffect n 0x1008 (captureEffect n 0x1008 s) =
    s.modSeat n (fun p => { p with nowInfo := beatInfo s }) := by
  simp [readEffect, pageOf, blockedOf, captureEffect, captureNow]

theorem readWord_beatEvents : readWord n 0x1030 s = beatEvents s.beat := by simp [readWord, pageOf, readBeat]
theorem readEffect_beatEvents : readEffect n 0x1030 s = clearBeatEvents s := by simp [readEffect, pageOf]

theorem readWord_pkeCounts : readWord n 0x8018 s = pkeCounts s.pke := by simp [readWord, pageOf, readPke]
theorem readEffect_pkeCounts : readEffect n 0x8018 s = clearPkeCounts s := by simp [readEffect, pageOf]

theorem readWord_digCounts : readWord n 0xC108 s = digCounts s.dig := by simp [readWord, pageOf, readDig]
theorem readEffect_digCounts : readEffect n 0xC108 s = clearDigCounts s := by simp [readEffect, pageOf]

theorem readWord_ingDrop : readWord n 0xE018 s = if isHmb n then ingDrop s.ing else 0 := by
  simp [readWord, pageOf, readIng]
theorem readEffect_ingDrop : readEffect n 0xE018 s = if isHmb n then clearIngDrop s else s := by
  simp [readEffect, pageOf]

theorem blockedOf_partBlocked (k : Part) : blockedOf (0x10300 + 8 * k.val) = some k := by
  have hk := k.isLt
  have hi : (0x10300 + 8 * k.val - 0x10300) / 8 = k.val := by omega
  rw [blockedOf, if_pos (by omega), hi]
  exact congrArg some (Fin.ext (Nat.mod_eq_of_lt hk))

/-- The words of the PART block from offset 0x300 on are PART_BLOCKED0 to 63. -/
theorem readPart_partBlocked (k : Part) : readPart n (0x300 + 8 * k.val) s =
    if isHmb n || n.val == k.val then (s.part.blocked[k]).zeroExtend 64 else 0 := by
  have hk := k.isLt
  have hi : (0x300 + 8 * k.val - 0x300) / 8 = k.val := by omega
  unfold readPart
  dsimp only
  split
  case h_8 => rw [if_neg (by omega), if_pos (by omega)]; simp only [hi, Fin.ofNat_val_eq_self]
  all_goals omega

/-- PART_BLOCKEDn reads zero but to seats 64 to 66 and to partition n's own seat. -/
theorem readWord_partBlocked (k : Part) : readWord n (0x10300 + 8 * k.val) s =
    if isHmb n || n.val == k.val then (s.part.blocked[k]).zeroExtend 64 else 0 := by
  have hk := k.isLt
  have hblk : (0x10300 + 8 * k.val) / 0x1000 = 0x10 := by omega
  have hoff : (0x10300 + 8 * k.val) % 0x1000 = 0x300 + 8 * k.val := by omega
  have hcore : ¬ 0x10300 + 8 * k.val < 0x10 := by omega
  simp only [readWord, pageOf_low (show 0x10300 + 8 * k.val < 0x40000 by omega), hblk, hoff, if_neg hcore,
    readPart_partBlocked]

/-- A seat that reads zero clears nothing. -/
theorem readEffect_partBlocked (k : Part) : readEffect n (0x10300 + 8 * k.val) s =
    if isHmb n || n.val == k.val then clearBlocked k s else s := by
  unfold readEffect
  rw [pageOf_low (by omega)]
  dsimp only
  split
  case h_5 => rw [blockedOf_partBlocked]
  all_goals omega

theorem readSeat_mbxEmptied_lower : readSeat n 0x070 s = (s.seat n).emptied0 := by simp only [readSeat]
theorem readSeat_mbxEmptied_upper : readSeat n 0x078 s = (s.seat n).emptied1 := by simp only [readSeat]

theorem clearEmptied_lower : clearEmptied n false s = s.modSeat n (fun p => { p with emptied0 := 0 }) := rfl
theorem clearEmptied_upper : clearEmptied n true s = s.modSeat n (fun p => { p with emptied1 := 0 }) := rfl

end Reads

/-- Settles O14: each command is a served read, whose value and effect the register's two equations state. -/
theorem clearingReads : Obligations.ClearingReads := by
  intro n rq s h
  refine ⟨?_, ?_, ?_, ?_, ?_, fun k => ?_, ?_, ?_⟩
  · rw [exec_beatNowRead, serve_rd h _ (by decide) (by decide) (.inl rfl), readWord_captureEffect_beatNow,
      readEffect_captureEffect_beatNow]
  · rw [exec_beatEventsRead, serve_rd_low h _ (by decide) (by decide) (by decide), readWord_beatEvents,
      readEffect_beatEvents, clearBeatEvents]
  · rw [exec_pkeCountsRead, serve_rd_low h _ (by decide) (by decide) (by decide), readWord_pkeCounts,
      readEffect_pkeCounts, clearPkeCounts]
  · rw [exec_digCountsRead, serve_rd_low h _ (by decide) (by decide) (by decide), readWord_digCounts,
      readEffect_digCounts, clearDigCounts]
  · rw [exec_ingDropRead, serve_rd_low h _ (by decide) (by decide) (by decide), readWord_ingDrop,
      readEffect_ingDrop, clearIngDrop]
    split <;> rfl
  · have hk := k.isLt
    rw [exec_partBlockedRead, serve_rd_low h _ (by omega) (by omega) (by omega), readWord_partBlocked,
      readEffect_partBlocked, clearBlocked]
    split <;> rfl
  · rw [exec_seatMbxEmptiedRead_lower, serve_page_rd h _ (by decide) (by decide), if_pos rfl, readSeat_mbxEmptied_lower,
      clearEmptied_lower]
  · rw [exec_seatMbxEmptiedRead_upper, serve_page_rd h _ (by decide) (by decide), if_neg (by decide), if_pos rfl,
      readSeat_mbxEmptied_upper, clearEmptied_upper]

/-! ## Accesses that are not a plain write: 32 bits wide, held in reset, or answered with an error -/

/-- A request made while CTRL is in reset waits (R67). -/
theorem serve_inReset (a : Access) (s : State) (h : s.core.ctrlReset = true) : serve a s = { s with held := s.held ++ [a] } :=
  if_pos (by rw [waits, h, Bool.true_or])

/-- Out of reset and out of Watch a request is answered at once. -/
theorem serve_awake (a : Access) (s : State) (up : s.core.ctrlReset = false) (awake : inWatch s = false) :
    serve a s = answer a s := by
  simp [serve, waits, up, awake]

/-- The 32-bit writes that do something, of DIG_WORD and DIG_LAST_WORD, lie in no seat's page (R312, R425). -/
theorem writeNarrow_pageAddr (n : Seat) (off : Nat) (s : State) : writeNarrow n (pageAddr n off) s = s :=
  if_neg (by unfold pageAddr; omega)

/-- A seat's own page is no foreign one. -/
theorem noteForeign_own (n : Seat) (off : Nat) (s : State) (h : off < 0x1000) : noteForeign n (pageAddr n off) s = s := by
  simp [noteForeign, pageOf_own n off h]

/-- A 32-bit write in the seat's own page is answered and does nothing (R425). -/
theorem serve_narrow {n : Seat} {rq : Req} {s : State} (up : s.core.ctrlReset = false) (awake : inWatch s = false)
    (src : rq.src = stampOf n) (narrow : rq.wide = false) (low : rq.low = 0) (off : Nat) (ho : off < 0x1000)
    (h4 : off % 4 = 0) : serve (reqAccess true (pageAddr n off) rq) s = answered rq 0 s := by
  have hn := n.isLt
  have hlt : pageAddr n off < 0x100000 := by unfold pageAddr; omega
  have hmod : pageAddr n off % 4 = 0 := by unfold pageAddr; omega
  have haddr : pageAddr n off % 2097152 = pageAddr n off := Nat.mod_eq_of_lt (by omega)
  rw [serve_awake _ _ up awake]
  simp [answer, perform, reqAccess, Access.xfer, Xfer.aligned, src, narrow, low, stamp_seat, haddr, hmod, awake,
    Nat.not_le.mpr hlt, writeAccess, noteForeign_own n off s ho, writeNarrow_pageAddr, respond, answered]

/-- No seat has a stamp above 67 (Table 2-6). -/
theorem seatOfStamp_none {src : BitVec 8} (h : 68 ≤ src.toNat) : seatOfStamp src = none := dif_neg (by omega)

/-- An access by no seat, or misaligned, gets an error response (R69). -/
theorem perform_error (src : BitVec 8) (x : Xfer) (s : State) (h : 68 ≤ src.toNat ∨ x.aligned = false) :
    perform src x s = errorAnswer src x.addr s := by
  rcases h with h | h
  · simp [perform, seatOfStamp_none h]
  · unfold perform
    split <;> simp [h]

/-- Settles O18: the plain writes by the equations of their registers, the 32-bit ones by serve_narrow, the held one by
serve_inReset, and the error response by perform_error. -/
theorem plainWritesAndErrors : Obligations.PlainWritesAndErrors := by
  refine ⟨fun n rq s h => ⟨fun k => ?_, ?_, ?_⟩, fun n rq s up awake src narrow low => ?_, fun a s h => ?_,
    fun a s up awake bad => ?_⟩
  · have hk := k.isLt
    rw [exec_registerWrite, serve_page h _ (by omega) (by omega), writeSeat_seatArg]
  · rw [exec_registerWrite, serve_page h _ (by decide) (by decide), writeSeat_seatPostPtr]
  · rw [exec_registerWrite, serve_page h _ (by decide) (by decide), writeSeat_seatId]
  · have ignored (off : Nat) (ho : off < 0x1000) (h4 : off % 4 = 0) := serve_narrow up awake src narrow low off ho h4
    rw [exec_seatCmdHdr, exec_seatRelease, exec_seatAbort, exec_seatReset, ignored _ (by decide) (by decide),
      ignored _ (by decide) (by decide), ignored _ (by decide) (by decide), ignored _ (by decide) (by decide)]
    exact ⟨rfl, rfl, rfl, rfl⟩
  · rw [exec_registerWrite, serve_inReset a s h]
  · have hbad : 68 ≤ a.src.toNat ∨ (Access.xfer a).aligned = false :=  bad.imp_right beq_eq_false_iff_ne.mpr
    rw [exec_accessErrorResponse, serve_awake a s up awake, answer, perform_error _ _ _ hbad]
    simp [respond, errorAnswer, Access.xfer]

end Sys2Proof.Machine
end

section
/-! Power and power states (R38, R48, R61, R139, R183, R399): what the loss of AON power and power-on leave, and what
POWER_SET does once its checks pass. -/

namespace Sys2Proof.Machine

/-! ## Loss of AON power -/

theorem exec_porAonAssert (s : State) :
    exec .porAonAssert s = .next (if s.pins.porAonN then powerLost (tearRecord (cutPulse s)) else s) := rfl

/-- With no pulse in progress no fuse bit is cut. -/
theorem cutPulse_idle {s : State} (h : s.otp.run = none) : cutPulse s = s := by simp [cutPulse, h]

/-- With no record to write none is torn. -/
theorem tearRecord_idle {s : State} (h : s.recd.queue = []) : tearRecord s = s := by simp [tearRecord, h]

/-! ## Power-on -/

/-- AON leaves reset: the beat is NONE in epoch 0, the core is anew and CTRL in reset (R61, R139). -/
def aonReleased (s : State) : State :=
  { s with pins := { s.pins with porAonN := true }, beat := {}, core := { power := .control, ctrlReset := true } }

/-- A repaired torn record is noted (R418). -/
def noteTorn (s : State) : State := if s.recd.tornRepaired then hwCondition 1 s else s

/-- Power-on: AON is released, the heartwood scanned, and CTRL leaves reset if chip_rst_n is high (R61, R399). -/
def poweredOn (s : State) : State :=
  let t := noteTorn (hwPowerOn (aonReleased s))
  if mayLeave t then leaveReset t else t

theorem exec_porAonRise (s : State) : exec .porAonRise s = .next (if s.pins.porAonN then s else poweredOn s) := by
  have h : exec .porAonRise s = execPorAonRise s := rfl
  rw [h, execPorAonRise, poweredOn, noteTorn, aonReleased]

/-- From s to t only the map and the recorder changed. -/
def Scan (s t : State) : Prop := ∃ cells r, t = { s with cells := cells, recd := r }

theorem Scan.refl (s : State) : Scan s s := ⟨s.cells, s.recd, rfl⟩

theorem Scan.trans {s t u : State} (h : Scan s t) (g : Scan t u) : Scan s u := by
  obtain ⟨_, _, rfl⟩ := h
  obtain ⟨cells, r, rfl⟩ := g
  exact ⟨cells, r, rfl⟩

theorem recd_scan (r : Recorder) (s : State) : Scan s { s with recd := r } := ⟨s.cells, r, rfl⟩

theorem modCell_scan (c : Cell) (f : CellState → CellState) (s : State) : Scan s (s.modCell c f) := ⟨_, s.recd, rfl⟩

theorem repairFound_scan (o : Option Nat) (s : State) : Scan s (repairFound o s) := by
  cases o with
  | none => exact .refl s
  | some ix => exact ⟨_, _, rfl⟩

theorem replayMap_scan (s : State) : Scan s (replayMap s) := by
  refine fold_keep (fun t => Scan s t) _ (fun t e ht => ht.trans ?_) _ s (.refl s)
  dsimp only
  split
  · exact modCell_scan _ _ t
  · split
    · exact modCell_scan _ _ t
    · exact .refl t

/-- The scan and the replay after por_aon_n touch the map and the recorder alone (R399). -/
theorem hwPowerOn_scan (s : State) : Scan s (hwPowerOn s) :=
  .trans (recd_scan _ s) (.trans (repairFound_scan _ _) (.trans (repairFound_scan _ _)
    (.trans (recd_scan _ _) (.trans (replayMap_scan _) (recd_scan _ _)))))

theorem hwPowerOn_replayDone (s : State) : (hwPowerOn s).recd.replayDone = true := rfl

/-- While CTRL is in reset the note waits for the start. -/
theorem noteTorn_inReset {s : State} (h : s.core.ctrlReset = true) :
    ∃ events, noteTorn s = { s with core := { s.core with watchEvents := events } } := by
  unfold noteTorn
  split
  · exact ⟨_, if_pos h⟩
  · exact ⟨s.core.watchEvents, rfl⟩

/-- What AON's release and the scan of the heartwood leave: map, recorder and noted events are theirs, the rest is as
aonReleased says. -/
def scanned (cells : Vector CellState 92) (r : Recorder) (events : List WatchEvent) (s : State) : State :=
  { aonReleased s with cells := cells, recd := r, core := { (aonReleased s).core with watchEvents := events } }

theorem noteTorn_hwPowerOn (s : State) : ∃ cells r events, r.replayDone = true
    ∧ noteTorn (hwPowerOn (aonReleased s)) = scanned cells r events s := by
  obtain ⟨cells, r, hscan⟩ := hwPowerOn_scan (aonReleased s)
  obtain ⟨events, hnote⟩ := noteTorn_inReset (s := hwPowerOn (aonReleased s)) (by rw [hscan]; rfl)
  refine ⟨cells, r, events, ?_, ?_⟩
  · rw [← hwPowerOn_replayDone (aonReleased s), hscan]
  · rw [hnote, hscan]; rfl

/-- CTRL leaves reset with no request held (R67, R97, R415). -/
theorem leaveReset_noneHeld {s : State} (h : s.held = []) : leaveReset s =
    { s with held := [], core := { s.core with ctrlReset := false },
             recd := { s.recd with start := s.recd.start + 1 }, pins := { s.pins with flashReset := false } } := by
  unfold leaveReset serveHeld
  dsimp only
  rw [h, List.foldl_nil]

/-- Settles O23: with nothing in progress a loss of power only drops what is lost; power-on is the release of AON and
the scan of the heartwood, after which CTRL leaves reset exactly if chip_rst_n is high. -/
theorem powerLossAndPowerOn : Obligations.PowerLossAndPowerOn := by
  refine ⟨fun s => ⟨fun hon hrun hqueue => ?_, fun hoff => ?_⟩, fun s hoff => ?_⟩
  · rw [exec_porAonAssert, if_pos hon, cutPulse_idle hrun, tearRecord_idle hqueue]
    rfl
  · rw [exec_porAonAssert, if_neg (by rw [hoff]; decide)]
  · obtain ⟨cells, r, events, hdone, hscan⟩ := noteTorn_hwPowerOn s
    have hleave : mayLeave (scanned cells r events s) = s.pins.chipRstN := rfl
    rw [exec_porAonRise, if_neg (by rw [hoff]; decide), poweredOn, hscan]
    refine ⟨_, rfl, fun hheld => ?_⟩
    dsimp only
    rw [hleave]
    cases hrst : s.pins.chipRstN with
    | false => exact ⟨rfl, hdone, rfl, rfl, rfl, by simp [scanned, aonReleased, hrst], rfl, rfl, rfl, rfl, rfl, rfl, rfl, rfl⟩
    | true =>
      have hnone : (scanned cells r events s).held = [] := hheld.resolve_left (by rw [hrst]; decide)
      rw [if_pos rfl, leaveReset_noneHeld hnone]
      exact ⟨rfl, hdone, rfl, rfl, rfl, by simp [scanned, aonReleased, hrst], rfl, rfl, rfl, rfl, rfl, rfl, rfl, rfl⟩

/-! ## POWER_SET (Table 1-10, R439) -/

/-- A POWER_SET at its turn starts. -/
theorem exec_powerSet {s u : State} {j : Job} (h : Turn .powerSet s j u) :
    exec .powerSet s = .next (startPowerSet j u) := congrArg Host.Outcome.next (turn_run h startPowerSet)

/-- The checks of POWER_SET before its target is judged. -/
def powerSetChecks (s : State) (j : Job) : List (Bool × Status) :=
  [(isHmb j.seat, .denied),
   (zeroFrom (j.w 0) 2 && j.f 0 0 2 != 0, .badArgument),
   (operatorRight s j.seat, .denied),
   (s.lc.state == lcIntegration || s.lc.state == lcFielded || s.lc.state == lcReturned, .state),
   (s.core.toFull.isNone, .state)]

/-- What POWER_SET does once those checks pass: the present state is answered, a target its row of Table 1-10 does not
admit is refused, and each other target has its effect. -/
def powerSetEffect (j : Job) (s : State) : State :=
  if j.f 0 0 2 = s.core.power.code then decideJob j .ok noWords s
  else if !powerAdmitted s j (j.f 0 0 2) then refuseJob j .state s
  else if j.f 0 0 2 = 3 then beginFull (some j.id) s
  else if j.f 0 0 2 = 2 then decideJob j .ok noWords (leaveFull s)
  else enterWatch j s

theorem startPowerSet_checked {s : State} {j : Job} (h : Passes (powerSetChecks s j)) :
    startPowerSet j s = powerSetEffect j s := by
  have hff : firstFail (powerSetChecks s j) = none := ff_none h
  unfold powerSetChecks at hff
  unfold startPowerSet powerSetEffect
  dsimp only
  rw [hff]
  dsimp only
  split
  · rfl
  · split
    · rfl
    · split
      · next ht => rw [if_pos ht]
      · next ht => rw [if_neg (by omega), if_pos ht]
      · next hfull hcontrol => rw [if_neg hfull, if_neg hcontrol]

/-- The codes of Table 1-12 tell the power states apart. -/
theorem Power.code_inj {p q : Power} : p.code = q.code ↔ p = q := by cases p <;> cases q <;> decide

section

variable {s : State} {j : Job}

theorem powerSetEffect_present (h : j.f 0 0 2 = s.core.power.code) : powerSetEffect j s = decideJob j .ok noWords s :=
  if_pos h

theorem powerSetEffect_full (ht : j.f 0 0 2 = 3) (hp : s.core.power ≠ .full) (ha : powerAdmitted s j 3 = true) :
    powerSetEffect j s = beginFull (some j.id) s := by
  have hne : 3 ≠ s.core.power.code := fun h => hp (Power.code_inj.mp h.symm)
  simp [powerSetEffect, ht, hne, ha]

theorem powerSetEffect_control (ht : j.f 0 0 2 = 2) (hp : s.core.power ≠ .control) (ha : powerAdmitted s j 2 = true) :
    powerSetEffect j s = decideJob j .ok noWords (leaveFull s) := by
  have hne : 2 ≠ s.core.power.code := fun h => hp (Power.code_inj.mp h.symm)
  simp [powerSetEffect, ht, hne, ha]

theorem powerSetEffect_watch (ht : j.f 0 0 2 = 1) (hp : s.core.power ≠ .watch) (ha : powerAdmitted s j 1 = true) :
    powerSetEffect j s = enterWatch j s := by
  have hne : 1 ≠ s.core.power.code := fun h => hp (Power.code_inj.mp h.symm)
  simp [powerSetEffect, ht, hne, ha]

/-- STRM under quarantine admits no way to Full (R439). -/
theorem powerSetEffect_quarantined (ht : j.f 0 0 2 = 3) (hp : s.core.power ≠ .full) (hq : s.core.strmQuar = true) :
    powerSetEffect j s = refuseJob j .state s := by
  have hne : 3 ≠ s.core.power.code := fun h => hp (Power.code_inj.mp h.symm)
  simp [powerSetEffect, ht, hne, powerAdmitted, hq]

end

/-! ## What leaving Full and entering Watch leave -/

theorem dropUnits_core (mine : UnitOwner → Bool) (s : State) : (dropUnits mine s).core = s.core := by
  unfold dropUnits
  refine fold_keep (fun t : State => t.core = s.core) _ (fun t c ht => ?_) _ _ rfl
  split
  · split
    · exact ht
    · exact ht
  · exact ht

theorem abandonPass_core (s : State) : (abandonPass s).core = s.core := by
  unfold abandonPass
  split
  · rfl
  · exact dropUnits_core _ _

theorem leaveFull_toFull (s : State) : (leaveFull s).core.toFull = s.core.toFull :=
  show (abandonPass s).core.toFull = s.core.toFull from congrArg Core.toFull (abandonPass_core s)

/-- Full to Control ends with the job decided, STRM isolated and unpowered (Table 1-11). -/
theorem decideJob_leaveFull (j : Job) (s : State) (h : s.core.toFull = none) :
    let t := decideJob j .ok noWords (leaveFull s)
    t.core.power = .control ∧ t.pins.pwrStrmReq = false ∧ t.pins.isoStrm = true ∧ t.core.toFull = none := by
  have hposts := decideJob_posts j .ok noWords (leaveFull s)
  refine ⟨?_, ?_, ?_, ?_⟩
  · exact hposts.coreField Core.power (fun _ _ => rfl)
  · exact congrArg Pins.pwrStrmReq hposts.pins
  · exact congrArg Pins.isoStrm hposts.pins
  · exact (hposts.coreField Core.toFull (fun _ _ => rfl)).trans ((leaveFull_toFull s).trans h)

/-- Watch leaves CTRL in retention with no operand, no root key and its interrupt lines held (R50, R433). -/
theorem enterWatch_retention (j : Job) (s : State) :
    let t := enterWatch j s
    t.core.power = .watch ∧ t.pins.pwrCtrlReq = 0b01 ∧ t.pke.window = [] ∧ t.keys.rootLoaded = false
      ∧ t.core.irqHeld.1 = irqHost t := ⟨rfl, rfl, rfl, rfl, rfl⟩

/-- Settles O28: past its checks POWER_SET has the effect of its target. -/
theorem powerSetMovesState : Obligations.PowerSetMovesState := by
  intro s u j hturn hseat hreserved hright hlc hidle
  have hrun (ht : j.f 0 0 2 ≠ 0) : exec .powerSet s = .next (powerSetEffect j u) := by
    have hstate : (u.lc.state == lcIntegration || u.lc.state == lcFielded || u.lc.state == lcReturned) = true := by
      simpa [or_assoc] using hlc
    have hpass : Passes (powerSetChecks u j) := by
      simp [Passes, powerSetChecks, hseat, hreserved, hright, hstate, hidle, ht]
    rw [exec_powerSet hturn, startPowerSet_checked hpass]
  refine ⟨fun h0 hcode => ?_, fun ht hp hq => ?_, fun ht hp hq => ?_, fun ht hp ha => ?_, fun ht hp ha => ?_⟩
  · rw [hrun h0, powerSetEffect_present hcode]
  · rw [hrun (by omega), powerSetEffect_full ht hp (by simp [powerAdmitted, hq]), beginFull]
  · rw [hrun (by omega), powerSetEffect_quarantined ht hp hq]
  · rw [hrun (by omega), powerSetEffect_control ht hp ha]
    exact ⟨_, rfl, decideJob_leaveFull j u hidle⟩
  · rw [hrun (by omega), powerSetEffect_watch ht hp ha]
    exact ⟨_, rfl, enterWatch_retention j u⟩

end Sys2Proof.Machine
end

section
/-! Faults (R31 to R36, R43, R60, R300): what a core fault, an engine fault, the end of an engine reset and the check of
the microcode stores do. -/

namespace Sys2Proof.Machine

/-! ## Core faults -/

/-- Once fatal is driven a further cause changes nothing (R43). -/
theorem coreFault_fatal (cause : Nat) {s : State} (h : s.core.fatal = true) : coreFault cause s = s := if_pos h

/-- What a core fault leaves (R43, R100): fatal and its latched cause, no job and no transaction, and result entries,
fuses, beat and the other pins as they were. -/
structure CoreFaulted (cause : Nat) (s t : State) : Prop where
  fatal : t.core.fatal = true
  fatalCause : t.core.fatalCause = BitVec.ofNat 8 cause
  pins : t.pins = { s.pins with causeLatched := BitVec.ofNat 8 cause, causeLatchedValid := true }
  jobs : t.jobs = []
  live : t.fi.live = []
  waiting : t.fi.waiting = []
  entries : ∀ n, (t.seat n).entries = (s.seat n).entries
  otp : t.otp = s.otp
  beat : t.beat = s.beat

theorem coreFault_faulted (cause : Nat) {s : State} (h : s.core.fatal = false) :
    CoreFaulted cause s (coreFault cause s) := by
  have hnote : Notes s (hwNote 0x0040 (leBytes 1 cause) s) := hwNote_notes _ _ s
  rw [coreFault, if_neg (by rw [h]; decide)]
  exact {
    fatal := rfl, fatalCause := rfl, jobs := rfl, live := rfl, waiting := rfl
    pins := by rw [← hnote.pins]
    entries := hnote.entries, otp := hnote.otp, beat := hnote.beat }

/-- A cause of CTRL needs CTRL out of reset; AON must be up. -/
theorem exec_coreFault (k : CoreCause) {s : State} (hon : s.pins.porAonN = true) (hpower : s.core.power ≠ .off)
    (hrst : s.core.ctrlReset = false) : exec (.coreFault k) s = .next (coreFault (coreCauseCode k) s) :=
  congrArg Host.Outcome.next (if_pos (by simp [aonUp, hon, hpower, hrst]))

theorem exec_coreFault_fatal (k : CoreCause) {s : State} (h : s.core.fatal = true) : exec (.coreFault k) s = .next s := by
  have hexec : exec (.coreFault k) s = execCoreFault k s := rfl
  rw [hexec, execCoreFault, coreFault_fatal _ h, ite_self]

theorem exec_pwrCtrlGoodLoss {s : State} (hon : s.pins.porAonN = true) (hreq : s.pins.pwrCtrlReq ≠ 0) :
    exec .pwrCtrlGoodLoss s = .next (coreFault 0x07 { s with pins := { s.pins with pwrCtrlGood := false } }) :=
  congrArg Host.Outcome.next (if_pos (by simpa [hon] using hreq))

/-- Settles O31: both rows are a core fault, and CoreFaulted says what one leaves. -/
theorem coreFaultStopsEngines : Obligations.CoreFaultStopsEngines := by
  intro s hon hpower hrst hfatal
  refine ⟨fun k => ?_, fun hreq => ?_⟩
  · have h := coreFault_faulted (coreCauseCode k) hfatal
    refine ⟨_, exec_coreFault k hon hpower hrst, h.fatal, ?_, ?_, ?_, h.jobs, h.live, h.waiting, h.entries, h.otp,
      h.beat, fun k' => exec_coreFault_fatal k' h.fatal⟩
    · rw [h.fatalCause]
      cases k <;> rfl
    · rw [h.pins, h.fatalCause]
    · rw [h.pins]
  · have h := coreFault_faulted 0x07 (s := { s with pins := { s.pins with pwrCtrlGood := false } }) hfatal
    exact ⟨_, exec_pwrCtrlGoodLoss hon hreq, h.fatal, h.fatalCause, by rw [h.pins], h.jobs, h.live⟩

/-! ## Engine faults -/

/-- The fault is counted in its window, recorded, noted in the heartwood and signalled (R32, R35). -/
def faultNoted (e : Engine) (cause : EngCause) (s : State) : State :=
  let w := faultWindow s e
  raiseCore irqEng
    (hwNote 0x0020 (leBytes 1 (engineNum e) ++ leBytes 1 (engCauseCode cause) ++ leBytes 1 w.length)
      (record { code := 0x0301, object := word (engineNum e), detail := leBytes 1 (engCauseCode cause) }
        { s with core := { s.core with
            faultBeats := vset s.core.faultBeats (engineIx e) (if 3 ≤ w.length then [] else w) } }))

/-- What a noted fault comes to (R33 to R36). -/
def faultOutcome (e : Engine) (cause : EngCause) (faults : Nat) (s : State) : State :=
  if e == .seq && !s.core.startDone then coreFault 0x03 s
  else if 3 ≤ faults then escalate e (engCauseCode cause) faults s
  else dropWork e (setEngReset e true s)

theorem engineFault_runs {e : Engine} {s : State} (cause : EngCause) (hup : ctrlUp s = true)
    (hon : engOffline s e = false) (hing : e = .ing → s.core.strmQuar = false) :
    engineFault e cause s = faultOutcome e cause (faultWindow s e).length (faultNoted e cause s) := by
  have hruns : (!ctrlUp s || engOffline s e || (e == .ing && s.core.strmQuar)) = false := by
    simpa [hup, hon] using hing
  rw [engineFault, if_neg (by rw [hruns]; decide), faultOutcome, faultNoted]
  simp only [decide_eq_true_eq]

section

variable {e : Engine} {cause : EngCause} {faults : Nat} {s : State}

theorem faultOutcome_seqStart (he : e = .seq) (hs : s.core.startDone = false) :
    faultOutcome e cause faults s = coreFault 0x03 s := if_pos (by simp [he, hs])

/-- A fault that is none of SEQ during the start escalates from the third in its window on, and otherwise resets the
engine. -/
theorem faultOutcome_started (h : e = .seq → s.core.startDone = true) :
    faultOutcome e cause faults s = if 3 ≤ faults then escalate e (engCauseCode cause) faults s
      else dropWork e (setEngReset e true s) := if_neg (by simpa using h)

end

/-! ## The end of an engine reset -/

theorem exec_engineResetDone {e : Engine} {s : State} (cs : List Cell) (hup : ctrlUp s = true)
    (hrst : engInReset s e = true) : exec (.engineResetDone e cs) s = .next (endReset e cs s) :=
  congrArg Host.Outcome.next (if_pos (by simp [hup, hrst]))

/-! ## Microcode stores -/

theorem exec_microcodeDigestCheck {s : State} (p d : Bool) (hup : ctrlUp s = true) (hloaded : s.boot.mcLoaded = true)
    (hdue : s.beat.lastDigest < lbeat s / 2 ^ 24) : exec (.microcodeDigestCheck p d) s = .next (
      let u := { s with beat := { s.beat with lastDigest := lbeat s / 2 ^ 24 } }
      let v := if p || Config.sha3_384 u.pke.store != u.pke.storeDigest then engineFault .pke .microcode u else u
      if d then engineFault .dig .microcode v else v) :=
  congrArg Host.Outcome.next (if_pos (by rw [hup, hloaded, decide_eq_true hdue]; rfl))

/-- Settles O47: a fault by engineFault_runs and the two equations of its outcome, the end of a reset and the digest
check by their rows. -/
theorem engineFaultsAndResets : Obligations.EngineFaultsAndResets := by
  intro e s
  refine ⟨fun hup hon hing cause => ?_, fun hup hrst cs => ?_, fun hup hloaded hdue p d => ?_⟩
  · have hexec : exec (.engineFault e cause) s
        = .next (faultOutcome e cause (faultWindow s e).length (faultNoted e cause s)) :=
      congrArg Host.Outcome.next (engineFault_runs cause hup hon hing)
    refine ⟨fun he hs => ?_, fun hstarted hthird => ?_, fun hstarted hfew => ?_⟩
    · exact hexec.trans (congrArg _ (faultOutcome_seqStart he hs))
    · exact hexec.trans (congrArg _ ((faultOutcome_started hstarted).trans (if_pos hthird)))
    · exact hexec.trans (congrArg _ ((faultOutcome_started hstarted).trans (if_neg (by omega))))
  · rw [exec_engineResetDone cs hup hrst, endReset]
    simp
  · rw [exec_microcodeDigestCheck p d hup hloaded hdue]
    simp

end Sys2Proof.Machine
end

section
/-! Cells (R24 to R29): what the end of a unit of work and of a known-answer test do. -/

namespace Sys2Proof.Machine

/-! ## The end of a unit -/

section

variable {c : Cell} {s : State} {u : CellUnit}

/-- A unit that ended well is delivered and clears the cell's count of errors (R25). -/
theorem exec_cellUnitDone_ok (more : Bool) (hruns : cellRuns s c = true) (hwork : s.cells[c].work = some u) :
    exec (.cellUnitDone c true more) s = .next (placeWaiting (cellsLost
      (deliver u.owner c more ((idleCell c s).modCell c (fun y => { y with consecutive := 0 }))))) := by
  have hexec : exec (.cellUnitDone c true more) s = execCellUnitDone c true more s := rfl
  rw [hexec, execCellUnitDone, if_pos hruns, unitDone, hwork]
  rfl

/-- A unit that has met an error on a cell: one attempt more, and the cell among those tried. -/
def triedOn (c : Cell) (u : CellUnit) : CellUnit := { u with attempts := u.attempts + 1, tried := u.tried ++ [c] }

/-- After the cell's error is noted, a unit that ended in an error has the outcome of its retry (R26). -/
theorem exec_cellUnitDone_error (more : Bool) {t : State} (hruns : cellRuns s c = true) (hwork : s.cells[c].work = some u)
    (hretry : retryUnit (triedOn c u) (cellError c (unitCode u.owner) (u.attempts + 1) (idleCell c s)) = t) :
    exec (.cellUnitDone c false more) s = .next (placeWaiting (cellsLost t)) := by
  have hexec : exec (.cellUnitDone c false more) s = execCellUnitDone c false more s := rfl
  rw [hexec, execCellUnitDone, if_pos hruns, unitDone, hwork, ← hretry]
  rfl

end

section

variable {x : CellUnit} {w : State}

theorem retryUnit_fourth (h : 4 ≤ x.attempts) : retryUnit x w = unitFailed x.owner .transient w := if_pos h

theorem retryUnit_noneLeft (h : x.attempts < 4) (hp : placeUnit w x = .noneLeft) :
    retryUnit x w = unitFailed x.owner .retired w := by
  rw [retryUnit, if_neg (by omega), hp]

theorem retryUnit_onCell {d : Cell} (h : x.attempts < 4) (hp : placeUnit w x = .onCell d) :
    retryUnit x w = giveUnit d x (countRetry x w) := by
  rw [retryUnit, if_neg (by omega), hp]

theorem retryUnit_wait (h : x.attempts < 4) (hp : placeUnit w x = .wait) :
    retryUnit x w = countRetry x { w with units := x :: w.units } := by
  rw [retryUnit, if_neg (by omega), hp]

end

/-! ## The end of a known-answer test -/

section

variable {c : Cell} {failed : BitVec 8} {s : State}

theorem exec_knownAnswerTestDone (h : cellRuns s c = true) :
    exec (.knownAnswerTestDone c failed) s = .next (testDone c failed s) := congrArg Host.Outcome.next (if_pos h)

theorem testDone_retest {id : Nat} (h : s.cells[c].retest = some id) : testDone c failed s = endRetest c id failed s := by
  rw [testDone, h]

theorem testDone_notDue (h : s.cells[c].retest = none) (hd : s.cells[c].testDue = false) : testDone c failed s = s := by
  rw [testDone, h]
  exact if_pos (by rw [hd]; rfl)

/-- A test that was due decides over the cell (R29): it is cleared, or retired with cause 3. -/
theorem testDone_due (h : s.cells[c].retest = none) (hd : s.cells[c].testDue = true) : testDone c failed s =
    if failed = 0 then placeWaiting (s.modCell c (fun y => { y with testDue := false }))
    else placeWaiting (cellsLost (retireCell c 3 s)) := by
  rw [testDone, h]
  exact if_neg (by rw [hd]; decide)

end

/-- Settles O46: the end of a unit by its two equations and the four outcomes of a retry, the end of a test by its
three. -/
theorem cellOutcomes : Obligations.CellOutcomes := by
  intro c s hruns
  refine ⟨fun u more hwork => ?_, fun id failed hretest => ?_, fun hretest failed => ?_⟩
  · refine ⟨exec_cellUnitDone_ok more hruns hwork, fun hlast => ?_, fun hmore => ?_⟩
    · exact exec_cellUnitDone_error more hruns hwork (retryUnit_fourth (Nat.succ_le_succ hlast))
    · have hleft : (triedOn c u).attempts < 4 := Nat.succ_lt_succ hmore
      exact ⟨fun hp => exec_cellUnitDone_error more hruns hwork (retryUnit_noneLeft hleft hp),
        fun d hp => exec_cellUnitDone_error more hruns hwork (retryUnit_onCell hleft hp),
        fun hp => exec_cellUnitDone_error more hruns hwork (retryUnit_wait hleft hp)⟩
  · rw [exec_knownAnswerTestDone hruns, testDone_retest hretest]
  · rw [exec_knownAnswerTestDone hruns]
    refine ⟨fun hdue => ?_, fun hdue hpassed => ?_, fun hdue hfailed => ?_⟩
    · rw [testDone_notDue hretest hdue]
    · rw [testDone_due hretest hdue, if_pos hpassed]
    · rw [testDone_due hretest hdue, if_neg hfailed]

end Sys2Proof.Machine
end

section
/-! What a command can answer (R102, Table 2-20), the state after reset, and chip reset and its release (R61, R97, R183,
R415, R424). -/

namespace Sys2Proof.Machine

/-! ## Answers on the firebreak and key delivery buses -/

section

variable (f : State → State) {s : State}

/-- In Watch both buses are idle (R102). -/
theorem fbAnswer_watch (h : inWatch s = true) : fbAnswer f s = .fault .portIdle := if_pos h

/-- Out of Watch an answer is taken while CTRL runs. -/
theorem fbAnswer_awake (hup : ctrlUp s = true) (h : inWatch s = false) : fbAnswer f s = .next (f s) := by
  simp [fbAnswer, hup, h]

theorem fbAnswer_outcome (s : State) :
    (∃ t, fbAnswer f s = .next t) ∨ (inWatch s = true ∧ fbAnswer f s = .fault .portIdle) := by
  cases h : inWatch s with
  | true => exact .inr ⟨rfl, fbAnswer_watch f h⟩
  | false => exact .inl ⟨_, if_neg (by rw [h]; decide)⟩

end

/-- A unit has armed the swap (R88). -/
def unitArmed (i : Unit7) (w : Swap) : Swap :=
  if w.phase = .armed ∧ !w.answered.contains i then { w with answered := i :: w.answered } else w

/-- A unit was too late to arm the swap (R88). -/
def unitLate (i : Unit7) (s : State) : State :=
  match s.part.swap with
  | some w =>
    if w.phase = .armed && w.swapped.isEmpty && !w.adopted && (unitsPresent s).contains i then disarmSwap s else s
  | none => s

section

variable (i : Unit7) (k : Port) (number : BitVec 32) (s : State)

theorem exec_fbShadowCrcResponse (crc : BitVec 32) :
    exec (.fbShadowCrcResponse i crc) s = fbAnswer (shadowCrc i crc) s := rfl
theorem exec_fbArmed : exec (.fbArmed i) s = fbAnswer (modSwap (unitArmed i)) s := rfl
theorem exec_fbLate : exec (.fbLate i) s = fbAnswer (unitLate i) s := rfl
theorem exec_fbDisarmed : exec (.fbDisarmed i) s = fbAnswer id s := rfl
theorem exec_fbSwapped (b : Word) : exec (.fbSwapped i b) s = fbAnswer (unitSwapped i false b) s := rfl
theorem exec_fbSwappedLate (b : Word) : exec (.fbSwappedLate i b) s = fbAnswer (unitSwapped i true b) s := rfl
theorem exec_fbScrubDone : exec (.fbScrubDone i number) s = fbAnswer (scrubAnswer i number true) s := rfl
theorem exec_fbScrubFailed : exec (.fbScrubFailed i number) s = fbAnswer (scrubAnswer i number false) s := rfl
theorem exec_fbBlockedCount (n : Word) : exec (.fbBlockedCount i n) s = fbAnswer (blockedAnswer i n.toNat) s := rfl
theorem exec_kdAck : exec (.kdAck k) s = fbAnswer (kdAcked k) s := rfl
theorem exec_kdNack : exec (.kdNack k) s = fbAnswer (kdFail k) s := rfl

end

/-- Settles O4: the eleven answers of a firewall unit or a link port have the outcomes of fbAnswer, and the meaning of
every other command is a next state. -/
theorem onlyIdlePortAnswersStop : Obligations.OnlyIdlePortAnswersStop := by
  intro c s
  cases c
  case fbShadowCrcResponse | fbArmed | fbLate | fbDisarmed | fbSwapped | fbSwappedLate | fbScrubDone | fbScrubFailed
      | fbBlockedCount | kdAck | kdNack =>
    simp only [exec_fbShadowCrcResponse, exec_fbArmed, exec_fbLate, exec_fbDisarmed, exec_fbSwapped, exec_fbSwappedLate,
      exec_fbScrubDone, exec_fbScrubFailed, exec_fbBlockedCount, exec_kdAck, exec_kdNack]
    exact (fbAnswer_outcome _ s).imp_right fun ⟨hwatch, hstop⟩ => ⟨hwatch, hstop, by simp⟩
  all_goals exact .inl ⟨_, rfl⟩

/-! ## The state after reset -/

theorem reset_seat (n : Seat) : State.reset.seat n = {} := Vector.getElem_replicate n.isLt
theorem reset_box (m : Mbx) : State.reset.box m = {} := Vector.getElem_replicate m.isLt
theorem reset_slot (i : Fin 256) : State.reset.keys.slots[i] = {} := Vector.getElem_replicate i.isLt
theorem reset_curve (i : Fin 8) : State.reset.pke.curves[i] = {} := Vector.getElem_replicate i.isLt
theorem reset_plan (i : PlanIx) : State.reset.ing.plans[i] = {} := Vector.getElem_replicate i.isLt
theorem reset_part (n : Part) : State.reset.part.recs[n] = {} := Vector.getElem_replicate n.isLt
theorem reset_auth (i : Fin 3) : State.reset.lc.auth[i] = {} := Vector.getElem_replicate i.isLt
theorem reset_cell (c : Cell) : State.reset.cells[c] = {} := Vector.getElem_replicate c.isLt

/-- Settles O5: the replicated parts by the lemmas above, each single register by its default. -/
theorem resetValues : Obligations.ResetValues :=
  ⟨rfl, rfl, rfl, rfl, rfl, rfl, rfl, rfl, rfl, rfl, rfl, rfl, reset_auth, reset_seat, reset_box, reset_slot,
    reset_curve, reset_plan, reset_part, fun c => congrArg CellState.retired (reset_cell c), rfl, rfl, rfl, rfl, rfl,
    rfl⟩

/-! ## Chip reset -/

/-- chip_rst_n is low. -/
def chipHeld (s : State) : State := { s with pins := { s.pins with chipRstN := false } }

section

variable {s : State}

theorem exec_chipReset_running (hon : s.pins.porAonN = true) (hrun : s.pins.chipRstN = true) :
    exec .chipReset s = .next (chipHeld (resetCtrl s)) := congrArg Host.Outcome.next (if_pos (by rw [hon, hrun]; rfl))

theorem exec_chipReset_inReset (h : ¬(s.pins.porAonN = true ∧ s.pins.chipRstN = true)) :
    exec .chipReset s = .next (chipHeld s) := congrArg Host.Outcome.next (if_neg (by simpa using h))

end

section

variable (s : State)

/-- A seat page keeps only the info word captured with BEAT_NOW (R424). -/
theorem resetCtrl_seat (n : Seat) : (resetCtrl s).seat n = { nowInfo := (s.seat n).nowInfo } :=
  Vector.getElem_map _ n.isLt

theorem resetCtrl_box (m : Mbx) : (resetCtrl s).box m = {} := reset_box m

theorem resetCtrl_cell (c : Cell) : (resetCtrl s).cells[c] = resetCell s.cells[c] := Vector.getElem_map _ c.isLt

end

/-- Settles O24: resetCtrl leaves each register at its reset value and what AON keeps as it was. -/
theorem chipResetKeepsAon : Obligations.ChipResetKeepsAon := by
  refine fun s => ⟨fun hon hrun => ⟨_, exec_chipReset_running hon hrun, ?_⟩, exec_chipReset_inReset⟩
  have hcell (c : Cell) : (resetCtrl s).cells[c].retired = s.cells[c].retired ∧ (resetCtrl s).cells[c].work = none := by
    rw [resetCtrl_cell]
    exact ⟨rfl, rfl⟩
  exact ⟨rfl, rfl, rfl, rfl, rfl, rfl, rfl, rfl, rfl, rfl, rfl, resetCtrl_seat s, resetCtrl_box s, rfl, rfl, rfl, rfl,
    rfl, rfl, rfl, rfl, rfl, rfl, rfl, rfl, rfl, rfl, rfl, rfl, hcell, rfl⟩

/-! ## Release -/

/-- chip_rst_n is high. -/
def chipReleased (s : State) : State := { s with pins := { s.pins with chipRstN := true } }

theorem exec_chipResetRelease (s : State) : exec .chipResetRelease s =
    .next (if mayLeave (chipReleased s) then leaveReset (chipReleased s) else chipReleased s) := rfl

theorem mayLeave_chipReleased (s : State) :
    mayLeave (chipReleased s) = true ↔ s.core.ctrlReset = true ∧ s.pins.porAonN = true := by
  simp [mayLeave, chipReleased]

/-- Settles O25: CTRL leaves reset if AON has left it, and with no request held nothing more follows. -/
theorem releaseBeginsAStart : Obligations.ReleaseBeginsAStart := by
  intro s hheld
  have hnone : (chipReleased s).held = [] := hheld
  rw [exec_chipResetRelease, leaveReset_noneHeld hnone, ← hheld]
  simp only [mayLeave_chipReleased]
  rfl

end Sys2Proof.Machine
end

section
/-! Folds over the indices of a vector that change one element at a time. -/

namespace Sys2Proof.Machine

section

variable {σ α : Type} {k : Nat} (get : σ → Fin k → α) (f : Fin k → α → α) {step : σ → Fin k → σ}
  (hstep : ∀ s i j, get (step s i) j = if i = j then f j (get s j) else get s j)

include hstep

/-- A fold whose step changes the element of its index alone changes each listed element once. -/
theorem foldl_get {l : List (Fin k)} (hl : l.Nodup) (s : σ) (j : Fin k) :
    get (l.foldl step s) j = if j ∈ l then f j (get s j) else get s j := by
  induction l generalizing s with
  | nil => simp
  | cons i l ih =>
    obtain ⟨hi, hl⟩ := List.nodup_cons.mp hl
    rw [List.foldl_cons, ih hl, hstep]
    by_cases hij : i = j
    · subst hij
      simp [hi]
    · simp [hij, Ne.symm hij]

theorem get_foldl_indices {s t : σ} (ht : t = (indices k).foldl step s) (j : Fin k) : get t j = f j (get s j) := by
  rw [ht, indices, foldl_get get f hstep (List.nodup_finRange k), if_pos (List.mem_finRange j)]

end

end Sys2Proof.Machine
end

section
/-! Sensor samples (R92, R93, Table 2-16): a sample is the readings, the warnings, the counts beyond each limit and the
actions at the limits, in this order. -/

namespace Sys2Proof.Machine

/-! ## The parts of a sample -/

/-- The readings of a sample. -/
def readSample (v : Samples) (s : State) : State :=
  { s with core := { s.core with
    vpp := v.vpp, vaon := v.vaon, vctrl := v.vctrl, vstrm := if strmPowered s then v.vstrm else 0,
    temps := #v[v.t0, v.t1, v.t2, v.t3] } }

/-- A burn in progress learns that its supply left the window (R176). -/
def checkSupply (v : Samples) (s : State) : State := if vppOk s v.vpp then s else supplyLost s

/-- A sample up to the counts: readings, supply and warnings. -/
def noteSample (v : Samples) (s : State) : State := (indices 7).foldl (warnInput v) (checkSupply v (readSample v s))

theorem exec_sensorSample {v : Samples} {s : State} (hon : s.pins.porAonN = true) (hpower : s.core.power ≠ .off) :
    exec (.sensorSample v) s =
      .next ((indices 7).foldl limitAction ((indices 7).foldl (countLimit v) (noteSample v s))) :=
  congrArg Host.Outcome.next (if_pos (by simp [aonUp, hon, hpower]))

/-! ## Counts beyond the limits -/

/-- The counts of samples beyond a limit. -/
def withLimits (s : State) (x : Vector Nat 7) : State := { s with core := { s.core with overLimit := x } }

/-- The count of an input after a sample. -/
def countOf (v : Samples) (s : State) (i : Fin 7) (n : Nat) : Nat :=
  if inputSampled s i && decide (threshold s i true < (sampled v)[i]) then n + 1 else 0

theorem countLimit_withLimits (v : Samples) (s : State) (x : Vector Nat 7) (i : Fin 7) :
    countLimit v (withLimits s x) i = withLimits s (vmod x i (countOf v s i)) := rfl

/-- Each input's count moves once. -/
theorem foldl_countLimit (v : Samples) (s : State) : ∃ x : Vector Nat 7,
    (indices 7).foldl (countLimit v) s = withLimits s x ∧ ∀ i : Fin 7, x[i] = countOf v s i s.core.overLimit[i] := by
  refine ⟨(indices 7).foldl (fun x i => vmod x i (countOf v s i)) s.core.overLimit,
    List.foldl_hom (withLimits s) (countLimit_withLimits v s), fun i => ?_⟩
  refine get_foldl_indices (fun (x : Vector Nat 7) i => x[i]) (countOf v s) (fun x i j => ?_) rfl i
  rw [vmod_get]
  split
  · next h => rw [h]
  · rfl

/-! ## A sample within every threshold -/

section

variable {v : Samples} {s : State}

theorem readSample_inputSampled (i : Fin 7) : inputSampled (readSample v s) i = inputSampled s i := rfl

theorem readSample_threshold (i : Fin 7) (b : Bool) : threshold (readSample v s) i b = threshold s i b := rfl

theorem warnInput_within {i : Fin 7} (h : inputSampled s i = true → (sampled v)[i] ≤ threshold s i false) :
    warnInput v s i = s := by
  have hquiet : (inputSampled s i && decide (threshold s i false < (sampled v)[i])) = false := by
    cases hin : inputSampled s i with
    | false => rfl
    | true => simpa using h hin
  simp only [warnInput, hquiet, Bool.false_and, Bool.false_eq_true, if_false]

theorem countOf_within {i : Fin 7} (h : inputSampled s i = true → (sampled v)[i] ≤ threshold s i true) (n : Nat) :
    countOf v s i n = 0 := by
  unfold countOf
  rw [if_neg]
  simpa using h

theorem limitAction_below {i : Fin 7} (h : s.core.overLimit[i] < 2) : limitAction s i = s := if_pos h

end

/-- A fold whose every step keeps the state keeps it. -/
theorem foldl_fixed {α : Type} {f : State → α → State} {s : State} (h : ∀ a, f s a = s) (l : List α) :
    l.foldl f s = s :=
  fold_keep (fun t => t = s) f (fun _ a ht => ht ▸ h a) l s rfl

/-! ## The second sample beyond a limit -/

/-- From s to t the counts beyond the limits and the configuration are as they were. -/
structure SameLimits (s t : State) : Prop where
  counts : t.core.overLimit = s.core.overLimit
  config : t.boot = s.boot

theorem SameLimits.refl (s : State) : SameLimits s s := ⟨rfl, rfl⟩

theorem SameLimits.trans {s t u : State} (h : SameLimits s t) (g : SameLimits t u) : SameLimits s u :=
  ⟨g.counts.trans h.counts, g.config.trans h.config⟩

theorem SameLimits.after {s t u : State} (h : SameLimits t u) (hc : t.core.overLimit = s.core.overLimit)
    (hb : t.boot = s.boot) : SameLimits s u := .trans ⟨hc, hb⟩ h

theorem Posts.sameLimits {s t : State} (h : Posts s t) : SameLimits s t :=
  ⟨h.coreField Core.overLimit (fun _ _ => rfl), h.boot⟩

theorem Notes.sameLimits {s t : State} (h : Notes s t) : SameLimits s t := h.posts.sameLimits

theorem foldl_sameLimits {α : Type} {f : State → α → State} (hf : ∀ s a, SameLimits s (f s a)) (l : List α)
    (s : State) : SameLimits s (l.foldl f s) :=
  fold_keep (fun t => SameLimits s t) f (fun t a ht => ht.trans (hf t a)) l s (.refl s)

theorem warnInput_sameLimits (v : Samples) (s : State) (i : Fin 7) : SameLimits s (warnInput v s i) := by
  unfold warnInput
  extract_lets due
  split
  · exact ((record_notes _ _).sameLimits.trans (raiseCore_notes _ _).sameLimits).after rfl rfl
  · exact .refl s

theorem noteSample_sameLimits (v : Samples) (s : State) : SameLimits s (noteSample v s) := by
  have hsupply : SameLimits s (checkSupply v (readSample v s)) := by
    unfold checkSupply
    split <;> exact ⟨rfl, rfl⟩
  exact hsupply.trans (foldl_sameLimits (warnInput_sameLimits v) _ _)

/-! ### Quarantine of STRM, which the limit of vs_strm brings, keeps the other inputs' counts -/

theorem dropUnits_sameLimits (mine : UnitOwner → Bool) (s : State) : SameLimits s (dropUnits mine s) := by
  unfold dropUnits
  refine (foldl_sameLimits (fun t c => ?_) _ _).after rfl rfl
  split
  · split <;> exact ⟨rfl, rfl⟩
  · exact .refl t

theorem placeWaiting_sameLimits (s : State) : SameLimits s (placeWaiting s) := by
  unfold placeWaiting
  refine (foldl_sameLimits (fun t u => ?_) _ _).after rfl rfl
  split <;> exact ⟨rfl, rfl⟩

theorem abandonPass_sameLimits (s : State) : SameLimits s (abandonPass s) := by
  unfold abandonPass
  split
  · exact .refl s
  · exact (dropUnits_sameLimits _ _).after rfl rfl

theorem finishJob_sameLimits (j : Job) (st : Status) (ws : Words) (s : State) : SameLimits s (finishJob j st ws s) :=
  (finishJob_posts j st ws s).sameLimits

theorem failLoad_sameLimits (l : Load) (cause : BitVec 8) (st : Status) (s : State) :
    SameLimits s (failLoad l cause st s) := by
  have hdrop : SameLimits s (dropLoad l.job (failPlan l.plan cause s)) :=
    ((dropUnits_sameLimits _ _).trans (placeWaiting_sameLimits _)).after rfl rfl
  unfold failLoad
  dsimp only
  split
  · exact hdrop.trans (finishJob_sameLimits _ _ _ _)
  · exact hdrop

theorem failAllLoads_sameLimits (s : State) : SameLimits s (failAllLoads s) := by
  unfold failAllLoads
  exact foldl_sameLimits (fun t l => failLoad_sameLimits l _ _ t) _ s

theorem failStartedIng_sameLimits (s : State) : SameLimits s (failStartedIng s) := by
  unfold failStartedIng
  extract_lets mine failed
  have hfailed : SameLimits s failed := (failAllLoads_sameLimits s).trans
    (foldl_sameLimits (fun t (j : Job) => finishJob_sameLimits j .fault noWords t) mine (failAllLoads s))
  exact hfailed.trans (foldl_sameLimits (fun t (j : Job) => (raiseFault_notes j.seat faultStrm t).sameLimits) _ failed)

theorem failQueuedIng_sameLimits (n : Seat) (s : State) : SameLimits s (failQueuedIng n s) := by
  unfold failQueuedIng
  refine foldl_sameLimits (fun t e => ?_) _ s
  split
  · exact (postEntry_posts _ _ _ _ _ _).sameLimits.trans (raiseFault_notes _ _ _).sameLimits
  · exact .refl t

theorem failRetests_sameLimits (e : Engine) (s : State) : SameLimits s (failRetests e s) := by
  unfold failRetests
  refine foldl_sameLimits (fun t c => ?_) _ s
  dsimp only
  split
  · exact .refl t
  · split
    · exact ⟨rfl, rfl⟩
    · exact (finishJob_sameLimits _ _ _ _).after rfl rfl

theorem dropStrm_sameLimits (s : State) : SameLimits s (dropStrm s) := by
  unfold dropStrm
  exact .trans (failStartedIng_sameLimits s) (.trans (foldl_sameLimits (fun t n => failQueuedIng_sameLimits n t) _ _)
    (.trans (failRetests_sameLimits _ _) (.trans (abandonPass_sameLimits _) (dropUnits_sameLimits _ _))))

theorem stopToFull_sameLimits (s : State) : SameLimits s (stopToFull s) := by
  unfold stopToFull
  dsimp only
  split
  · exact ⟨rfl, rfl⟩
  · split
    · exact (finishJob_sameLimits _ _ _ _).after rfl rfl
    · exact ⟨rfl, rfl⟩

theorem noteQuarantine_sameLimits (cause : Nat) (s : State) : SameLimits s (noteQuarantine cause s) := by
  unfold noteQuarantine
  exact .trans (stopToFull_sameLimits s) (.trans (record_notes _ _).sameLimits
    (.trans (hwNote_notes _ _ _).sameLimits (raiseCore_notes _ _).sameLimits))

theorem markQuarantine_sameLimits (s : State) : SameLimits s (markQuarantine s) := ⟨rfl, rfl⟩

theorem quarantineStrm_sameLimits (cause : Nat) (s : State) : SameLimits s (quarantineStrm cause s) := by
  unfold quarantineStrm
  split
  · exact .refl s
  · exact .trans (dropStrm_sameLimits s) (.trans (markQuarantine_sameLimits _) (noteQuarantine_sameLimits _ _))

/-! ### The actions at the limits -/

theorem coreFault_drives_fatal (cause : Nat) (s : State) : (coreFault cause s).core.fatal = true := by
  cases h : s.core.fatal with
  | true => rw [coreFault_fatal cause h, h]
  | false => exact (coreFault_faulted cause h).fatal

theorem ctrlUp_fatal {s : State} (h : s.core.fatal = true) : ctrlUp s = false := by simp [ctrlUp, h]

/-- The action of an input that has reached its limit. -/
theorem limitAction_reached {s : State} {i : Fin 7} (h : 2 ≤ s.core.overLimit[i]) :
    let t := withLimits s (vset s.core.overLimit i 0)
    limitAction s i = if i = 2 then (if ctrlUp t then quarantineStrm 4 t else t) else coreFault 0x08 t :=
  if_neg (Nat.not_lt.mpr h)

theorem limitAction_keeps_fatal {s : State} (i : Fin 7) (h : s.core.fatal = true) :
    (limitAction s i).core.fatal = true := by
  rcases Nat.lt_or_ge s.core.overLimit[i] 2 with hlow | hhigh
  · rw [limitAction_below hlow, h]
  · have hdown : ctrlUp (withLimits s (vset s.core.overLimit i 0)) = false :=
      ctrlUp_fatal (s := withLimits s (vset s.core.overLimit i 0)) h
    rw [limitAction_reached hhigh, hdown]
    split
    · exact h
    · exact coreFault_drives_fatal _ _

/-- An action is a core fault or leaves the other inputs' counts. -/
theorem limitAction_other (s : State) {i j : Fin 7} (hne : j ≠ i) :
    (limitAction s i).core.fatal = true ∨ (limitAction s i).core.overLimit[j] = s.core.overLimit[j] := by
  rcases Nat.lt_or_ge s.core.overLimit[i] 2 with hlow | hhigh
  · rw [limitAction_below hlow]
    exact .inr rfl
  · have hcounts : (vset s.core.overLimit i 0)[j] = s.core.overLimit[j] := vset_other _ _ _ _ hne
    rw [limitAction_reached hhigh]
    split
    · split
      · exact .inr ((congrArg (fun x : Vector Nat 7 => x[j]) (quarantineStrm_sameLimits _ _).counts).trans hcounts)
      · exact .inr hcounts
    · exact .inl (coreFault_drives_fatal _ _)

/-- An input other than vs_strm that has reached its limit brings a core fault, whatever the others do. -/
theorem foldl_limitAction_fatal {i : Fin 7} (hi : i ≠ 2) {l : List (Fin 7)} (hmem : i ∈ l) (s : State)
    (h : s.core.fatal = true ∨ 2 ≤ s.core.overLimit[i]) : (l.foldl limitAction s).core.fatal = true := by
  induction l generalizing s with
  | nil => cases hmem
  | cons j l ih =>
    rw [List.foldl_cons]
    by_cases hij : i = j
    · have hfault : (limitAction s j).core.fatal = true := by
        subst hij
        rcases h with hfatal | hhigh
        · exact limitAction_keeps_fatal i hfatal
        · rw [limitAction_reached hhigh, if_neg hi]
          exact coreFault_drives_fatal _ _
      exact fold_keep (fun t : State => t.core.fatal = true) _ (fun _ k ht => limitAction_keeps_fatal k ht) l _ hfault
    · refine ih ((List.mem_cons.mp hmem).resolve_left hij) _ ?_
      rcases h with hfatal | hhigh
      · exact .inl (limitAction_keeps_fatal j hfatal)
      · rcases limitAction_other s hij with hfault | hsame
        · exact .inl hfault
        · exact .inr (hsame ▸ hhigh)

/-- Settles O32: within the thresholds no step of the sample but the readings and the counts does anything; a count that
reaches 2 on an input other than vs_strm ends in a core fault. -/
theorem sensorSamples : Obligations.SensorSamples := by
  intro v s hon hpower
  rw [exec_sensorSample hon hpower]
  refine ⟨fun hvpp hwithin => ?_, fun i hi hbeyond hfirst => ?_⟩
  · have hnote : noteSample v s = readSample v s := by
      have hsupply : checkSupply v (readSample v s) = readSample v s := if_pos hvpp
      rw [noteSample, hsupply]
      refine foldl_fixed (fun i => warnInput_within ?_) _
      rw [readSample_inputSampled, readSample_threshold]
      exact fun hin => (hwithin i hin).1
    obtain ⟨x, hfold, hcount⟩ := foldl_countLimit v (readSample v s)
    have hzero : x = Vector.replicate 7 0 := by
      refine Vector.ext fun i hi => ?_
      rw [Vector.getElem_replicate]
      refine (hcount ⟨i, hi⟩).trans (countOf_within ?_ _)
      rw [readSample_inputSampled, readSample_threshold]
      exact fun hin => (hwithin ⟨i, hi⟩ hin).2
    have hidle (i : Fin 7) : limitAction (withLimits (readSample v s) x) i = withLimits (readSample v s) x := by
      refine limitAction_below ?_
      show x[i] < 2
      rw [hzero]
      simp
    rw [hnote, hfold, foldl_fixed hidle, hzero]
    rfl
  · have hsame : SameLimits s (noteSample v s) := noteSample_sameLimits v s
    obtain ⟨x, hfold, hcount⟩ := foldl_countLimit v (noteSample v s)
    have hreached : 2 ≤ x[i] := by
      have hsampled : inputSampled (noteSample v s) i = true := by simp [inputSampled, hi]
      have hlimit : threshold (noteSample v s) i true = threshold s i true := by rw [threshold, hsame.config, threshold]
      rw [hcount, countOf, hsampled, hlimit, hsame.counts, if_pos (by simpa using hbeyond)]
      omega
    rw [hfold]
    have hlimits : 2 ≤ (withLimits (noteSample v s) x).core.overLimit[i] := hreached
    have hmem : i ∈ indices 7 := List.mem_finRange i
    exact ⟨_, rfl, foldl_limitAction_fatal hi hmem _ (.inr hlimits)⟩

end Sys2Proof.Machine
end

section
/-! The compute reset (R65, R402 to R404, Table 2-4): its command, its handshake and what its end leaves. -/

namespace Sys2Proof.Machine

/-! ## The command -/

/-- A CORE_COMPUTE_RESET at its turn starts. -/
theorem exec_coreComputeReset {s u : State} {j : Job} (h : Turn .computeReset s j u) :
    exec .coreComputeReset s = .next (startComputeReset j u) :=
  congrArg Host.Outcome.next (turn_run h startComputeReset)

/-- The checks of CORE_COMPUTE_RESET (Table 13-3, R439). -/
def computeResetChecks (s : State) (j : Job) : List (Bool × Status) :=
  let lc := s.lc.state
  [(isHmb j.seat, .denied), (zeroFrom (j.w 0) 1, .badArgument), (operatorRight s j.seat, .denied),
   (lc == lcTest || lc == lcIntegration || lc == lcFielded || lc == lcReturned, .state), (partPower s, .state),
   (s.recd.creset.phase == 0, .state)]

/-- Compute is asked to quiesce (Table 2-4 step 1). -/
def cresetBegun (j : Job) (s : State) : State :=
  modCreset (fun c => { c with
      phase := 1, job := some j.id, seat := j.seat, reason := j.f 0 0 1 == 1, since := s.now,
      born := s.part.creations, ended := false, qto := false, rto := false })
    { s with pins := { s.pins with cmpQuiesceReq := true, cmpQuiesceAck := false } }

theorem startComputeReset_checked {s : State} {j : Job} (h : Passes (computeResetChecks s j)) :
    startComputeReset j s = cresetNote 0x0501 (cresetBegun j s) := by
  have hff : firstFail (computeResetChecks s j) = none := ff_none h
  unfold computeResetChecks at hff
  unfold startComputeReset
  dsimp only at hff ⊢
  rw [hff]
  rfl

/-! ## The record of the compute reset through notes -/

theorem cresetNote_notes (code : BitVec 16) (s : State) : Notes s (cresetNote code s) := record_notes _ s

theorem Posts.creset {s t : State} (h : Posts s t) : t.recd.creset = s.recd.creset := by
  have hcreset := congrArg Recorder.creset h.recd
  exact hcreset

theorem Notes.creset {s t : State} (h : Notes s t) : t.recd.creset = s.recd.creset := h.posts.creset

/-! ## The steps of the handshake -/

/-- Time goes on to t, unless it is past t already. -/
def waited (t : Nat) (s : State) : State := { s with now := max s.now t }

theorem exec_cmpQuiesceAck {s : State} (hup : ctrlUp s = true) (h : s.recd.creset.phase = 1) :
    exec .cmpQuiesceAck s = .next (holdCompute { s with pins := { s.pins with cmpQuiesceAck := true } }) :=
  congrArg Host.Outcome.next (if_pos (show (ctrlUp s && s.recd.creset.phase == 1) = true by simp [hup, h]))

/-- 200 µs have passed without the acknowledgement (R65). -/
def quiesceTimedOut (s : State) : State := holdCompute (modCreset (fun c => { c with qto := true })
  (waited (s.recd.creset.since + 200 * Config.microsecond) s))

theorem exec_cmpQuiesceTimeout {s : State} (hup : ctrlUp s = true) (h : s.recd.creset.phase = 1) :
    exec .cmpQuiesceTimeout s = .next (cresetNote 0x0503 (quiesceTimedOut s)) :=
  congrArg Host.Outcome.next (if_pos (by simp [hup, h]))

theorem exec_rstComputeHoldEnd {s : State} (hup : ctrlUp s = true) (h : s.recd.creset.phase = 2) :
    exec .rstComputeHoldEnd s = .next { s with
      now := max s.now (s.recd.creset.since + Config.microsecond), pins := { s.pins with rstComputeN := true },
      recd := { s.recd with creset := { s.recd.creset with
        phase := 3, since := max s.now (s.recd.creset.since + Config.microsecond) } } } :=
  congrArg Host.Outcome.next (if_pos (by simp [hup, h]))

/-- With REC out of reset the end of the handshake is the end of the compute reset (Table 13-16). -/
theorem endHandshake_finishes {s : State} (h : engInReset s .recd = false) : endHandshake s = finishCreset s :=
  if_neg (by rw [h]; decide)

/-- cmp_ready has come. -/
def computeReady (s : State) : State := { s with pins := { s.pins with cmpReady := true } }

theorem exec_cmpReady {s : State} (hup : ctrlUp s = true) (h : s.recd.creset.phase = 3)
    (hended : s.recd.creset.ended = false) (hrec : engInReset s .recd = false) :
    exec .cmpReady s = .next (finishCreset (computeReady s)) := by
  have hexec : exec .cmpReady s = .next (endHandshake (computeReady s)) := congrArg Host.Outcome.next
    (if_pos (show (ctrlUp s && s.recd.creset.phase == 3 && !s.recd.creset.ended) = true by simp [hup, h, hended]))
  rw [hexec, endHandshake_finishes (s := computeReady s) hrec]

/-- 500 µs have passed without cmp_ready (R65). -/
def readyTimedOut (s : State) : State :=
  cresetNote 0x0504 (modCreset (fun c => { c with rto := true })
    (waited (s.recd.creset.since + 500 * Config.microsecond) s))

theorem readyTimedOut_notes (s : State) : Notes (modCreset (fun c => { c with rto := true })
    (waited (s.recd.creset.since + 500 * Config.microsecond) s)) (readyTimedOut s) := cresetNote_notes _ _

theorem exec_cmpReadyTimeout {s : State} (hup : ctrlUp s = true) (h : s.recd.creset.phase = 3)
    (hended : s.recd.creset.ended = false) (hrec : engInReset s .recd = false) :
    exec .cmpReadyTimeout s = .next (finishCreset (readyTimedOut s)) := by
  have hexec : exec .cmpReadyTimeout s = .next (endHandshake (readyTimedOut s)) :=
    congrArg Host.Outcome.next (if_pos (by simp [hup, h, hended]))
  have hreset : engInReset (readyTimedOut s) .recd = false :=
    ((readyTimedOut_notes s).coreField (fun c => c.engReset.getLsbD (engineNum .recd)) (fun _ _ => rfl)).trans hrec
  rw [hexec, endHandshake_finishes hreset]

/-! ## The end of the compute reset (R403 steps 3 to 5) -/

/-- From s to t only key store and partitions changed. -/
def Rekeyed (s t : State) : Prop := ∃ keys part, t = { s with keys := keys, part := part }

theorem Rekeyed.refl (s : State) : Rekeyed s s := ⟨s.keys, s.part, rfl⟩

theorem Rekeyed.trans {s t u : State} (h : Rekeyed s t) (g : Rekeyed t u) : Rekeyed s u := by
  obtain ⟨_, _, rfl⟩ := h
  obtain ⟨keys, part, rfl⟩ := g
  exact ⟨keys, part, rfl⟩

theorem foldl_rekeyed {α : Type} {f : State → α → State} (hf : ∀ s a, Rekeyed s (f s a)) (l : List α) (s : State) :
    Rekeyed s (l.foldl f s) :=
  fold_keep (fun t => Rekeyed s t) f (fun t a ht => ht.trans (hf t a)) l s (.refl s)

/-- S joins the history of every partition that existed when the reset began. -/
def addResets (t : Stamp) (s : State) : State :=
  (indices 64).foldl (fun s n => if bornBefore s n then s.modPart n (addReset t) else s) s

theorem applyCreset_eq (s : State) :
    applyCreset s = zeroAllModelKeys (advanceAllG (addResets s.recd.creset.stamp s)) := rfl

theorem addResets_rekeyed (t : Stamp) (s : State) : Rekeyed s (addResets t s) := by
  unfold addResets
  refine foldl_rekeyed (fun u n => ?_) _ s
  split
  · exact ⟨u.keys, _, rfl⟩
  · exact .refl u

theorem advanceAllG_rekeyed (s : State) : Rekeyed s (advanceAllG s) := by
  unfold advanceAllG
  refine foldl_rekeyed (fun u n => ?_) _ s
  split
  · exact ⟨_, _, rfl⟩
  · exact .refl u

theorem applyCreset_rekeyed (s : State) : Rekeyed s (applyCreset s) := by
  rw [applyCreset_eq]
  exact .trans (addResets_rekeyed _ s) (.trans (advanceAllG_rekeyed _) ⟨_, _, rfl⟩)

theorem modPart_recs (s : State) (n m : Part) (f : PartRec → PartRec) :
    (s.modPart n f).part.recs[m] = if n = m then f s.part.recs[n] else s.part.recs[m] := vmod_get _ _ _ _

/-- A history changes neither state nor generation of a partition. -/
theorem addResets_recs (t : Stamp) (s : State) (n : Part) : (addResets t s).part.recs[n].st = s.part.recs[n].st
    ∧ (addResets t s).part.recs[n].g = s.part.recs[n].g := by
  unfold addResets
  refine fold_keep (fun u : State => u.part.recs[n].st = s.part.recs[n].st ∧ u.part.recs[n].g = s.part.recs[n].g) _
    (fun u m hu => ?_) _ s ⟨rfl, rfl⟩
  split
  · rw [modPart_recs]
    split
    · next h => exact h ▸ hu
    · exact hu
  · exact hu

/-- G of partition n advances if n exists. -/
def advanceIfExists (s : State) (n : Part) : State := if partExists s n then advanceG n s else s

theorem advanceAllG_eq (s : State) : advanceAllG s = (indices 64).foldl advanceIfExists s := rfl

/-- A partition record after every G advanced. -/
def withNextG (r : PartRec) : PartRec := if r.st == .active then { r with g := r.g + 1 } else r

theorem advanceIfExists_recs (s : State) (n m : Part) : (advanceIfExists s n).part.recs[m] =
    if n = m then withNextG s.part.recs[m] else s.part.recs[m] := by
  have hadvance : (advanceG n s).part.recs[m] = if n = m then { s.part.recs[n] with g := s.part.recs[n].g + 1 } else
      s.part.recs[m] := modPart_recs s n m _
  unfold advanceIfExists withNextG partExists
  by_cases hnm : n = m
  · subst hnm
    rw [if_pos rfl] at hadvance ⊢
    split
    · exact hadvance
    · rfl
  · rw [if_neg hnm] at hadvance ⊢
    split
    · exact hadvance
    · rfl

theorem withNextG_g (r : PartRec) : (withNextG r).g = if r.st == .active then r.g + 1 else r.g := by
  unfold withNextG
  split <;> rfl

theorem advanceAllG_recs (s : State) (n : Part) : (advanceAllG s).part.recs[n] = withNextG s.part.recs[n] := by
  exact get_foldl_indices (fun (u : State) (m : Part) => u.part.recs[m]) (fun _ => withNextG) advanceIfExists_recs
    (advanceAllG_eq s) n

theorem zeroAllModelKeys_part (s : State) : (zeroAllModelKeys s).part = s.part := rfl

theorem applyCreset_g (s : State) (n : Part) : (applyCreset s).part.recs[n].g =
    if partExists s n then s.part.recs[n].g + 1 else s.part.recs[n].g := by
  obtain ⟨hst, hg⟩ := addResets_recs s.recd.creset.stamp s n
  rw [applyCreset_eq, zeroAllModelKeys_part, advanceAllG_recs, withNextG_g, hst, hg, partExists]

theorem applyCreset_models (s : State) (n : Part) : (applyCreset s).keys.models[n] = [] := by
  rw [applyCreset_eq]
  exact Vector.getElem_replicate n.isLt

/-- From s to t nothing the compute reset shows has changed: time, pins, partitions, model keys and its own record. -/
structure ShowsSame (s t : State) : Prop where
  now : t.now = s.now
  pins : t.pins = s.pins
  part : t.part = s.part
  models : t.keys.models = s.keys.models
  creset : t.recd.creset = s.recd.creset

theorem ShowsSame.refl (s : State) : ShowsSame s s := ⟨rfl, rfl, rfl, rfl, rfl⟩

theorem ShowsSame.trans {s t u : State} (h : ShowsSame s t) (g : ShowsSame t u) : ShowsSame s u :=
  ⟨g.now.trans h.now, g.pins.trans h.pins, g.part.trans h.part, g.models.trans h.models, g.creset.trans h.creset⟩

theorem ShowsSame.modCreset {s t : State} (h : ShowsSame s t) (f : CReset → CReset) :
    ShowsSame (modCreset f s) (modCreset f t) := ⟨h.now, h.pins, h.part, h.models, congrArg f h.creset⟩

theorem modCreset_keys (f : CReset → CReset) (s : State) : (modCreset f s).keys = s.keys := rfl

theorem modCreset_part (f : CReset → CReset) (s : State) : (modCreset f s).part = s.part := rfl

theorem modBox_showsSame (m : Mbx) (f : Mailbox → Mailbox) (s : State) : ShowsSame s (s.modBox m f) :=
  ⟨rfl, rfl, rfl, rfl, rfl⟩

theorem Posts.showsSame {s t : State} (h : Posts s t) : ShowsSame s t := by
  have hmodels := congrArg Keys.models h.keys
  exact ⟨h.now, h.pins, h.part, hmodels, h.creset⟩

theorem wakeNotices_showsSame (s : State) : ShowsSame s (wakeNotices s) := by
  unfold wakeNotices
  refine fold_keep (fun t => ShowsSame s t) _ (fun t m ht => ht.trans ?_) _ s (.refl s)
  dsimp only
  split
  · exact .trans (modBox_showsSame _ _ t) (raiseSeat_notes _ _ _).posts.showsSame
  · exact .refl t

/-- The record of the compute reset once it is over. -/
def cresetOver (c : CReset) : CReset := { c with phase := 0, job := none, ended := false, count := satInc c.count }

/-- The count rises, and the logs get their records. -/
theorem noteCreset_shows (s : State) :
    ShowsSame (modCreset (fun c => { c with count := satInc c.count }) s) (noteCreset s) :=
  .trans (cresetNote_notes 0x0502 _).posts.showsSame (hwNote_notes _ _ _).posts.showsSame

theorem closeCreset_shows (s : State) :
    ShowsSame (modCreset (fun c => { c with phase := 0, job := none, ended := false }) s) (closeCreset s) :=
  wakeNotices_showsSame _

theorem closeCreset_noteCreset_shows (s : State) :
    ShowsSame (modCreset cresetOver s) (closeCreset (noteCreset s)) :=
  .trans ((noteCreset_shows s).modCreset (fun c => { c with phase := 0, job := none, ended := false }))
    (closeCreset_shows (noteCreset s))

/-- R403 steps 3 to 5: the new generations and keys stay, the record is that of a reset that is over. -/
theorem finishCreset_shows (s : State) : ShowsSame (modCreset cresetOver (applyCreset s)) (finishCreset s) := by
  have hclosed := closeCreset_noteCreset_shows (applyCreset s)
  unfold finishCreset
  dsimp only
  split
  · exact hclosed.trans (finishJob_posts _ _ _ _).showsSame
  · exact hclosed

/-- What the end of the compute reset leaves (R403). -/
structure CresetEnded (s t : State) : Prop where
  now : t.now = s.now
  pins : t.pins = s.pins
  creset : t.recd.creset = cresetOver s.recd.creset
  models : ∀ n : Part, t.keys.models[n] = []
  generations : ∀ n : Part, t.part.recs[n].g = if partExists s n then s.part.recs[n].g + 1 else s.part.recs[n].g

theorem finishCreset_ended (s : State) : CresetEnded s (finishCreset s) := by
  have hshows : ShowsSame (modCreset cresetOver (applyCreset s)) (finishCreset s) := finishCreset_shows s
  obtain ⟨keys, part, happly⟩ := applyCreset_rekeyed s
  exact {
    now := hshows.now.trans (by rw [happly]; rfl)
    pins := hshows.pins.trans (by rw [happly]; rfl)
    creset := hshows.creset.trans (by rw [happly]; rfl)
    models := fun n => by rw [hshows.models, modCreset_keys]; exact applyCreset_models s n
    generations := fun n => by rw [hshows.part, modCreset_part]; exact applyCreset_g s n }

/-- Settles O33: the command by its checks, each step by its row, and the end by what finishCreset leaves. -/
theorem computeResetHandshake : Obligations.ComputeResetHandshake := by
  refine ⟨fun s u j hturn hseat hreserved hright hlc hpower hidle => ?_, fun s hup => ⟨fun h1 => ?_, fun h1 => ?_,
    fun h2 => ?_, fun h3 hended hrec => ⟨?_, ?_⟩⟩⟩
  · have hstate : (u.lc.state == lcTest || u.lc.state == lcIntegration || u.lc.state == lcFielded
        || u.lc.state == lcReturned) = true := by simpa [or_assoc] using hlc
    have hrunning : partPower u = true := by simpa [partPower] using hpower
    have hpass : Passes (computeResetChecks u j) := by
      simp [Passes, computeResetChecks, hseat, hreserved, hright, hstate, hrunning, hidle]
    have hnote := cresetNote_notes 0x0501 (cresetBegun j u)
    refine ⟨_, (exec_coreComputeReset hturn).trans (congrArg _ (startComputeReset_checked hpass)), ?_, ?_, ?_, ?_⟩
    · exact congrArg CReset.phase hnote.creset
    · exact congrArg CReset.job hnote.creset
    · exact congrArg CReset.seat hnote.creset
    · exact hnote.pins
  · rw [exec_cmpQuiesceAck hup h1]
    rfl
  · have hnote := cresetNote_notes 0x0503 (quiesceTimedOut s)
    refine ⟨_, exec_cmpQuiesceTimeout hup h1, congrArg CReset.phase hnote.creset, hnote.now,
      congrArg CReset.qto hnote.creset, ?_, hnote.pins⟩
    rw [hnote.creset, hnote.now]
    rfl
  · exact exec_rstComputeHoldEnd hup h2
  · have hend := finishCreset_ended (computeReady s)
    exact ⟨_, exec_cmpReady hup h3 hended hrec, congrArg CReset.phase hend.creset, congrArg CReset.count hend.creset,
      hend.pins, hend.models, hend.generations⟩
  · have hend := finishCreset_ended (readyTimedOut s)
    have hnote := readyTimedOut_notes s
    refine ⟨_, exec_cmpReadyTimeout hup h3 hended hrec, congrArg CReset.phase hend.creset, ?_, ?_,
      hend.now.trans hnote.now, hend.models, fun n => ?_⟩
    · rw [hend.creset, hnote.creset]
      rfl
    · rw [hend.creset, hnote.creset]
      rfl
    · rw [hend.generations, partExists, hnote.part]
      rfl

end Sys2Proof.Machine
end

section
/-! Ingest streams, HBM acknowledgements and the resident sweep (R76 to R80, R148, R342, R353, R354). -/

namespace Sys2Proof.Machine

/-! ## Stream chunks -/

/-- The load whose open stream carries this tag. -/
def streamOf (tag : BitVec 16) (s : State) : Option Load :=
  s.ing.loads.find? (fun l => l.phase == .streaming && l.tag == tag)

section

variable {s : State} {tag : BitVec 16} {first : Bool} {beats : Nat} {l : Load} (data : Bytes)

theorem exec_streamChunk (k : Lane) (h : strmRuns s = true) :
    exec (.streamChunk k tag first beats data) s = .next (takeChunk tag first beats data s) :=
  congrArg Host.Outcome.next (if_pos h)

theorem takeChunk_unknown (h : streamOf tag s = none) : takeChunk tag first beats data s = dropChunk tag s := by
  unfold streamOf at h
  rw [takeChunk, h]

/-- A chunk of an open stream: one that is malformed or that no longer is awaited is dropped, and one that finds both
buffers full cannot arrive (R76, R77). -/
theorem takeChunk_open (h : streamOf tag s = some l) : takeChunk tag first beats data s =
    if beats ≠ 257 || !first || envChunks l.env ≤ l.accepted then dropChunk tag s
    else if 2 ≤ buffered s l.job then s
    else submitUnit { owner := .chunk l.job l.accepted }
      (setLoad { l with accepted := l.accepted + 1, rereqs := 0, lastBeat := s.beat.lbeat,
                        chunks := l.chunks ++ [{ index := l.accepted, cipher := padTo 4112 data }] } s) := by
  unfold streamOf at h
  rw [takeChunk, h]

theorem takeChunk_dropped (h : streamOf tag s = some l)
    (hbad : beats ≠ 257 ∨ first = false ∨ envChunks l.env ≤ l.accepted) :
    takeChunk tag first beats data s = dropChunk tag s := by
  rw [takeChunk_open data h, if_pos]
  simpa [or_assoc] using hbad

theorem takeChunk_taken (h : streamOf tag s = some l) (hbeats : beats = 257) (hfirst : first = true)
    (hawaited : l.accepted < envChunks l.env) (hroom : buffered s l.job < 2) :
    takeChunk tag first beats data s = submitUnit { owner := .chunk l.job l.accepted }
      (setLoad { l with accepted := l.accepted + 1, rereqs := 0, lastBeat := s.beat.lbeat,
                        chunks := l.chunks ++ [{ index := l.accepted, cipher := padTo 4112 data }] } s) := by
  rw [takeChunk_open data h, if_neg (by simpa [hbeats, hfirst] using hawaited), if_neg (by omega)]

theorem exec_ingestChunkTimeout (h : streamOf tag s = some l) (hruns : strmRuns s = true)
    (hawaited : l.accepted < envChunks l.env) (hold : l.lastBeat.toNat + 2 ^ 20 ≤ lbeat s) :
    exec (.ingestChunkTimeout tag) s = .next (missingChunk l s) := by
  unfold streamOf at h
  have hexec : exec (.ingestChunkTimeout tag) s = execIngestChunkTimeout tag s := rfl
  rw [hexec, execIngestChunkTimeout, h]
  exact congrArg Host.Outcome.next (if_pos (by rw [hruns, decide_eq_true hawaited, decide_eq_true hold]; rfl))

end

/-! ## HBM acknowledgements -/

theorem exec_hbmWriteAck {s : State} (k : Lane) (err : Bool) (h : ctrlUp s = true) :
    exec (.hbmWriteAck k err) s = .next (hbmAck k err s) := congrArg Host.Outcome.next (if_pos h)

/-- One acknowledgement of the lane has been taken. -/
def ackTaken (k : Lane) (s : State) : State := { s with ing := { s.ing with hbm := hbmStep k s.ing.hbm } }

/-- An acknowledgement for a chunk of a load that still stands (R79). -/
theorem hbmAck_standing {s : State} {k : Lane} {w : HbmWait} {l : Load} {c : Chunk} (hfront : hbmFront s k = some w)
    (hload : loadOf (ackTaken k s) w.job = some l) (hchunk : chunkOf l w.index = some c) (err : Bool) :
    hbmAck k err s =
      if err then
        failLoad l 0x0A .fault (record { code := 0x0D03, seat := loadSeat (ackTaken k s) l,
                                         part := BitVec.ofNat 8 l.part.val,
                                         object := word (w.addr + 64 * (64 - w.left)) } (ackTaken k s))
      else if w.left ≤ 1 then foldChunks l.job (setLoad (setChunk { c with stage := .landed } l) (ackTaken k s))
      else ackTaken k s := by
  unfold ackTaken at hload ⊢
  rw [hbmAck, hfront]
  dsimp only
  rw [hload]
  dsimp only
  rw [hchunk]

/-- Settles O50: a chunk by the three equations of takeChunk, an acknowledgement by hbmAck_standing, a missing chunk by
its row. -/
theorem streamsAndHbm : Obligations.StreamsAndHbm := by
  refine fun s => ⟨fun hruns k tag first beats data => ?_, fun hup k w l c hfront => ?_, fun tag l => ?_⟩
  · rw [exec_streamChunk data k hruns]
    refine ⟨fun h => ?_, fun l h hbad => ?_, fun l h hbeats hfirst hawaited hroom => ?_⟩
    · rw [takeChunk_unknown data h]
    · rw [takeChunk_dropped data h hbad]
    · rw [takeChunk_taken data h hbeats hfirst hawaited hroom]
  · intro u hload hchunk
    have hack := hbmAck_standing hfront hload hchunk
    refine ⟨?_, fun hlast => ?_, fun hmore => ?_⟩
    · rw [exec_hbmWriteAck k true hup, hack, if_pos rfl]
      rfl
    · rw [exec_hbmWriteAck k false hup, hack, if_neg (by decide), if_pos hlast]
      rfl
    · rw [exec_hbmWriteAck k false hup, hack, if_neg (by decide), if_neg (by omega)]
      rfl
  · exact exec_ingestChunkTimeout

/-! ## The resident sweep -/

/-- SWEEP_CREDIT, once per beat (R148). -/
theorem exec_sweepCredit {s : State} (hup : ctrlUp s = true) (hdue : s.beat.lastCredit ≠ lbeat s) :
    exec .sweepCredit s = .next (
      let u := checkPass (addCredit s)
      if sweepRuns u then (List.range 16).foldl (fun s _ => sweepRead s) (beginPass u) else u) :=
  congrArg Host.Outcome.next (if_pos (by simpa [hup] using hdue))

section

variable {s : State}

theorem exec_sweepReadData (x : Bytes) (h : strmRuns s = true) : exec (.sweepReadData x) s = .next (sweepData x s) :=
  congrArg Host.Outcome.next (if_pos h)

theorem exec_sweepReadError (h : strmRuns s = true) : exec .sweepReadError s = .next (sweepError s) :=
  congrArg Host.Outcome.next (if_pos h)

/-- Data and errors of an abandoned pass are discarded by count (R354). -/
theorem sweepData_stale (x : Bytes) (h : s.ing.stale ≠ 0) :
    sweepData x s = { s with ing := { s.ing with stale := s.ing.stale - 1 } } := if_pos h

theorem sweepError_stale (h : s.ing.stale ≠ 0) :
    sweepError s = { s with ing := { s.ing with stale := s.ing.stale - 1 } } := if_pos h

variable {p : Pass}

/-- A pass whose plan is RESIDENT goes on. -/
theorem checkPass_resident (hp : s.ing.pass = some p) (h : s.ing.plans[p.plan].st = .resident) : checkPass s = s := by
  rw [checkPass, hp]
  exact if_pos h

theorem sweepData_pass (x : Bytes) (hfresh : s.ing.stale = 0) (hp : s.ing.pass = some p)
    (h : s.ing.plans[p.plan].st = .resident) (hread : p.received < p.issued) :
    sweepData x s = submitSweep { s with ing := { s.ing with
      pass := some { p with received := p.received + 1, data := p.data ++ [padTo 4096 x] } } } := by
  rw [sweepData, if_neg (by omega), checkPass_resident hp h, hp]
  exact if_neg (by omega)

theorem sweepError_pass (hfresh : s.ing.stale = 0) (hp : s.ing.pass = some p)
    (h : s.ing.plans[p.plan].st = .resident) (hread : p.received < p.issued) :
    sweepError s = endPass { p with received := p.received + 1 } .readError s := by
  rw [sweepError, if_neg (by omega), checkPass_resident hp h, hp]
  exact if_neg (by omega)

end

/-- Settles O51: the credit by its row, data and errors by the two equations of each. -/
theorem sweepMoves : Obligations.SweepMoves := by
  refine fun s => ⟨exec_sweepCredit, fun hruns hstale x => ?_, fun hruns hfresh p hp hresident hread x => ?_⟩
  · rw [exec_sweepReadData x hruns, exec_sweepReadError hruns, sweepData_stale x hstale, sweepError_stale hstale]
    exact ⟨rfl, rfl⟩
  · rw [exec_sweepReadData x hruns, exec_sweepReadError hruns, sweepData_pass x hfresh hp hresident hread,
      sweepError_pass hfresh hp hresident hread]
    exact ⟨rfl, rfl⟩

end Sys2Proof.Machine
end

section
/-! Key delivery to the link ports (R83, R85, R102, R192). -/

namespace Sys2Proof.Machine

section

variable {s : State} {k : Port} {m : KdMsg} {ms : List KdMsg}

theorem exec_kdAckTimeout (h : ctrlUp s = true) :
    exec (.kdAckTimeout k) s = .next (kdFail k { s with now := s.now + 2 * Config.microsecond }) :=
  congrArg Host.Outcome.next (if_pos h)

/-- The message at the head is done and the next one goes out (R83). -/
theorem kdNext_more {n : KdMsg} (h : (s.link k).kd = m :: n :: ms) : kdNext k s =
    emit (.keyMessage k n) (s.modLink k (fun l => { l with kd := n :: ms, attempts := 1 })) := by
  rw [kdNext, h]

theorem kdNext_last (h : (s.link k).kd = [m]) :
    kdNext k s = s.modLink k (fun l => { l with kd := [], attempts := 0 }) := by
  rw [kdNext, h]

theorem kdAcked_head (h : (s.link k).kd = m :: ms) :
    kdAcked k s = pumpOtp (if m.op = 2 then clearAcked k (kdNext k s) else kdNext k s) := by
  rw [kdAcked, h]

/-- The message goes out once more (R85). -/
theorem kdFail_again (h : (s.link k).kd = m :: ms) (ha : (s.link k).attempts < 3) : kdFail k s =
    emit (.keyMessage k m) (s.modLink k (fun l => { l with attempts := (s.link k).attempts + 1 })) := by
  rw [kdFail, h]
  exact if_pos ha

/-- The failed delivery is recorded and signalled. -/
def noteLost (k : Port) (s : State) : State := raiseCore irqLink (record { code := 0x0C03, object := word k.val } s)

theorem noteLost_link (k : Port) (s : State) : (noteLost k s).link k = s.link k := by
  have hnotes : Notes s (noteLost k s) := (record_notes _ _).trans (raiseCore_notes _ _)
  rw [State.link, hnotes.keys, State.link]

/-- After the third attempt the port's keys are cleared, or operation 0x02 is sent again (R85). -/
theorem kdFail_lost (h : (s.link k).kd = m :: ms) (ha : 3 ≤ (s.link k).attempts) : kdFail k s =
    if m.op = 1 then clearPort k ((noteLost k s).modLink k (fun l => { l with kd := [] }))
    else emit (.keyMessage k m) ((noteLost k s).modLink k (fun l => { l with attempts := 1 })) := by
  have hkd : ((noteLost k s).link k).kd = m :: ms := by rw [noteLost_link, h]
  have hfail : kdFail k s = kdGiveUp k s := by
    rw [kdFail, h]
    exact if_neg (Nat.not_lt.mpr ha)
  unfold noteLost at hkd
  rw [hfail, kdGiveUp, hkd]
  rfl

end

/-- Settles O53: an acknowledgement by kdAcked_head, a refusal and a silence by the two equations of kdFail. -/
theorem keyDelivery : Obligations.KeyDelivery := by
  intro k s m ms
  rw [exec_kdAck, exec_kdNack]
  refine ⟨fun hwatch => ⟨fbAnswer_watch _ hwatch, fbAnswer_watch _ hwatch⟩, fun hawake hup hkd => ?_⟩
  rw [fbAnswer_awake _ hup hawake, fbAnswer_awake _ hup hawake, exec_kdAckTimeout hup]
  have hlate : (({ s with now := s.now + 2 * Config.microsecond } : State).link k).kd = m :: ms := hkd
  refine ⟨?_, fun ha => ?_, fun ha => ?_⟩
  · rw [kdAcked_head hkd]
    cases ms with
    | nil => rw [kdNext_last hkd]
    | cons n ns => rw [kdNext_more hkd]
  · rw [kdFail_again hkd ha, kdFail_again hlate ha]
    exact ⟨rfl, rfl⟩
  · rw [kdFail_lost hkd ha, kdFail_lost hlate ha]
    exact ⟨rfl, rfl⟩

end Sys2Proof.Machine
end

section
/-! The swap protocol with the firewall units (R86, R88, R102, R368 to R371). -/

namespace Sys2Proof.Machine

/-! ## Shadow CRCs -/

/-- The swap once a unit's CRC is counted. -/
def crcCounted (i : Unit7) (crc : BitVec 32) (s : State) (w : Swap) : Swap :=
  { w with answered := i :: w.answered, differs := w.differs || crc != tableCrc s.part.shadow }

section

variable {s : State} {i : Unit7} {w : Swap} {crc : BitVec 32} (hswap : s.part.swap = some w) (hphase : w.phase = .crc)
  (hpresent : (unitsPresent s).contains i = true) (hfirst : w.answered.contains i = false)

include hswap hphase hpresent hfirst

/-- The first CRC of a unit that is asked for it (R368 step 3). -/
theorem shadowCrc_asked : shadowCrc i crc s =
    if !allUnits s (crcCounted i crc s w).answered then
      { s with part := { s.part with swap := some (crcCounted i crc s w) } }
    else if !(crcCounted i crc s w).differs then armSwap (crcCounted i crc s w) s
    else if w.rewritten then crcFailed (crcCounted i crc s w) s
    else askCrc { crcCounted i crc s w with rewritten := true, differs := false } (fbWriteShadow s) := by
  rw [shadowCrc, hswap]
  exact if_neg (by rw [hphase, hpresent, hfirst]; decide)

theorem shadowCrc_waits (hwait : allUnits s (crcCounted i crc s w).answered = false) :
    shadowCrc i crc s = { s with part := { s.part with swap := some (crcCounted i crc s w) } } := by
  rw [shadowCrc_asked hswap hphase hpresent hfirst, hwait]
  exact if_pos rfl

theorem shadowCrc_arms (hall : allUnits s (crcCounted i crc s w).answered = true)
    (hsame : (crcCounted i crc s w).differs = false) : shadowCrc i crc s = armSwap (crcCounted i crc s w) s := by
  rw [shadowCrc_asked hswap hphase hpresent hfirst, hall, hsame, if_neg (by decide), if_pos (by decide)]

/-- A first difference rewrites the shadow and asks again, a second one ends the swap. -/
theorem shadowCrc_differs (hall : allUnits s (crcCounted i crc s w).answered = true)
    (hdiffers : (crcCounted i crc s w).differs = true) : shadowCrc i crc s =
      if w.rewritten then crcFailed (crcCounted i crc s w) s
      else askCrc { crcCounted i crc s w with rewritten := true, differs := false } (fbWriteShadow s) := by
  rw [shadowCrc_asked hswap hphase hpresent hfirst, hall, hdiffers, if_neg (by decide), if_neg (by decide)]

end

/-! ## Arming -/

section

variable {s : State} {w : Swap} (hswap : s.part.swap = some w) (hphase : w.phase = .armed)

include hswap hphase

theorem modSwap_unitArmed {i : Unit7} (hfirst : w.answered.contains i = false) :
    modSwap (unitArmed i) s =
      { s with part := { s.part with swap := some { w with answered := i :: w.answered } } } := by
  have harmed : unitArmed i w = { w with answered := i :: w.answered } := if_pos ⟨hphase, by rw [hfirst]; decide⟩
  rw [modSwap, hswap, Option.map_some, harmed]

theorem unitLate_disarms {i : Unit7} (hnone : w.swapped = []) (hopen : w.adopted = false)
    (hpresent : (unitsPresent s).contains i = true) : unitLate i s = disarmSwap s := by
  rw [unitLate, hswap]
  exact if_pos (by rw [hphase, hnone, hopen, hpresent]; decide)

theorem exec_fbArmDeadline (hup : ctrlUp s = true) (hnone : w.swapped = []) (hopen : w.adopted = false)
    (hsilent : allUnits s w.answered = false) (hdue : w.beat.toNat ≤ lbeat s + 32) :
    exec .fbArmDeadline s = .next (disarmSwap s) := by
  have hexec : exec .fbArmDeadline s = execFbArmDeadline s := rfl
  rw [hexec, execFbArmDeadline, hswap]
  exact congrArg Host.Outcome.next (if_pos (by simp [hup, hphase, hnone, hopen, hsilent, hdue]))

/-! ## Swapping -/

/-- A unit swaps for the first time (R368 steps 5 and 6): Limcy adopts if it has not, and the last unit completes. -/
theorem unitSwapped_first {i : Unit7} (hfirst : w.swapped.contains i = false)
    (hpresent : (unitsPresent s).contains i = true) (late : Bool) (b : Word) :
    unitSwapped i late b s =
      let x : Swap := { w with swapped := i :: w.swapped, late := if late then w.late + 1 else w.late }
      let v := { s with part := { s.part with swap := some x } }
      let u := if late then
          raiseCore irqSwapLate (record { code := 0x0E03, object := word i.val, detail := wordBytes b } v)
        else v
      completeSwap (if w.adopted then u else adoptSwap x u) := by
  rw [unitSwapped, hswap]
  exact if_neg (by rw [hphase, hfirst, hpresent]; decide)

theorem exec_swapBeat (hup : ctrlUp s = true) (hopen : w.adopted = false) (hdue : w.beat.toNat ≤ lbeat s)
    (hmode : s.beat.mode = .locked ∨ w.swapped ≠ []) : exec .swapBeat s = .next (completeSwap (adoptSwap w s)) := by
  have hexec : exec .swapBeat s = execSwapBeat s := rfl
  rw [hexec, execSwapBeat, hswap]
  exact congrArg Host.Outcome.next (if_pos (by simpa [hup, hphase, hopen, hdue] using hmode))

end

theorem exec_teardownSwapRetry {s : State} {n : Part} {b : Word} (hup : ctrlUp s = true)
    (hpart : engInReset s .part = false) (hmode : s.beat.mode = .locked) (hretry : s.part.retryAt = some (n, b))
    (hdue : b.toNat ≤ lbeat s) : exec .teardownSwapRetry s = .next (teardownSwap n s) := by
  have hexec : exec .teardownSwapRetry s = execTeardownSwapRetry s := rfl
  rw [hexec, execTeardownSwapRetry, hretry]
  exact congrArg Host.Outcome.next (if_pos (by simp [hup, hpart, hmode, hdue]))

/-- Settles O54: each answer by the equation of its meaning, each due event by its row. -/
theorem swapProtocol : Obligations.SwapProtocol := by
  intro i s
  refine ⟨fun hwatch crc b => ?_, fun hup hawake => ⟨?_, fun w hswap => ?_⟩,
    fun hup w hswap hphase hopen hdue hmode => ?_, fun hup hpart hmode n b hretry hdue => ?_⟩
  · rw [exec_fbShadowCrcResponse, exec_fbArmed, exec_fbLate, exec_fbDisarmed, exec_fbSwapped, exec_fbSwappedLate]
    exact ⟨fbAnswer_watch _ hwatch, fbAnswer_watch _ hwatch, fbAnswer_watch _ hwatch, fbAnswer_watch _ hwatch,
      fbAnswer_watch _ hwatch, fbAnswer_watch _ hwatch⟩
  · exact fbAnswer_awake id hup hawake
  · refine ⟨fun hphase hpresent hfirst crc => ?_, fun hphase hfirst => ?_,
      fun hphase hnone hopen => ⟨fun hpresent => ?_, fun hsilent hdue => ?_⟩, fun hphase hfirst hpresent => ⟨fun b => ?_, fun b => ?_⟩⟩
    · rw [exec_fbShadowCrcResponse, fbAnswer_awake _ hup hawake]
      refine ⟨fun hwait => ?_, fun hall hsame => ?_, fun hall hdiffers hnew => ?_, fun hall hdiffers hold => ?_⟩
      · rw [shadowCrc_waits hswap hphase hpresent hfirst hwait, crcCounted]
      · rw [shadowCrc_arms hswap hphase hpresent hfirst hall hsame, crcCounted]
      · rw [shadowCrc_differs hswap hphase hpresent hfirst hall hdiffers, crcCounted, if_neg (by rw [hnew]; decide)]
      · rw [shadowCrc_differs hswap hphase hpresent hfirst hall hdiffers, crcCounted, if_pos hold]
    · rw [exec_fbArmed, fbAnswer_awake _ hup hawake, modSwap_unitArmed hswap hphase hfirst]
    · rw [exec_fbLate, fbAnswer_awake _ hup hawake, unitLate_disarms hswap hphase hnone hopen hpresent]
    · exact exec_fbArmDeadline hswap hphase hup hnone hopen hsilent hdue
    · rw [exec_fbSwapped, fbAnswer_awake _ hup hawake, unitSwapped_first hswap hphase hfirst hpresent]
      rfl
    · rw [exec_fbSwappedLate, fbAnswer_awake _ hup hawake, unitSwapped_first hswap hphase hfirst hpresent]
      rfl
  · exact exec_swapBeat hswap hphase hup hopen hdue hmode
  · exact exec_teardownSwapRetry hup hpart hmode hretry hdue

end Sys2Proof.Machine
end

section
/-! Jobs and results of a seat (R109 to R111, R119, R122, R123): what a write of SEAT_CMD_HDR, SEAT_RELEASE and
SEAT_ABORT does in each case of its checks, and what a freed result entry reads as. -/

namespace Sys2Proof.Machine

/-! ## The three writes -/

section

variable {n : Seat} {rq : Req} {s : State} (h : Served n rq s)

include h

theorem exec_seatCmdHdr_served : exec (.seatCmdHdr n rq) s = .next (answered rq 0 (submitCmd n rq.data s)) := by
  rw [exec_seatCmdHdr, serve_page h _ (by decide) (by decide)]
  simp only [writeSeat]

theorem exec_seatRelease_served : exec (.seatRelease n rq) s = .next (answered rq 0 (releaseEntry n rq.data s)) := by
  rw [exec_seatRelease, serve_page h _ (by decide) (by decide)]
  simp only [writeSeat]

theorem exec_seatAbort_served : exec (.seatAbort n rq) s = .next (answered rq 0 (abortEntry n rq.data s)) := by
  rw [exec_seatAbort, serve_page h _ (by decide) (by decide)]
  simp only [writeSeat]

end

/-! ## Submission, in the order of Table 3-9 -/

section

variable {n : Seat} {data : Word} {s : State}

theorem submitCmd_absent (hseat : seatExists s n = false) : submitCmd n data s =
    noteRefused n (BitVec.ofNat 16 (fld data 48 16)) (refuseCmd n .state 0 s) := by
  rw [submitCmd, hseat]
  exact if_pos rfl

theorem submitCmd_unknown (hseat : seatExists s n = true)
    (hop : opOfCode (BitVec.ofNat 16 (fld data 48 16)) = none) : submitCmd n data s = refuseCmd n .badOpcode 0 s := by
  rw [submitCmd, hseat, hop]
  exact if_neg (by decide)

variable {o : Op} (hseat : seatExists s n = true) (hop : opOfCode (BitVec.ofNat 16 (fld data 48 16)) = some o)

include hseat hop

theorem submitCmd_full (hfull : freeEntry (s.seat n) (classOf o) = none) :
    submitCmd n data s = refuseBusy n (classOf o) s := by
  rw [submitCmd, hseat, hop, if_neg (by decide)]
  dsimp only
  rw [hfull]

theorem submitCmd_accepted {e : EntryIx} (hfree : freeEntry (s.seat n) (classOf o) = some e) :
    submitCmd n data s = afterAccept n o e (acceptCmd n o (BitVec.ofNat 16 (fld data 32 16)) e s) := by
  rw [submitCmd, hseat, hop, if_neg (by decide)]
  dsimp only
  rw [hfree]

end

/-- A seat that holds a completed result of the class can free an entry itself: hint 0 (R119). -/
theorem refuseBusy_done {n : Seat} {c : QClass} {s : State} (hdone : hasDone (s.seat n) c = true) :
    refuseBusy n c s = refuseCmd n .busy 0 s := if_pos hdone

/-- Without one the hint is Limcy's estimate, of at least one unit and within its field (R119). -/
theorem refuseBusy_estimate {n : Seat} {c : QClass} {s t : State} {w : Word} (hdone : hasDone (s.seat n) c = false)
    (hdraw : drawWord s = (w, t)) : ∃ hint, 1 ≤ hint ∧ hint ≤ 0x7FF ∧ refuseBusy n c s = refuseCmd n .busy hint t := by
  refine ⟨w.toNat % 0x7FF + 1, by omega, by omega, ?_⟩
  rw [refuseBusy, hdone, hdraw]
  exact if_neg (by decide)

/-- Settles O10: each outcome is the equation of SEAT_CMD_HDR under the checks of Table 3-9 passed so far. -/
theorem submissionOutcomes : Obligations.SubmissionOutcomes := by
  refine ⟨fun n rq s o e h hseat hop hfree => ?_, fun n rq s h => ⟨fun hseat => ?_, fun hseat hop => ?_,
    fun o hseat hop hfull hdone => ?_, fun o w t hseat hop hfull hdone hdraw => ?_⟩⟩
  · rw [exec_seatCmdHdr_served h, submitCmd_accepted hseat hop hfree]
    rfl
  · rw [exec_seatCmdHdr_served h, submitCmd_absent hseat]
    rfl
  · rw [exec_seatCmdHdr_served h, submitCmd_unknown hseat hop]
    rfl
  · rw [exec_seatCmdHdr_served h, submitCmd_full hseat hop hfull, refuseBusy_done hdone]
    rfl
  · obtain ⟨hint, hpos, hmax, hbusy⟩ := refuseBusy_estimate hdone hdraw
    refine ⟨hint, hpos, hmax, ?_⟩
    rw [exec_seatCmdHdr_served h, submitCmd_full hseat hop hfull, hbusy]
    rfl

/-! ## Release -/

/-- SEAT_DONE has the bit of each completed entry. -/
theorem doneWord_getLsbD (p : SeatPage) (i : Fin 32) : (doneWord p).getLsbD i.val = decide (p.entries[i].st = .done) := by
  let l : List (Fin 32) := (indices 32).filter (fun i => p.entries[i].st = .done)
  have hsum : l.foldl (fun a (i : Fin 32) => a + 2 ^ i.val) 0 = ((l.map Fin.val).map (2 ^ ·)).sum := by
    simp only [List.sum_eq_foldl, List.foldl_map]
  have hsorted : (l.map Fin.val).SortedLT :=
    (((List.sortedLT_finRange 32).pairwise.filter _).map Fin.val (fun _ _ h => h)).sortedLT
  have hbit : (l.foldl (fun a (i : Fin 32) => a + 2 ^ i.val) 0).testBit i.val = true ↔ p.entries[i].st = .done := by
    rw [hsum, ← Nat.mem_bitIndices, Nat.bitIndices_sum_map_two_pow hsorted]
    simp [l, indices, Fin.val_inj]
  rw [doneWord, word, BitVec.getLsbD_ofNat, decide_eq_true (by omega), Bool.true_and, Bool.eq_iff_iff, hbit,
    decide_eq_true_iff]

theorem readSeat_done (n : Seat) (s : State) : readSeat n 0x0C0 s = doneWord (s.seat n) := by simp only [readSeat]

/-- The words of a page from offset 0x400 on are its result entries, eight words each (Table 3-2). -/
theorem readSeat_entry (n : Seat) (i : Fin 32) (k : Fin 8) (s : State) :
    readSeat n (0x400 + 0x40 * i.val + 8 * k.val) s = entryWord (s.seat n).entries[i] k.val := by
  have hi : (0x400 + 0x40 * i.val + 8 * k.val - 0x400) / 64 = i.val := by omega
  have hk : (0x400 + 0x40 * i.val + 8 * k.val - 0x400) / 8 % 8 = k.val := by omega
  unfold readSeat
  dsimp only
  split
  case h_15 => rw [if_neg (by omega), if_pos (by omega)]; simp only [hi, hk, Fin.ofNat_val_eq_self]
  all_goals omega

/-- A free entry reads zero (R122). -/
theorem entryWord_free (k : Nat) : entryWord {} k = 0 := by
  unfold entryWord
  split <;> rfl

section

variable {n : Seat} {data : Word} {s : State}

theorem releaseEntry_done {x : Entry} (hjob : namedJob (s.seat n) data = some x) (hst : x.st = .done) :
    releaseEntry n data s =
      s.modSeat n (fun p => { p with entries := vset p.entries (entryIx (namedClass data) (namedEntry data)) {} }) := by
  rw [releaseEntry, hjob]
  exact if_pos hst

theorem releaseEntry_other (hst : ∀ x, namedJob (s.seat n) data = some x → x.st ≠ .done) :
    releaseEntry n data s = raiseFault n faultHandle s := by
  rw [releaseEntry]
  split
  · next x hjob => exact if_neg (hst x hjob)
  · rfl

end

/-- Settles O11: a freed entry is the empty one, which reads zero and has no bit in SEAT_DONE. -/
theorem releaseFreesResult : Obligations.ReleaseFreesResult := by
  refine fun n rq s h => ⟨fun x hjob hst => ?_, fun hst => ?_⟩
  · intro i t
    have hentry : (t.seat n).entries[i] = {} := by
      have hseat : t.seat n = { s.seat n with entries := vset (s.seat n).entries i {} } := read_modSeat s n _
      rw [hseat, vset_self]
    refine ⟨?_, fun k => ?_, ?_⟩
    · rw [exec_seatRelease_served h, releaseEntry_done hjob hst]
    · rw [readSeat_entry, hentry, entryWord_free]
    · rw [readSeat_done, doneWord_getLsbD, hentry]
      rfl
  · rw [exec_seatRelease_served h, releaseEntry_other hst]
    rfl

/-! ## Abort -/

section

variable {n : Seat} {data : Word} {s : State}

theorem abortEntry_unnamed (hjob : namedJob (s.seat n) data = none) :
    abortEntry n data s = raiseFault n faultHandle s := by
  rw [abortEntry, hjob]

variable {x : Entry} (hjob : namedJob (s.seat n) data = some x)

include hjob

theorem abortEntry_queued (hst : x.st = .queued) :
    abortEntry n data s = postEntry n (namedClass data) (namedEntry data) .aborted noWords s := by
  rw [abortEntry, hjob]
  dsimp only
  rw [hst]

theorem abortEntry_done (hst : x.st = .done) : abortEntry n data s = s := by
  rw [abortEntry, hjob]
  dsimp only
  rw [hst]

theorem abortEntry_started {id : Nat} {j : Job} (hst : x.st = .started id) (hid : s.job? id = some j) :
    abortEntry n data s = if canAbort s j then pumpOtp (abortJob j s) else s := by
  rw [abortEntry, hjob]
  dsimp only
  rw [hst]
  dsimp only
  rw [hid]

end

/-- Settles O12: each state of the named entry has its equation of SEAT_ABORT. -/
theorem abortWithdrawsJob : Obligations.AbortWithdrawsJob := by
  refine fun n rq s h => ⟨fun hjob => ?_, fun x hjob => ⟨fun hst => ?_, fun hst => ?_, fun id j hst hid => ?_⟩⟩
  · rw [exec_seatAbort_served h, abortEntry_unnamed hjob]
    rfl
  · rw [exec_seatAbort_served h, abortEntry_queued hjob hst]
  · rw [exec_seatAbort_served h, abortEntry_done hjob hst]
  · rw [exec_seatAbort_served h, abortEntry_started hjob hst hid]

end Sys2Proof.Machine
end

section
/-! Mailboxes (R127 to R130): a post by the checks of Table 3-15, and how a receiver empties a mailbox. -/

namespace Sys2Proof.Machine

/-! ## The registers of a mailbox (Table 3-14) -/

/-- A register of the mailbox block, which begins at 0x03_0000. -/
def boxAddr (m : Mbx) (off : Nat) : Nat := 0x30000 + 0x20 * m.val + off

section

variable (n : Seat) (m : Mbx) (data : Word) (s : State) {off : Nat}

theorem boxAddr_block (hoff : off < 0x20) : boxAddr m off / 0x1000 = 0x30 := by unfold boxAddr; omega

theorem boxAddr_offset (hoff : off < 0x20) : boxAddr m off % 0x20 = off := by unfold boxAddr; omega

theorem boxAddr_number (hoff : off < 0x20) : Fin.ofNat 128 (boxAddr m off % 0x1000 / 0x20) = m := by
  have hm : boxAddr m off % 0x1000 / 0x20 = m.val := by unfold boxAddr; omega
  rw [hm, Fin.ofNat_val_eq_self]

theorem boxAddr_low (hoff : off < 0x20) : boxAddr m off < 0x40000 := by unfold boxAddr; omega

theorem readWord_box (hoff : off < 0x20) : readWord n (boxAddr m off) s = readBox m (off / 8) n s := by
  have hcore : ¬ boxAddr m off < 0x10 := by unfold boxAddr; omega
  have hreg : boxAddr m off % 0x1000 % 0x20 = off := by unfold boxAddr; omega
  simp only [readWord, pageOf_low (boxAddr_low m hoff), if_neg hcore, boxAddr_block m hoff, boxAddr_number m hoff, hreg]

theorem readEffect_boxInfo : readEffect n (boxAddr m 8) s = infoReadEffect m n s := by
  have hlow : 0x30000 ≤ boxAddr m 8 := by unfold boxAddr; omega
  have hblocked : blockedOf (boxAddr m 8) = none := if_neg (by omega)
  unfold readEffect
  rw [pageOf_low (boxAddr_low m (by decide))]
  dsimp only
  split
  case h_5 =>
    rw [hblocked]
    dsimp only
    rw [if_pos ⟨boxAddr_block m (by decide), boxAddr_offset m (by decide)⟩, boxAddr_number m (by decide)]
  all_goals omega

theorem writeBlock_box (hoff : off < 0x20) : writeBlock n (boxAddr m off) data s =
    if off = 0x10 then postNotice m n data s else if off = 0x18 then stateWriteEffect m n data s else s := by
  have hlow : 0x30000 ≤ boxAddr m off := by unfold boxAddr; omega
  unfold writeBlock
  split
  case h_7 =>
    rw [if_neg (by omega), if_neg (by omega), if_pos (boxAddr_block m hoff)]
    simp only [boxAddr_offset m hoff, boxAddr_number m hoff]
  all_goals omega

end

section

variable {n : Seat} {rq : Req} {s : State} (h : Served n rq s) (m : Mbx)

include h

/-- A served write of a mailbox register: POST and STATE do something. -/
theorem serve_boxWrite {off : Nat} (hoff : off < 0x20) (h8 : off % 8 = 0) :
    serve (reqAccess true (boxAddr m off) rq) s = answered rq 0
      (if off = 0x10 then postNotice m n rq.data s else if off = 0x18 then stateWriteEffect m n rq.data s else s) := by
  have hpage := pageOf_low (boxAddr_low m hoff)
  rw [serve_wr h _ (by have := boxAddr_low m hoff; omega) (by unfold boxAddr; omega) (.inl hpage), writeWide, hpage,
    ← writeBlock_box n m rq.data s hoff]

theorem exec_mbxPost_served : exec (.mbxPost m rq) s = .next (answered rq 0 (postNotice m n rq.data s)) := by
  have hexec : exec (.mbxPost m rq) s = .next (serve (reqAccess true (0x30010 + 0x20 * m.val) rq) s) := rfl
  have haddr : 0x30010 + 0x20 * m.val = boxAddr m 0x10 := by unfold boxAddr; omega
  rw [hexec, haddr, serve_boxWrite h m (by decide) (by decide), if_pos rfl]

theorem exec_mbxEmpty_served : exec (.mbxEmpty m rq) s = .next (answered rq 0 (stateWriteEffect m n rq.data s)) := by
  have hexec : exec (.mbxEmpty m rq) s = .next (serve (reqAccess true (0x30018 + 0x20 * m.val) rq) s) := rfl
  have haddr : 0x30018 + 0x20 * m.val = boxAddr m 0x18 := by unfold boxAddr; omega
  rw [hexec, haddr, serve_boxWrite h m (by decide) (by decide), if_neg (by decide), if_pos rfl]

theorem exec_mbxInfoRead_served : exec (.mbxInfoRead m rq) s =
    .next (answered rq (if isReceiver s m n then infoWord (s.box m) else 0) (infoReadEffect m n s)) := by
  have hexec : exec (.mbxInfoRead m rq) s = .next (serve (reqAccess false (0x30008 + 0x20 * m.val) rq) s) := rfl
  have haddr : 0x30008 + 0x20 * m.val = boxAddr m 8 := by unfold boxAddr; omega
  rw [hexec, haddr, serve_rd_low h _ (boxAddr_low m (by decide)) (by unfold boxAddr; omega) (by unfold boxAddr; omega),
    readWord_box n m s (by decide), readEffect_boxInfo]
  rfl

end

/-! ## Posting -/

/-- The sender learns the outcome of its post in SEAT_POST_STATUS (R128). -/
def tellPost (n : Seat) (m : Mbx) (st : Status) (s : State) : State :=
  s.modSeat n (fun p => { p with postStatus := word (m.val * 2 ^ 16 + (statusCode st).toNat) })

/-- A post to a receiver that is not there is recorded (Table 3-15). -/
def recordPost (n : Seat) (m : Mbx) (s : State) : State :=
  recordLimited (.post n m)
    { code := 0x0F01, seat := stampOf n, part := partByte n, status := statusCode .state, object := word m.val }
    (tellPost n m .state s)

section

variable {n : Seat} {m : Mbx} {data : Word} {s : State}

theorem postStatusOf_badReceiver (hrecv : 66 < fld data 0 7) : postStatusOf s m data = .badArgument := if_pos hrecv

variable (hrecv : fld data 0 7 ≤ 66)

include hrecv

theorem postStatusOf_full (hfull : (s.box m).full = true) : postStatusOf s m data = .busy := by
  rw [postStatusOf, if_neg (by omega), if_pos hfull]

variable (hempty : (s.box m).full = false)

include hempty

/-- Past the first two checks the receiver's reachability decides (Table 3-16). -/
theorem postStatusOf_absent (hreach : reach s (seatNo (fld data 0 7)) = .absent) :
    postStatusOf s m data = .state := by
  rw [postStatusOf, if_neg (by omega), hempty, if_neg (by decide), hreach]

theorem postStatusOf_sleeping (hreach : reach s (seatNo (fld data 0 7)) = .sleeping) :
    postStatusOf s m data = if data.getLsbD 8 then .state else .pending := by
  rw [postStatusOf, if_neg (by omega), hempty, if_neg (by decide), hreach]

theorem postStatusOf_ready (hreach : reach s (seatNo (fld data 0 7)) = .ready) :
    postStatusOf s m data = .ok := by
  rw [postStatusOf, if_neg (by omega), hempty, if_neg (by decide), hreach]

end

section

variable {n : Seat} {m : Mbx} {data : Word} {s : State}

theorem postNotice_badArgument (h : postStatusOf s m data = .badArgument) :
    postNotice m n data s = tellPost n m .badArgument s := by
  rw [postNotice, h]
  rfl

theorem postNotice_busy (h : postStatusOf s m data = .busy) : postNotice m n data s = tellPost n m .busy s := by
  rw [postNotice, h]
  rfl

theorem postNotice_state (h : postStatusOf s m data = .state) : postNotice m n data s = recordPost n m s := by
  rw [postNotice, h]
  rfl

theorem postNotice_pending (h : postStatusOf s m data = .pending) : postNotice m n data s =
    (tellPost n m .pending s).modBox m (fun _ => noticeOf n (s.seat n).postPtr data true) := by
  rw [postNotice, h]
  rfl

theorem postNotice_ok (h : postStatusOf s m data = .ok) : postNotice m n data s =
    raiseSeat (seatNo (fld data 0 7)) irqNotice
      ((tellPost n m .ok s).modBox m (fun _ => noticeOf n (s.seat n).postPtr data false)) := by
  rw [postNotice, h]
  rfl

end

/-- Settles O15: the checks of Table 3-15 give the status, and the status gives the effect of the post. -/
theorem postStatusAndNotice : Obligations.PostStatusAndNotice := by
  intro n m rq s h
  refine ⟨fun hrecv => ?_, fun hrecv hfull => ?_, fun hrecv hempty => ?_⟩
  · rw [exec_mbxPost_served h, postNotice_badArgument (postStatusOf_badReceiver hrecv)]
    rfl
  · rw [exec_mbxPost_served h, postNotice_busy (postStatusOf_full hrecv hfull)]
    rfl
  · rw [exec_mbxPost_served h]
    refine ⟨fun hreach => ?_, fun hreach hnow => ?_, fun hreach hwait => ?_, fun hreach => ?_⟩
    · rw [postNotice_state (postStatusOf_absent hrecv hempty hreach)]
      rfl
    · rw [postNotice_state ((postStatusOf_sleeping hrecv hempty hreach).trans (if_pos hnow))]
      rfl
    · rw [postNotice_pending ((postStatusOf_sleeping hrecv hempty hreach).trans (if_neg (by rw [hwait]; decide)))]
      rfl
    · rw [postNotice_ok (postStatusOf_ready hrecv hempty hreach)]
      rfl

/-! ## Emptying -/

section

variable {n : Seat} {m : Mbx} {s : State}

/-- A read-acknowledged mailbox leaves its sender a bit and no interrupt (R130). -/
theorem markEmptied_lower (hm : m.val < 64) : markEmptied m n s =
    if seatExists s n then s.modSeat n (fun p => { p with emptied0 := p.emptied0 ||| word (2 ^ m.val) }) else s := by
  cases hseat : seatExists s n <;> simp [markEmptied, hseat, hm]

/-- An empty-interrupt mailbox leaves its sender a bit and the interrupt (R130). -/
theorem markEmptied_upper (hm : 64 ≤ m.val) : markEmptied m n s =
    if seatExists s n then
      raiseSeat n irqEmptied (s.modSeat n (fun p => { p with emptied1 := p.emptied1 ||| word (2 ^ (m.val - 64)) }))
    else s := by
  cases hseat : seatExists s n <;> simp [markEmptied, hseat, hm]

theorem infoReadEffect_empties (hrecv : isReceiver s m n = true) (hm : m.val < 64) :
    infoReadEffect m n s = emptyBox m s := if_pos (by simp [hrecv, hm])

theorem infoReadEffect_closed (h : isReceiver s m n = false ∨ 64 ≤ m.val) : infoReadEffect m n s = s :=
  if_neg (by rcases h with h | h <;> simp [h])

theorem stateWriteEffect_empties {data : Word} (hrecv : isReceiver s m n = true) (hm : 64 ≤ m.val)
    (hbit : data.getLsbD 63 = true) : stateWriteEffect m n data s = emptyBox m s := if_pos (by simp [hrecv, hm, hbit])

theorem stateWriteEffect_ignored {data : Word} (h : isReceiver s m n = false ∨ m.val < 64 ∨ data.getLsbD 63 = false) :
    stateWriteEffect m n data s = s := if_neg (by rcases h with h | h | h <;> simp [h, -BitVec.getLsbD_eq_getElem])

end

/-- Settles O16: the receiver's read and write empty the mailbox by its kind, and any other access keeps the state. -/
theorem receiverEmptiesMailbox : Obligations.ReceiverEmptiesMailbox := by
  intro n m rq s h
  refine ⟨fun hrecv hm => ?_, fun hrecv hm => ?_, fun hother => ?_, fun hrecv hm hbit => ?_, fun hkeep => ?_⟩
  · rw [exec_mbxInfoRead_served h, if_pos hrecv, infoReadEffect_empties hrecv hm, emptyBox, markEmptied_lower hm]
    rfl
  · rw [exec_mbxInfoRead_served h, if_pos hrecv, infoReadEffect_closed (.inr hm)]
  · rw [exec_mbxInfoRead_served h, if_neg (by simp [hother]), infoReadEffect_closed (.inl hother)]
  · rw [exec_mbxEmpty_served h, stateWriteEffect_empties hrecv hm hbit, emptyBox, markEmptied_upper hm]
    rfl
  · rw [exec_mbxEmpty_served h, stateWriteEffect_ignored hkeep]

end Sys2Proof.Machine
end

section
/-! The sideband ways to Limcy (R98, R129, R133, R208, R431): access frames, LCAUTH and the I3C target. -/

namespace Sys2Proof.Machine

/-! ## Access frames and LCAUTH -/

/-- A frame of Limcy's is executed or recorded, when its path is heard. -/
theorem exec_accessFrame_heard {p : MctpPath} {f : Bytes} {s : State} (hopen : pathOpen s p = true)
    (hframe : isFrame f = true) : exec (.accessFrame p f) s = .next (accessFrame p f s) := by
  have hexec : exec (.accessFrame p f) s = execAccessFrame p f s := rfl
  rw [hexec, execAccessFrame, hopen, hframe]
  rfl

section

variable {s : State} (hup : s.core.ctrlReset = false) (hawake : inWatch s = false) (hpower : s.core.power ≠ .off)

include hup hawake hpower

/-- Out of reset, Watch and Off the sideband ports are heard. -/
theorem sideband_heard : (s.core.ctrlReset || inWatch s || s.core.power == .off) = false := by
  simp [hup, hawake, hpower]

theorem exec_lcauth_heard (dr : BitVec 128) : exec (.lcauth dr) s =
    .next { (runEntry bmc (bvBytes dr) s).2 with lcauth := bytesBv 128 (runEntry bmc (bvBytes dr) s).1 } := by
  have hexec : exec (.lcauth dr) s = execLcauth dr s := rfl
  rw [hexec, execLcauth, sideband_heard hup hawake hpower]
  rfl

theorem exec_i3cEntdaa_heard : exec .i3cEntdaa s = .next (wakeNotices { s with i3cAddressed := true }) := by
  have hexec : exec .i3cEntdaa s = execI3cEntdaa s := rfl
  rw [hexec, execI3cEntdaa, sideband_heard hup hawake hpower]
  rfl

end

/-! ## The in-band interrupt at bus-free (R431) -/

section

variable {s : State} (haddr : s.i3cAddressed = true) (hwait : s.ibiWaiting = true)

include haddr hwait

theorem requestIbi_again : requestIbi s = emit (.ibi (ibiByte (s.seat bmc))) s := by
  have hsame : ({ s with ibiWaiting := true } : State) = s := by rw [← hwait]
  rw [requestIbi, hsame]
  exact if_pos haddr

/-- At bus-free a request that waits ends or is made again. -/
theorem exec_i3cBusFree_waiting (hup : s.core.ctrlReset = false) (hawake : inWatch s = false) (acked : Bool) :
    exec (.i3cBusFree acked) s = .next
      (if acked then { s with ibiWaiting := false }
       else if isPending (s.seat bmc) then emit (.ibi (ibiByte (s.seat bmc))) s else { s with ibiWaiting := false }) := by
  have hexec : exec (.i3cBusFree acked) s = execI3cBusFree acked s := rfl
  rw [hexec, execI3cBusFree, hup, hawake, haddr, hwait, requestIbi_again haddr hwait]
  rfl

end

/-- Settles O22: each port by the equation of its row under the conditions in which it is heard. -/
theorem sidebandAccess : Obligations.SidebandAccess := by
  refine ⟨⟨fun p f s hopen hframe => ?_, fun dr s hup hawake hpower => exec_lcauth_heard hup hawake hpower dr⟩,
    fun s hup hawake hpower => ⟨exec_i3cEntdaa_heard hup hawake hpower,
      fun haddr hwait => ⟨?_, fun hirq => ?_, fun hirq => ?_⟩⟩⟩
  · rw [exec_accessFrame_heard hopen hframe]
    exact ⟨fun hgood => congrArg _ (if_pos hgood), fun hbad => congrArg _ (if_neg hbad)⟩
  · rw [exec_i3cBusFree_waiting haddr hwait hup hawake, if_pos rfl]
  · rw [exec_i3cBusFree_waiting haddr hwait hup hawake, if_neg (by decide), if_pos hirq]
  · rw [exec_i3cBusFree_waiting haddr hwait hup hawake, if_neg (by decide), if_neg (by simp [hirq])]

end Sys2Proof.Machine
end

section
/-! Edges of the beat (R140 to R142, Table 4-4): what noting an edge keeps, what the adoption rule does, and what an
edge does in each beat mode when no rebase waits for it. -/

namespace Sys2Proof.Machine

/-! ## Noting an edge -/

/-- From b to c the beat state, the count and the jumps are kept; measurements, error counters, ACQ and the edge last
seen may differ. -/
structure KeepsCount (b c : Beat) : Prop where
  mode : c.mode = b.mode
  epoch : c.epoch = b.epoch
  lbeat : c.lbeat = b.lbeat
  tEdge : c.tEdge = b.tEdge
  relock : c.relock = b.relock
  backward : c.backward = b.backward
  totFwd : c.totFwd = b.totFwd
  totBack : c.totBack = b.totBack

theorem KeepsCount.trans {b c d : Beat} (h : KeepsCount b c) (g : KeepsCount c d) : KeepsCount b d :=
  ⟨g.mode.trans h.mode, g.epoch.trans h.epoch, g.lbeat.trans h.lbeat, g.tEdge.trans h.tEdge, g.relock.trans h.relock,
    g.backward.trans h.backward, g.totFwd.trans h.totFwd, g.totBack.trans h.totBack⟩

section

variable (b : Beat) (count : Word) (lock : Bool) (t : Nat) (k : EdgeClass)

theorem measureEdge_eq : ∃ is p, measureEdge b t k = { b with onTime := is, period := p } := by
  unfold measureEdge
  split
  · exact ⟨b.onTime, b.period, rfl⟩
  · dsimp only
    split
    · exact ⟨_, _, rfl⟩
    · exact ⟨b.onTime, b.period, rfl⟩

theorem countOff_eq (off : Bool) : ∃ n m, countOff off b = { b with offtime := n, totOfftime := m } := by
  cases off
  · exact ⟨b.offtime, b.totOfftime, rfl⟩
  · exact ⟨_, _, rfl⟩

theorem countBad_eq (bad : Bool) : ∃ n m, countBad bad b = { b with badcount := n, totBadcount := m } := by
  cases bad
  · exact ⟨b.badcount, b.totBadcount, rfl⟩
  · exact ⟨_, _, rfl⟩

/-- Measuring and judging an edge keep the count and, so far, ACQ. -/
theorem countEdge_measureEdge_keeps : KeepsCount b (countEdge (measureEdge b t k) count k)
    ∧ (countEdge (measureEdge b t k) count k).acq = b.acq := by
  obtain ⟨is, p, hmeasure⟩ := measureEdge_eq b t k
  unfold countEdge
  rw [hmeasure]
  obtain ⟨n, m, hoff⟩ := countOff_eq { b with onTime := is, period := p }
    (!k.intervalOk || (b.mode != .none && !k.inWindow))
  dsimp only at hoff ⊢
  rw [hoff]
  obtain ⟨x, y, hbad⟩ := countBad_eq { b with onTime := is, period := p, offtime := n, totOfftime := m }
    (if b.missedSince then count != k.slot else !k.countOk)
  rw [hbad]
  exact ⟨⟨rfl, rfl, rfl, rfl, rfl, rfl, rfl, rfl⟩, rfl⟩

theorem countAcq_keeps (valid : Bool) : KeepsCount b (countAcq b t valid) := by
  cases valid <;> exact ⟨rfl, rfl, rfl, rfl, rfl, rfl, rfl, rfl⟩

theorem countAcq_acq (valid : Bool) : (countAcq b t valid).acq = if valid then min 16 (b.acq + 1) else 0 := by
  cases valid <;> rfl

/-- The beat once an edge is measured, counted and kept as the last one. -/
def notedBeat : Beat :=
  { countAcq (countEdge (measureEdge b t (classifyEdge b count lock t)) count (classifyEdge b count lock t)) t
      (classifyEdge b count lock t).acqValid with
    inputLock := lock
    prev := some { count := count, time := t, valid := (classifyEdge b count lock t).acqValid,
                   onTime := (classifyEdge b count lock t).onTime }
    missedSince := false }

theorem notedBeat_keeps : KeepsCount b (notedBeat b count lock t) := by
  obtain ⟨hkeeps, -⟩ := countEdge_measureEdge_keeps b count t (classifyEdge b count lock t)
  have hacq := hkeeps.trans (countAcq_keeps _ t (classifyEdge b count lock t).acqValid)
  exact ⟨hacq.mode, hacq.epoch, hacq.lbeat, hacq.tEdge, hacq.relock, hacq.backward, hacq.totFwd, hacq.totBack⟩

/-- ACQ counts the acquisition-valid edges in a row up to 16 (R141). -/
theorem notedBeat_acq : (notedBeat b count lock t).acq =
    if (classifyEdge b count lock t).acqValid then min 16 (b.acq + 1) else 0 := by
  obtain ⟨-, hsame⟩ := countEdge_measureEdge_keeps b count t (classifyEdge b count lock t)
  have hcount := countAcq_acq (countEdge (measureEdge b t (classifyEdge b count lock t)) count
    (classifyEdge b count lock t)) t (classifyEdge b count lock t).acqValid
  rw [hsame] at hcount
  exact hcount

/-- ACQ becomes 16 with this edge. -/
def becomes16 : Bool := (notedBeat b count lock t).acq == 16 && b.acq != 16

variable {b count lock t}

theorem becomes16_sixteenth (hvalid : (classifyEdge b count lock t).acqValid = true) (h15 : b.acq = 15) :
    becomes16 b count lock t = true := by
  simp [becomes16, notedBeat_acq, hvalid, h15]

theorem notedBeat_acq_invalid (hinvalid : (classifyEdge b count lock t).acqValid = false) :
    (notedBeat b count lock t).acq = 0 := by
  rw [notedBeat_acq, if_neg (by simp [hinvalid])]

theorem becomes16_invalid (hinvalid : (classifyEdge b count lock t).acqValid = false) :
    becomes16 b count lock t = false := by
  rw [becomes16, notedBeat_acq_invalid hinvalid]
  rfl

end

/-! ## An edge by the beat mode -/

section

variable {count : Word} {lock : Bool} {t : Nat} {s : State}

theorem exec_beatEdge {off : Nat} (hon : s.pins.porAonN = true) (hpower : s.core.power ≠ .off) :
    exec (.beatEdge count lock off) s = .next (beatEdge count lock (s.now + off) s) :=
  congrArg Host.Outcome.next (if_pos (by simp [aonUp, hon, hpower]))

/-- An edge has arrived at time t and is noted; the beat mode has not acted on it yet. -/
def withEdge (count : Word) (lock : Bool) (t : Nat) (s : State) : State :=
  { s with now := t, beat := notedBeat s.beat count lock t }

/-- A new epoch starts with the sixteenth edge in NONE (Table 4-4). -/
def firstEpoch (count : Word) (t : Nat) (s : State) : State :=
  raiseCore irqBeat { s with beat := restartSchedule { adopt s.beat count t with epoch := 1 } }

/-- What a noted edge does in a beat mode (Table 4-4). -/
def edgeInMode (count : Word) (t : Nat) (k : EdgeClass) (became : Bool) (m : BeatMode) (s : State) : State :=
  match m with
  | .none => if became then firstEpoch count t s else s
  | .locked => edgeLocked count t k s
  | .holdover => edgeHoldover count t k became s
  | .lost => edgeLost count t k became s

theorem beatEdge_noRebase (hjob : rebaseJob s = none) : beatEdge count lock t s =
    edgeInMode count t (classifyEdge s.beat count lock t) (becomes16 s.beat count lock t) s.beat.mode
      (withEdge count lock t s) := by
  have hnone : rebaseJob (withEdge count lock t s) = none := hjob
  unfold withEdge notedBeat at hnone
  unfold beatEdge
  dsimp only at hnone ⊢
  rw [hnone]
  rfl

end

/-! ## The beat through interrupts, records and the units told -/

section

variable (s : State)

theorem raiseCore_beat (i : Nat) : (raiseCore i s).beat = s.beat := (raiseCore_notes i s).beat

theorem jumpRecord_beat (count : Word) : (jumpRecord count s).beat = s.beat := (record_notes _ s).beat

theorem kdSend_beat (k : Port) (m : KdMsg) : (kdSend k m s).beat = s.beat := by
  unfold kdSend
  dsimp only
  split <;> rfl

theorem installKeys_beat (k : Port) (b : Word) (e : Nat) : (installKeys k b e s).beat = s.beat :=
  (kdSend_beat _ k _).trans (kdSend_beat _ k _)

theorem reinstallLinks_beat : (reinstallLinks s).beat = s.beat := by
  unfold reinstallLinks
  refine fold_keep (fun u : State => u.beat = s.beat) _ (fun u k hu => ?_) _ s rfl
  split
  · split
    · exact (installKeys_beat u k _ _).trans hu
    · exact hu
  · exact hu

theorem dropSwap_beat (retry : Nat) : (dropSwap retry s).beat = s.beat := by
  unfold dropSwap
  split
  · rfl
  · dsimp only
    split
    · rfl
    · split
      · exact (finishJob_posts _ _ _ _).beat
      · rfl

theorem disarmUnanswered_beat : (disarmUnanswered s).beat = s.beat := by
  unfold disarmUnanswered
  split
  · split
    · exact dropSwap_beat _ _
    · rfl
  · rfl

/-! ## The adoption rule (R142) -/

variable (t : Nat) {count slot : Word}

theorem adoption_at : (adoption count t count s).beat = adopt s.beat count t := by
  rw [adoption, if_pos rfl, raiseCore_beat]

theorem adoption_ahead (h : slot.toNat < count.toNat) : (adoption count t slot s).beat =
    { adopt s.beat count t with
      lastJump := count, fwdJumps := satInc s.beat.fwdJumps, totFwd := satInc s.beat.totFwd } := by
  have hne : count ≠ slot := by rintro rfl; exact Nat.lt_irrefl _ h
  rw [adoption, if_neg hne, if_pos h, reinstallLinks_beat, jumpRecord_beat, raiseCore_beat]
  rfl

theorem adoption_behind (h : count.toNat < slot.toNat) : (adoption count t slot s).beat =
    { s.beat with mode := .lost, backward := true, lastJump := count, backJumps := satInc s.beat.backJumps,
                  totBack := satInc s.beat.totBack, relock := 0 } := by
  have hne : count ≠ slot := by rintro rfl; exact Nat.lt_irrefl _ h
  rw [adoption, if_neg hne, if_neg (Nat.lt_asymm h), disarmUnanswered_beat, jumpRecord_beat, raiseCore_beat]

end

/-! ## An edge in each mode (Table 4-4) -/

section

variable {count : Word} {t : Nat} {k : EdgeClass} {became : Bool} {s : State}

theorem firstEpoch_beat : (firstEpoch count t s).beat = restartSchedule { adopt s.beat count t with epoch := 1 } :=
  raiseCore_beat _ _

/-- An on-time matching edge carries the count. -/
theorem edgeLocked_carries (htime : k.onTime = true) (hmatch : k.matching = true) :
    edgeLocked count t k s = { s with beat := { s.beat with lbeat := count, tEdge := t } } :=
  if_pos (by simp [htime, hmatch])

/-- Any other edge begins HOLDOVER, and one at or after the predicted time passes the slot. -/
theorem edgeLocked_leaves (hother : ¬(k.onTime = true ∧ k.matching = true)) :
    (edgeLocked count t k s).beat.mode = .holdover ∧ (edgeLocked count t k s).beat.acq = 0
    ∧ (edgeLocked count t k s).beat.lbeat = if k.late then s.beat.lbeat + 1 else s.beat.lbeat := by
  have hbad : ¬(k.onTime && k.matching) = true := by simpa using hother
  unfold edgeLocked
  dsimp only
  rw [if_neg hbad, raiseCore_beat]
  cases k.late <;> exact ⟨rfl, rfl, rfl⟩

/-- The fourth on-time matching edge in a row relocks. -/
theorem edgeHoldover_relocks (htime : k.onTime = true) (hmatch : k.matching = true) (hthree : s.beat.relock = 3) :
    (edgeHoldover count t k became s).beat.mode = .locked
    ∧ (edgeHoldover count t k became s).beat.lbeat = count := by
  have hfour : (if (k.onTime && k.matching) = true then s.beat.relock + 1 else 0) = 4 := by
    simp [htime, hmatch, hthree]
  unfold edgeHoldover
  dsimp only
  rw [if_pos hfour, raiseCore_beat]
  exact ⟨rfl, rfl⟩

/-- The beat in LOST after an edge is held against the slot LBEAT stands at. -/
def slotMet (k : EdgeClass) (s : State) : State :=
  { s with beat := { s.beat with unjudged := s.beat.unjudged && !k.here, arrived := s.beat.arrived || !k.here } }

theorem edgeLost_backward (hback : s.beat.backward = true) : edgeLost count t k became s = slotMet k s :=
  if_neg (by simp [hback])

theorem edgeLost_adopts (hback : s.beat.backward = false) :
    edgeLost count t k true s = adoption count t k.slot (slotMet k s) :=
  if_pos (by simp [hback])

end

section

variable {count : Word} {lock : Bool} {off : Nat} {s : State} (hon : s.pins.porAonN = true)
  (hpower : s.core.power ≠ .off) (hjob : rebaseJob s = none)

include hon hpower hjob

theorem exec_beatEdge_mode : exec (.beatEdge count lock off) s = .next
    (edgeInMode count (s.now + off) (classifyEdge s.beat count lock (s.now + off))
      (becomes16 s.beat count lock (s.now + off)) s.beat.mode (withEdge count lock (s.now + off) s)) := by
  rw [exec_beatEdge hon hpower, beatEdge_noRebase hjob]

theorem exec_beatEdge_none (hmode : s.beat.mode = .none) : exec (.beatEdge count lock off) s = .next
    (if becomes16 s.beat count lock (s.now + off) then
      firstEpoch count (s.now + off) (withEdge count lock (s.now + off) s)
    else withEdge count lock (s.now + off) s) := by
  rw [exec_beatEdge_mode hon hpower hjob, hmode]
  rfl

theorem exec_beatEdge_locked (hmode : s.beat.mode = .locked) : exec (.beatEdge count lock off) s = .next
    (edgeLocked count (s.now + off) (classifyEdge s.beat count lock (s.now + off))
      (withEdge count lock (s.now + off) s)) := by
  rw [exec_beatEdge_mode hon hpower hjob, hmode]
  rfl

theorem exec_beatEdge_holdover (hmode : s.beat.mode = .holdover) : exec (.beatEdge count lock off) s = .next
    (edgeHoldover count (s.now + off) (classifyEdge s.beat count lock (s.now + off))
      (becomes16 s.beat count lock (s.now + off)) (withEdge count lock (s.now + off) s)) := by
  rw [exec_beatEdge_mode hon hpower hjob, hmode]
  rfl

theorem exec_beatEdge_lost (hmode : s.beat.mode = .lost) : exec (.beatEdge count lock off) s = .next
    (edgeLost count (s.now + off) (classifyEdge s.beat count lock (s.now + off))
      (becomes16 s.beat count lock (s.now + off)) (withEdge count lock (s.now + off) s)) := by
  rw [exec_beatEdge_mode hon hpower hjob, hmode]
  rfl

/-- The edge that makes ACQ 16 in LOST, with BACKWARD clear, goes to the adoption rule. -/
theorem exec_beatEdge_adopts (hmode : s.beat.mode = .lost) (hback : s.beat.backward = false)
    (h16 : becomes16 s.beat count lock (s.now + off) = true) : exec (.beatEdge count lock off) s = .next
      (adoption count (s.now + off) (classifyEdge s.beat count lock (s.now + off)).slot
        (slotMet (classifyEdge s.beat count lock (s.now + off)) (withEdge count lock (s.now + off) s))) := by
  rw [exec_beatEdge_lost hon hpower hjob hmode, h16,
    edgeLost_adopts ((notedBeat_keeps s.beat count lock (s.now + off)).backward.trans hback)]

end

/-- Settles O34: the edge is noted, which keeps the count, and then each beat mode acts by its own lemma. -/
theorem edgesMoveTheBeat : Obligations.EdgesMoveTheBeat := by
  intro count lock off s hon hpower hjob b k sixteenth
  have hkeeps : KeepsCount b (withEdge count lock (s.now + off) s).beat := notedBeat_keeps b count lock (s.now + off)
  refine ⟨fun hmode htime hmatch => ⟨_, exec_beatEdge_locked hon hpower hjob hmode, ?_⟩,
    fun hmode hother => ⟨_, exec_beatEdge_locked hon hpower hjob hmode, ?_⟩,
    fun hmode hthree htime hmatch => ⟨_, exec_beatEdge_holdover hon hpower hjob hmode,
      edgeHoldover_relocks htime hmatch (hkeeps.relock.trans hthree)⟩,
    fun hmode ⟨hvalid, h15⟩ => ⟨_, exec_beatEdge_none hon hpower hjob hmode, ?_⟩,
    fun hmode hinvalid => ⟨_, exec_beatEdge_none hon hpower hjob hmode, ?_⟩,
    fun hmode hback => ⟨_, exec_beatEdge_lost hon hpower hjob hmode, ?_⟩,
    fun hmode hback ⟨hvalid, h15⟩ => ?_⟩
  · rw [edgeLocked_carries htime hmatch]
    exact ⟨rfl, hkeeps.mode.trans hmode, rfl, rfl, hkeeps.epoch, rfl, rfl, rfl⟩
  · obtain ⟨hheld, hacq, hlbeat⟩ := edgeLocked_leaves hother
    rw [hlbeat, hkeeps.lbeat]
    exact ⟨hheld, hacq, if_congr decide_eq_true_iff rfl rfl⟩
  · rw [becomes16_sixteenth hvalid h15, if_pos rfl, firstEpoch_beat]
    exact ⟨rfl, rfl, rfl⟩
  · rw [becomes16_invalid hinvalid, if_neg (by decide)]
    exact ⟨hkeeps.mode.trans hmode, notedBeat_acq_invalid hinvalid, hkeeps.lbeat⟩
  · rw [edgeLost_backward (hkeeps.backward.trans hback)]
    exact ⟨hkeeps.mode.trans hmode, hkeeps.lbeat⟩
  · have hadopts := exec_beatEdge_adopts hon hpower hjob hmode hback (becomes16_sixteenth hvalid h15)
    refine ⟨fun hat => ⟨_, hadopts, ?_⟩, fun hahead => ⟨_, hadopts, ?_⟩, fun hbehind => ⟨_, hadopts, ?_⟩⟩
    · rw [show (classifyEdge s.beat count lock (s.now + off)).slot = count from hat.symm, adoption_at]
      exact ⟨rfl, rfl⟩
    · rw [adoption_ahead _ _ hahead, ← hkeeps.totFwd]
      exact ⟨rfl, rfl, rfl, rfl⟩
    · rw [adoption_behind _ _ hbehind, ← hkeeps.lbeat, ← hkeeps.totBack]
      exact ⟨rfl, rfl, rfl, rfl, rfl⟩

end Sys2Proof.Machine
end

section
/-! What the commands and the steps keep (R156, R163, R175, R411, R416): the invariant at reset and after every step,
every burned fuse bit, and each memory under a command that its list does not name. -/

namespace Sys2Proof.Machine

/-! ## Commands -/

/-- The memories that the lists of Safety.lean leave as they are under a command. -/
def commandFrame (c : Instr) : Frame :=
  { fuses := !changesFuses c, heartwood := !writesHeartwood c, flash := !programsFlash c }

/-- Every command keeps the queue, the burned fuse bits, soundness and the memories that its frame names. Where a list
names the command, the triple gives its frame: whether the fuses, the heartwood and the flash stay. -/
theorem exec_keeps {c : Instr} {s t : State} (e : exec c s = .next t) : Keeps (commandFrame c) s t := by
  have : Fact (false = false) := ⟨rfl⟩
  cases c with
  | porAonRise => exact execPorAonRise_keeps (fr := ⟨true, false, false⟩) (.refl s) e
  | porAonAssert => exact execPorAonAssert_keeps (fr := ⟨false, false, true⟩) (.refl s) e
  | chipReset => exact execChipReset_keeps (.refl s) e
  | chipResetRelease => exact execChipResetRelease_keeps (fr := ⟨true, false, false⟩) (.refl s) e
  | fuseSense => exact execFuseSense_keeps (fr := ⟨false, true, true⟩) (.refl s) e
  | startSequence => exact execStartSequence_keeps (fr := ⟨false, false, false⟩) (.refl s) e
  | seatCmdHdr => exact execSeatCmdHdr_keeps (fr := ⟨true, false, false⟩) (.refl s) e
  | seatRelease => exact execSeatRelease_keeps (fr := ⟨true, false, false⟩) (.refl s) e
  | seatAbort => exact execSeatAbort_keeps (fr := ⟨true, false, false⟩) (.refl s) e
  | seatReset => exact execSeatReset_keeps (fr := ⟨true, false, false⟩) (.refl s) e
  | seatFaultClear => exact execSeatFaultClear_keeps (fr := ⟨true, false, false⟩) (.refl s) e
  | seatIrqStatusClear => exact execSeatIrqStatusClear_keeps (fr := ⟨true, false, false⟩) (.refl s) e
  | seatIrqEnWrite => exact execSeatIrqEnWrite_keeps (fr := ⟨true, false, false⟩) (.refl s) e
  | coreIrqStatusClear => exact execCoreIrqStatusClear_keeps (fr := ⟨true, false, false⟩) (.refl s) e
  | coreIrqEnWrite => exact execCoreIrqEnWrite_keeps (fr := ⟨true, false, false⟩) (.refl s) e
  | coreWake => exact execCoreWake_keeps (fr := ⟨true, false, false⟩) (.refl s) e
  | registerWrite => exact execRegisterWrite_keeps (fr := ⟨true, false, false⟩) (.refl s) e
  | accessErrorResponse => exact execAccessErrorResponse_keeps (fr := ⟨true, false, false⟩) (.refl s) e
  | beatNowRead => exact execBeatNowRead_keeps (fr := ⟨true, false, false⟩) (.refl s) e
  | beatEventsRead => exact execBeatEventsRead_keeps (fr := ⟨true, false, false⟩) (.refl s) e
  | pkeCountsRead => exact execPkeCountsRead_keeps (fr := ⟨true, false, false⟩) (.refl s) e
  | digCountsRead => exact execDigCountsRead_keeps (fr := ⟨true, false, false⟩) (.refl s) e
  | ingDropRead => exact execIngDropRead_keeps (fr := ⟨true, false, false⟩) (.refl s) e
  | partBlockedRead => exact execPartBlockedRead_keeps (fr := ⟨true, false, false⟩) (.refl s) e
  | seatMbxEmptiedRead => exact execSeatMbxEmptiedRead_keeps (fr := ⟨true, false, false⟩) (.refl s) e
  | mbxPost => exact execMbxPost_keeps (fr := ⟨true, false, false⟩) (.refl s) e
  | mbxInfoRead => exact execMbxInfoRead_keeps (fr := ⟨true, false, false⟩) (.refl s) e
  | mbxEmpty => exact execMbxEmpty_keeps (fr := ⟨true, false, false⟩) (.refl s) e
  | bootConfirm => exact execBootConfirm_keeps (fr := ⟨true, false, false⟩) (.refl s) e
  | digWord => exact execDigWord_keeps (fr := ⟨true, false, false⟩) (.refl s) e
  | digLastWord => exact execDigLastWord_keeps (fr := ⟨true, false, false⟩) (.refl s) e
  | digDrain => exact execDigDrain_keeps (.refl s) e
  | partGroveIn7 => exact execPartGroveIn7_keeps (fr := ⟨true, false, false⟩) (.refl s) e
  | accessFrame => exact execAccessFrame_keeps (fr := ⟨true, false, false⟩) (.refl s) e
  | lcauth => exact execLcauth_keeps (fr := ⟨true, false, false⟩) (.refl s) e
  | i3cEntdaa => exact execI3cEntdaa_keeps (.refl s) e
  | i3cBusFree => exact execI3cBusFree_keeps (.refl s) e
  | jobComplete => exact execJobComplete_keeps (.refl s) e
  | powerSet => exact execPowerSet_keeps (.refl s) e
  | coreComputeReset => exact execCoreComputeReset_keeps (.refl s) e
  | cmpQuiesceAck => exact execCmpQuiesceAck_keeps (.refl s) e
  | cmpQuiesceTimeout => exact execCmpQuiesceTimeout_keeps (.refl s) e
  | rstComputeHoldEnd => exact execRstComputeHoldEnd_keeps (.refl s) e
  | cmpReady => exact execCmpReady_keeps (.refl s) e
  | cmpReadyTimeout => exact execCmpReadyTimeout_keeps (.refl s) e
  | beatRebase => exact execBeatRebase_keeps (.refl s) e
  | beatRebaseTimeout => exact execBeatRebaseTimeout_keeps (.refl s) e
  | beatEdge => exact execBeatEdge_keeps (.refl s) e
  | beatEdgeMissing => exact execBeatEdgeMissing_keeps (.refl s) e
  | heartbeat => exact execHeartbeat_keeps (.refl s) e
  | heartwoodCheckpoint => exact execHeartwoodCheckpoint_keeps (.refl s) e
  | sweepCredit => exact execSweepCredit_keeps (.refl s) e
  | sensorSample => exact execSensorSample_keeps (.refl s) e
  | pwrStrmGoodRise => exact execPwrStrmGoodRise_keeps (.refl s) e
  | pwrStrmTimeout => exact execPwrStrmTimeout_keeps (.refl s) e
  | pwrStrmGoodLoss => exact execPwrStrmGoodLoss_keeps (.refl s) e
  | pwrCtrlGoodLoss => exact execPwrCtrlGoodLoss_keeps (.refl s) e
  | cellUnitDone => exact execCellUnitDone_keeps (fr := ⟨true, false, false⟩) (.refl s) e
  | knownAnswerTestDone => exact execKnownAnswerTestDone_keeps (fr := ⟨true, false, false⟩) (.refl s) e
  | engineFault => exact execEngineFault_keeps (fr := ⟨true, false, false⟩) (.refl s) e
  | engineResetDone => exact execEngineResetDone_keeps (fr := ⟨true, false, false⟩) (.refl s) e
  | strmDomainFault => exact execStrmDomainFault_keeps (.refl s) e
  | coreFault => exact execCoreFault_keeps (.refl s) e
  | heartwoodWrite => exact execHeartwoodWrite_keeps (fr := ⟨true, false, true⟩) (.refl s) e
  | heartwoodChainCheck => exact execHeartwoodChainCheck_keeps (.refl s) e
  | microcodeDigestCheck => exact execMicrocodeDigestCheck_keeps (fr := ⟨true, false, false⟩) (.refl s) e
  | initiatorResponse => exact execInitiatorResponse_keeps (fr := ⟨true, false, false⟩) (.refl s) e
  | initiatorError => exact execInitiatorError_keeps (fr := ⟨true, false, false⟩) (.refl s) e
  | initiatorTimeout => exact execInitiatorTimeout_keeps (fr := ⟨true, false, false⟩) (.refl s) e
  | initiatorLateResponse => exact execInitiatorLateResponse_keeps (.refl s) e
  | streamChunk lane => exact execStreamChunk_keeps (_lane := lane) (.refl s) e
  | hbmWriteAck => exact execHbmWriteAck_keeps (.refl s) e
  | sweepReadData => exact execSweepReadData_keeps (.refl s) e
  | sweepReadError => exact execSweepReadError_keeps (.refl s) e
  | ingestChunkTimeout => exact execIngestChunkTimeout_keeps (.refl s) e
  | kdAck => exact execKdAck_keeps (fr := ⟨true, false, false⟩) (.refl s) e
  | kdNack => exact execKdNack_keeps (.refl s) e
  | kdAckTimeout => exact execKdAckTimeout_keeps (.refl s) e
  | linkKeyInstall => exact execLinkKeyInstall_keeps (.refl s) e
  | linkKeySwitch => exact execLinkKeySwitch_keeps (.refl s) e
  | linkHelloTimer => exact execLinkHelloTimer_keeps (.refl s) e
  | linkHello => exact execLinkHello_keeps (.refl s) e
  | linkReply => exact execLinkReply_keeps (.refl s) e
  | linkFinish => exact execLinkFinish_keeps (.refl s) e
  | linkReject => exact execLinkReject_keeps (.refl s) e
  | linkExchangeTimeout => exact execLinkExchangeTimeout_keeps (.refl s) e
  | fbShadowCrcResponse => exact execFbShadowCrcResponse_keeps (.refl s) e
  | fbArmed => exact execFbArmed_keeps (.refl s) e
  | fbLate => exact execFbLate_keeps (.refl s) e
  | fbArmDeadline => exact execFbArmDeadline_keeps (.refl s) e
  | fbDisarmed u => exact execFbDisarmed_keeps (u := u) (.refl s) e
  | swapBeat => exact execSwapBeat_keeps (.refl s) e
  | fbSwapped => exact execFbSwapped_keeps (.refl s) e
  | fbSwappedLate => exact execFbSwappedLate_keeps (.refl s) e
  | fbScrubDone => exact execFbScrubDone_keeps (.refl s) e
  | fbScrubFailed => exact execFbScrubFailed_keeps (.refl s) e
  | fbBlockedCount => exact execFbBlockedCount_keeps (.refl s) e
  | blockedPoll => exact execBlockedPoll_keeps (.refl s) e
  | teardownSwapRetry => exact execTeardownSwapRetry_keeps (.refl s) e
  | groveCollectionBeat => exact execGroveCollectionBeat_keeps (.refl s) e
  | groveWaitEnd => exact execGroveWaitEnd_keeps (.refl s) e
  | trialTimerExpiry => exact execTrialTimerExpiry_keeps (fr := ⟨true, true, false⟩) (.refl s) e
  | ctrPendingRetry => exact execCtrPendingRetry_keeps (fr := ⟨true, false, false⟩) (.refl s) e
  | roleLapse => exact execRoleLapse_keeps (.refl s) e
  | nonceExpiry => exact execNonceExpiry_keeps (.refl s) e
  | pldmSessionTimeout => exact execPldmSessionTimeout_keeps (.refl s) e
  | otpPulseDone => exact execOtpPulseDone_keeps (fr := ⟨false, false, false⟩) (.refl s) e
  | otpRead => exact execOtpRead_keeps (.refl s) e
  | otpProgram => exact execOtpProgram_keeps (fr := ⟨true, false, false⟩) (.refl s) e
  | otpLock => exact execOtpLock_keeps (fr := ⟨true, false, false⟩) (.refl s) e
  | otpRepair => exact execOtpRepair_keeps (fr := ⟨true, false, false⟩) (.refl s) e
  | otpCtrAdvance => exact execOtpCtrAdvance_keeps (fr := ⟨true, false, false⟩) (.refl s) e
  | lcAuthBegin => exact execLcAuthBegin_keeps (.refl s) e
  | lcAuthProve => exact execLcAuthProve_keeps (.refl s) e
  | lcAuthEnd => exact execLcAuthEnd_keeps (.refl s) e
  | lcTransition => exact execLcTransition_keeps (fr := ⟨true, false, false⟩) (.refl s) e
  | lcDebugOpen => exact execLcDebugOpen_keeps (fr := ⟨true, false, true⟩) (.refl s) e
  | lcDebugClose => exact execLcDebugClose_keeps (.refl s) e
  | lcDebugPolicy => exact execLcDebugPolicy_keeps (fr := ⟨true, false, false⟩) (.refl s) e
  | bootStageBegin => exact execBootStageBegin_keeps (fr := ⟨true, true, false⟩) (.refl s) e
  | bootStageData => exact execBootStageData_keeps (.refl s) e
  | bootStageFinish => exact execBootStageFinish_keeps (fr := ⟨true, true, false⟩) (.refl s) e
  | bootStageCancel => exact execBootStageCancel_keeps (.refl s) e
  | bootActivate => exact execBootActivate_keeps (fr := ⟨true, true, false⟩) (.refl s) e
  | bootHandoverPut => exact execBootHandoverPut_keeps (fr := ⟨true, true, false⟩) (.refl s) e
  | bootHandoverGet => exact execBootHandoverGet_keeps (fr := ⟨true, true, false⟩) (.refl s) e
  | bootConfigCommit => exact execBootConfigCommit_keeps (fr := ⟨true, false, false⟩) (.refl s) e
  | bootSecretAccess => exact execBootSecretAccess_keeps (fr := ⟨true, true, false⟩) (.refl s) e
  | keysGenerate => exact execKeysGenerate_keeps (.refl s) e
  | keysImport => exact execKeysImport_keeps (.refl s) e
  | keysExport => exact execKeysExport_keeps (.refl s) e
  | keysDerive => exact execKeysDerive_keeps (.refl s) e
  | keysSealDerive => exact execKeysSealDerive_keeps (.refl s) e
  | keysInstallerDerive => exact execKeysInstallerDerive_keeps (.refl s) e
  | keysFree => exact execKeysFree_keeps (.refl s) e
  | keysInfo => exact execKeysInfo_keeps (.refl s) e
  | keysCertRead => exact execKeysCertRead_keeps (.refl s) e
  | keysRootProvision => exact execKeysRootProvision_keeps (fr := ⟨true, false, false⟩) (.refl s) e
  | keysLinkRestart => exact execKeysLinkRestart_keeps (.refl s) e
  | pkeSign => exact execPkeSign_keeps (.refl s) e
  | pkeVerify => exact execPkeVerify_keeps (.refl s) e
  | pkeHybridSign => exact execPkeHybridSign_keeps (.refl s) e
  | pkeHybridVerify => exact execPkeHybridVerify_keeps (.refl s) e
  | hybridSecondPart => exact execHybridSecondPart_keeps (.refl s) e
  | pkeEcdh => exact execPkeEcdh_keeps (.refl s) e
  | pkeKemEncaps => exact execPkeKemEncaps_keeps (.refl s) e
  | pkeKemDecaps => exact execPkeKemDecaps_keeps (.refl s) e
  | pkePublic => exact execPkePublic_keeps (.refl s) e
  | pkeRsaSign => exact execPkeRsaSign_keeps (.refl s) e
  | pkeRsaVerify => exact execPkeRsaVerify_keeps (.refl s) e
  | pkeCurveLoad => exact execPkeCurveLoad_keeps (.refl s) e
  | pkeCurveClear => exact execPkeCurveClear_keeps (.refl s) e
  | digOpen => exact execDigOpen_keeps (.refl s) e
  | digAbsorb => exact execDigAbsorb_keeps (.refl s) e
  | digFinal => exact execDigFinal_keeps (.refl s) e
  | digCompare => exact execDigCompare_keeps (.refl s) e
  | digSave => exact execDigSave_keeps (.refl s) e
  | digRestore => exact execDigRestore_keeps (.refl s) e
  | digAbort => exact execDigAbort_keeps (.refl s) e
  | ingPlan => exact execIngPlan_keeps (.refl s) e
  | ingLoad => exact execIngLoad_keeps (.refl s) e
  | ingPlanFree => exact execIngPlanFree_keeps (.refl s) e
  | ingShardInfo => exact execIngShardInfo_keeps (.refl s) e
  | ingSweepSet => exact execIngSweepSet_keeps (.refl s) e
  | ingKeyDrop => exact execIngKeyDrop_keeps (.refl s) e
  | partCreate => exact execPartCreate_keeps (.refl s) e
  | partDestroy => exact execPartDestroy_keeps (.refl s) e
  | partShadowBegin => exact execPartShadowBegin_keeps (.refl s) e
  | partShadowWrite => exact execPartShadowWrite_keeps (.refl s) e
  | partSwap => exact execPartSwap_keeps (.refl s) e
  | partShadowCancel => exact execPartShadowCancel_keeps (.refl s) e
  | partEvidence => exact execPartEvidence_keeps (.refl s) e
  | partGroveCollect => exact execPartGroveCollect_keeps (.refl s) e
  | partClearRetry => exact execPartClearRetry_keeps (.refl s) e
  | recRead => exact execRecRead_keeps (.refl s) e
  | recClear => exact execRecClear_keeps (.refl s) e
  | recHwRead => exact execRecHwRead_keeps (.refl s) e
  | recRetest => exact execRecRetest_keeps (.refl s) e
  | recDumpRead => exact execRecDumpRead_keeps (.refl s) e
  | getVersion => exact execGetVersion_keeps (.refl s) e
  | getCapabilities => exact execGetCapabilities_keeps (.refl s) e
  | negotiateAlgorithms => exact execNegotiateAlgorithms_keeps (.refl s) e
  | getDigests => exact execGetDigests_keeps (.refl s) e
  | getCertificate => exact execGetCertificate_keeps (.refl s) e
  | challenge path slot nonce => exact execChallenge_keeps (_nonce := nonce) (.refl s) e
  | getMeasurements => exact execGetMeasurements_keeps (.refl s) e
  | keyExchange => exact execKeyExchange_keeps (.refl s) e
  | spdmFinish => exact execSpdmFinish_keeps (.refl s) e
  | endSession => exact execEndSession_keeps (.refl s) e
  | chunkSend => exact execChunkSend_keeps (.refl s) e
  | chunkGet => exact execChunkGet_keeps (.refl s) e
  | spdmUnsupportedRequest => exact execSpdmUnsupportedRequest_keeps (.refl s) e
  | queryDeviceIdentifiers => exact execQueryDeviceIdentifiers_keeps (.refl s) e
  | getFirmwareParameters => exact execGetFirmwareParameters_keeps (.refl s) e
  | requestUpdate => exact execRequestUpdate_keeps (.refl s) e
  | passComponentTable => exact execPassComponentTable_keeps (.refl s) e
  | updateComponent => exact execUpdateComponent_keeps (fr := ⟨true, true, false⟩) (.refl s) e
  | requestFirmwareData => exact execRequestFirmwareData_keeps (fr := ⟨true, true, false⟩) (.refl s) e
  | activateFirmware => exact execActivateFirmware_keeps (fr := ⟨true, true, false⟩) (.refl s) e
  | getStatus => exact execGetStatus_keeps (.refl s) e
  | cancelUpdateComponent => exact execCancelUpdateComponent_keeps (.refl s) e
  | cancelUpdate => exact execCancelUpdate_keeps (.refl s) e
  | pldmUnsupportedCmd => exact execPldmUnsupportedCmd_keeps (.refl s) e
  | predictedEdge => exact execPredictedEdge_keeps (.refl s) e
  | keysLinkRx => exact execKeysLinkRx_keeps (fr := ⟨true, false, false⟩) (.refl s) e

/-- Settles O60: the frame of a command that is in no list names all three memories. -/
theorem memoriesChangeOnlyByTheirCommands : Obligations.MemoriesChangeOnlyByTheirCommands := by
  intro c s t e
  have hkeeps := exec_keeps e
  exact ⟨fun h => hkeeps.sameFuses (congrArg not h), fun h => hkeeps.sameHeartwood (congrArg not h),
    fun h => hkeeps.sameFlash (congrArg not h)⟩

/-! ## Reset and steps -/

/-- Settles O6: every memory and the log are empty, and a blank word reads zero at both margins. -/
theorem resetIsSound : Obligations.ResetIsSound where
  fuses := rfl
  margins _ := Within.refl 0
  sense := rfl
  flash := rfl
  window := rfl
  heartwood := rfl
  log := Nat.zero_le _

/-- A step is the command at the front of the queue, or a cycle, run on the rest of the queue: what it keeps, it keeps
of the state without that command. -/
theorem step_keeps {s t : State} (e : Machine.step s = .next t) :
    ∃ fr, Keeps fr { s with pending := s.pending.tail } t := by
  unfold Machine.step at e
  split at e
  case h_1 hnil =>
    obtain rfl := Host.Outcome.next.inj e
    have hs : { s with pending := s.pending.tail } = s := by rw [hnil, List.tail_nil, ← hnil]
    exact ⟨⟨true, true, true⟩, by rw [hs]; exact tick_keeps (.refl s)⟩
  case h_2 c cs hcons =>
    have hs : s.pending.tail = cs := by rw [hcons, List.tail_cons]
    exact ⟨commandFrame c, hs ▸ exec_keeps e⟩

/-- Settles O7: a step keeps soundness because its command does, and soundness does not speak of the queue. -/
theorem stepsKeepSoundness : Obligations.StepsKeepSoundness := by
  intro s t hsound e
  obtain ⟨fr, hkeeps⟩ := step_keeps e
  exact hkeeps.sound { hsound with }

/-- Settles O8: the reads of a word do not speak of the queue, and no command loses a burned bit. -/
theorem noStepClearsABurnedFuse : Obligations.NoStepClearsABurnedFuse := by
  intro s t a e
  obtain ⟨fr, hkeeps⟩ := step_keeps e
  exact hkeeps.fuses a

end Sys2Proof.Machine
end

section
/-! The OTP command path (R162, R172 to R181, Table 5-7): what the end of a pulse leaves, and the check orders of the
OTP commands. -/

namespace Sys2Proof.Machine

/-! ## The end of a pulse (R175) -/

/-- The word of a pulse reads at each margin what it read and what the pulse left there. -/
theorem otpLive_pulseWord {a : Nat} {p : Pulse} {s : State} (h : memWf (0, 0) s.otp.array = true) :
    otpLive (pulseWord a p s) a = ((otpLive s a).1 ||| p.lo ||| p.hi, (otpLive s a).2 ||| p.hi) :=
  memGet_memSet_same _ _ _ _ h

theorem otpLive_pulseWord_other {a x : Nat} (p : Pulse) (s : State) (h : x ≠ a) :
    otpLive (pulseWord a p s) x = otpLive s x := memGet_memSet_other _ _ _ _ _ h

/-- A burn after one more pulse of its group. -/
def Burn.pulsed (b : Burn) : Burn := { b with pulses := b.pulses + 1, mostPulses := max b.mostPulses (b.pulses + 1) }

section

variable {p : Pulse} {s : State} {b : Burn} {w : WordBurn} {ws : List WordBurn}
  (hrun : s.otp.run = some b)

include hrun

theorem exec_otpPulseDone (hon : s.pins.porAonN = true) (hpower : s.core.power ≠ .off) :
    exec (.otpPulseDone p) s = .next (pulseDone p { s with now := s.now + 5 * Config.microsecond }) :=
  congrArg Host.Outcome.next (if_pos (by simp [aonUp, hon, hpower, hrun]))

variable (htodo : b.todo = w :: ws)

include htodo

/-- A pulse that ends with CTRL not running is the last of its burn (Table 5-14). -/
theorem pulseDone_down (hdown : ctrlUp s = false) : pulseDone p s =
    { pulseWord w.addr p s with otp := { (pulseWord w.addr p s).otp with run := none } } := by
  rw [pulseDone, hdown, if_pos (by decide), lastPulse, hrun]
  dsimp only
  rw [htodo]

variable (hgo : b.stopped = false) (hsupply : b.supplyBad = false)
  (hleft : (groupMasks w.addr b.single).getD b.group 0 &&& bitsLeft (pulseWord w.addr p s) w ≠ 0)

include hgo hsupply hleft

/-- An eighth pulse that leaves a bit of its group fails the burn. -/
theorem afterPulse_eighth (hlast : 8 ≤ b.pulses + 1) :
    afterPulse p s = endBurn b.pulsed .otpVerify (pulseWord w.addr p s) := by
  rw [afterPulse, hrun]
  dsimp only
  rw [htodo]
  dsimp only
  rw [hgo, if_neg Bool.false_ne_true, bne_iff_ne.2 hleft, decide_eq_true hlast, hsupply, Burn.pulsed,
    hgo, hsupply, htodo]
  rfl

/-- An earlier pulse that leaves a bit of its group is followed by another one. -/
theorem afterPulse_again (hearly : b.pulses + 1 < 8) (hvpp : vppOk s p.vpp = true) :
    afterPulse p s = ({ pulseWord w.addr p s with otp :=
      { (pulseWord w.addr p s).otp with run := some b.pulsed } }, none) := by
  have hvpp : vppOk (pulseWord w.addr p s) p.vpp = true := hvpp
  rw [afterPulse, hrun]
  dsimp only
  rw [htodo]
  dsimp only
  rw [hgo, if_neg Bool.false_ne_true, bne_iff_ne.2 hleft, decide_eq_false (Nat.not_le.2 hearly)]
  simp [hgo, hsupply, htodo, hvpp, Burn.pulsed]

variable (hup : ctrlUp s = true)

include hup

theorem pulseDone_eighth (hlast : 8 ≤ b.pulses + 1) : pulseDone p s = pumpOtp (burnEnded
    { owner := b.owner, status := .otpVerify, left := bitsLeft (pulseWord w.addr p s) w,
      most := max b.mostPulses (b.pulses + 1) }
    { pulseWord w.addr p s with otp := { (pulseWord w.addr p s).otp with run := none } }) := by
  rw [pulseDone, hup, if_neg (by decide), afterPulse_eighth hrun htodo hgo hsupply hleft hlast, endBurn, Burn.pulsed,
    htodo]

theorem pulseDone_again (hearly : b.pulses + 1 < 8) (hvpp : vppOk s p.vpp = true) :
    pulseDone p s = pumpOtp (showProgress { pulseWord w.addr p s with otp :=
      { (pulseWord w.addr p s).otp with run := some b.pulsed } }) := by
  rw [pulseDone, hup, if_neg (by decide), afterPulse_again hrun htodo hgo hsupply hleft hearly hvpp]

end

/-- Settles O36: the reads by the two laws of pulseWord; the pulse is the last one in reset, and otherwise the count of
pulses decides what follows one that leaves a bit of its group. -/
theorem pulseEnds : Obligations.PulseEnds := by
  intro p s b w ws hsound hon hpower hrun htodo u left
  have hexec := exec_otpPulseDone (p := p) hrun hon hpower
  refine ⟨otpLive_pulseWord hsound.fuses, fun a ha => otpLive_pulseWord_other p _ ha, fun hdown => hexec.trans ?_,
    fun hup hgo hsupply hleft => ⟨fun hearly hvpp => hexec.trans ?_, fun hlast => hexec.trans ?_⟩⟩
  · exact congrArg _ (pulseDone_down hrun htodo hdown)
  · exact congrArg _ (pulseDone_again hrun htodo hgo hsupply hleft hup hearly hvpp)
  · exact congrArg _ (pulseDone_eighth hrun htodo hgo hsupply hleft hup hlast)

/-! ## The OTP commands (Table 5-7) -/

/-- A job row that takes a turn only with the path free runs its job at the turn. -/
theorem runJob_ready {o : Op} {ready : Bool} {s u : State} {j : Job} (hready : ready = true) (h : Turn o s j u)
    (go : Job → State → State) : runJob o ready go s = go j u := by rw [hready, turn_run h]

/-- With the word read at the low margin before, the read at the high margin ends the job (R162). -/
theorem deliver_otpRead_high {id : Nat} {c : Cell} {more : Bool} {s : State} {j : Job} (hjob : s.job? id = some j)
    (hlow : j.num ≠ 0) : deliver (.otpRead id) c more s = pumpOtp (endOtpRead j s) := by
  rw [deliver, marginRead, hjob]
  exact congrArg pumpOtp (if_neg hlow)

section

variable {s u : State} {j : Job} (hfree : otpFree s = true)

include hfree

theorem exec_otpRead (h : Turn .otpRead s j u) : exec .otpRead s = .next (startOtpRead j u) :=
  congrArg Host.Outcome.next (runJob_ready hfree h _)

theorem exec_otpProgram (h : Turn .otpProgram s j u) : exec .otpProgram s = .next (pumpOtp (startOtpProgram j u)) :=
  congrArg (fun t => Host.Outcome.next (pumpOtp t)) (runJob_ready hfree h _)

theorem exec_otpLock (h : Turn .otpLock s j u) : exec .otpLock s = .next (pumpOtp (startOtpLock j u)) :=
  congrArg (fun t => Host.Outcome.next (pumpOtp t)) (runJob_ready hfree h _)

theorem exec_otpRepair (h : Turn .otpRepair s j u) : exec .otpRepair s = .next (pumpOtp (startOtpRepair j u)) :=
  congrArg (fun t => Host.Outcome.next (pumpOtp t)) (runJob_ready hfree h _)

theorem exec_otpCtrAdvance (h : Turn .otpCtrAdvance s j u) :
    exec .otpCtrAdvance s = .next (pumpOtp (startCtrAdvance j u)) :=
  congrArg (fun t => Host.Outcome.next (pumpOtp t)) (runJob_ready hfree h _)

end

/-- Settles O37: at its turn each row runs its check order, and the read at the high margin ends OTP_READ. -/
theorem otpCommands : Obligations.OtpCommands := by
  intro s u j hfree
  refine ⟨fun h => admits_of (exec_otpRead hfree h), fun c more w hruns hwork howner hjob hlow => ?_,
    fun h => admits_of ((exec_otpProgram hfree h).trans (congrArg _ (pump_ff _ _ _))),
    fun h => admits_of ((exec_otpLock hfree h).trans (congrArg _ (pump_ff _ _ _))),
    fun h => admits_of ((exec_otpRepair hfree h).trans (congrArg _ (pump_ff _ _ _))),
    fun h => admits_of ((exec_otpCtrAdvance hfree h).trans (congrArg _ (pump_ff _ _ _)))⟩
  have hjob : ((idleCell c u).modCell c (fun x => { x with consecutive := 0 })).job? j.id = some j := hjob
  rw [exec_cellUnitDone_ok more hruns hwork, howner, deliver_otpRead_high hjob hlow]
  rfl

end Sys2Proof.Machine
end

section
/-! The life-cycle commands (R189, R190, R196 to R199, R203 to R206, R212): what each row does at its turn, and the check
orders of Tables 6-14 and 6-15. -/

namespace Sys2Proof.Machine

/-! ## What a row does at its turn -/

section

variable {s u : State} {j : Job}

theorem exec_lcAuthBegin (h : Turn .lcAuthBegin s j u) : exec .lcAuthBegin s = .next (startAuthBegin j u) :=
  congrArg Host.Outcome.next (turn_run h _)

theorem exec_lcAuthProve (h : Turn .lcAuthProve s j u) : exec .lcAuthProve s = .next (startAuthProve j u) :=
  congrArg Host.Outcome.next (turn_run h _)

theorem exec_lcAuthEnd (h : Turn .lcAuthEnd s j u) : exec .lcAuthEnd s = .next (startAuthEnd j u) :=
  congrArg Host.Outcome.next (turn_run h _)

theorem exec_lcTransition (h : Turn .lcTransition s j u) :
    exec .lcTransition s = .next (pumpOtp (startTransition j u)) :=
  congrArg (fun t => Host.Outcome.next (pumpOtp t)) (turn_run h _)

theorem exec_lcDebugOpen (h : Turn .lcDebugOpen s j u) : exec .lcDebugOpen s = .next (startDebugOpen j u) :=
  congrArg Host.Outcome.next (turn_run h _)

theorem exec_lcDebugClose (h : Turn .lcDebugClose s j u) : exec .lcDebugClose s = .next (startDebugClose j u) :=
  congrArg Host.Outcome.next (turn_run h _)

theorem exec_lcDebugPolicy (h : Turn .lcDebugPolicy s j u) :
    exec .lcDebugPolicy s = .next (pumpOtp (startDebugPolicy j u)) :=
  congrArg (fun t => Host.Outcome.next (pumpOtp t)) (turn_run h _)

end

/-! ## Nonces and roles (R199) -/

section

variable {s : State} {j : Job}

/-- The serial number is a fuse word, which no authorisation record touches. -/
theorem serial_modAuth (n : Seat) (f : Auth → Auth) (s : State) : serial (modAuth n f s) = serial s := by
  unfold modAuth
  split <;> rfl

theorem startAuthBegin_refused {st : Status}
    (hfail : firstFail [(isHmb j.seat, .denied), (zeroFrom (j.w 0) 1, .badArgument)] = some st) :
    startAuthBegin j s = refuseJob j st s := by
  rw [startAuthBegin, hfail]

theorem startAuthBegin_drawn {x : Bytes} {v : State}
    (hpass : firstFail [(isHmb j.seat, .denied), (zeroFrom (j.w 0) 1, .badArgument)] = none)
    (hdraw : drawBytes 32 s = (x, v)) :
    startAuthBegin j s = decideJob j .ok
      (wordsOf [word (getLe x 0 8), word (getLe x 8 8), word (getLe x 16 8), word (getLe x 24 8), serial v])
      (modAuth j.seat (fun a =>
        if j.f 0 0 1 = 0 then { a with roleNonce := some { value := bytesBv 256 x, beat := v.beat.lbeat } }
        else { a with consentNonce := some { value := bytesBv 256 x, beat := v.beat.lbeat } }) v) := by
  rw [startAuthBegin, hpass]
  dsimp only
  rw [hdraw]
  dsimp only
  rw [serial_modAuth]

theorem startAuthProve_denied (hseat : isHmb j.seat = false) : startAuthProve j s = refuseJob j .denied s :=
  if_pos (by rw [hseat]; decide)

theorem startAuthEnd_eq : startAuthEnd j s =
    if isHmb j.seat then decideJob j .ok noWords (endRole j.seat 2 s) else refuseJob j .denied s := by
  rw [startAuthEnd]
  cases isHmb j.seat <;> rfl

end

/-- Settles O38: at its turn each row runs its check order; a nonce is drawn with every check passed, and a proof ends
the role held once its seat is admitted. -/
theorem lifeCycleCommands : Obligations.LifeCycleCommands := by
  intro s u j
  refine ⟨fun h x v hdraw =>
      ⟨fun hpass => (exec_lcAuthBegin h).trans (congrArg _ (startAuthBegin_drawn (ff_none hpass) hdraw)),
        fun st hfail => (exec_lcAuthBegin h).trans (congrArg _ (startAuthBegin_refused hfail))⟩,
    fun h => ⟨fun hseat => (exec_lcAuthProve h).trans (congrArg _ (startAuthProve_denied hseat)), fun hseat => ?_⟩,
    fun h => (exec_lcAuthEnd h).trans (congrArg _ startAuthEnd_eq),
    fun h => admits_of ((exec_lcTransition h).trans (congrArg _ (pump_ff _ _ _))),
    fun h => admits_of (exec_lcDebugOpen h),
    fun h => admits_of (exec_lcDebugClose h),
    fun h => admits_of ((exec_lcDebugPolicy h).trans (congrArg _ (pump_ff _ _ _)))⟩
  have hadmitted : ¬((!isHmb j.seat) = true) := by rw [hseat]; decide
  exact admits_of ((exec_lcAuthProve h).trans (congrArg _ (if_neg hadmitted)))

end Sys2Proof.Machine
end

section
/-! What comes due at a beat or an instant (R199, R259, R260, R268, R390, R392): each row once its beat has come. -/

namespace Sys2Proof.Machine

section

variable {s : State}

/-! ## The grove (R390, R392) -/

theorem exec_groveCollectionBeat {a : GroveArmed} (harmed : s.part.armed = some a) (hopen : a.sent = false)
    (hup : ctrlUp s = true) (hdue : a.beat.toNat ≤ lbeat s) :
    exec .groveCollectionBeat s = .next (contribute a s) := by
  have hexec : exec .groveCollectionBeat s = execGroveCollectionBeat s := rfl
  rw [hexec, execGroveCollectionBeat, harmed]
  exact congrArg Host.Outcome.next (if_pos (by simp [hup, hopen, hdue]))

theorem exec_groveWaitEnd {c : Collection} (hcollects : s.part.collection = some c) (hup : ctrlUp s = true)
    (hphase : s.part.grovePhase = .waiting) (hdue : c.beat.toNat + 65536 ≤ lbeat s) :
    exec .groveWaitEnd s = .next (issue { addr := c.inbox, len := 192 * c.count, owner := .inboxRead }
      { s with part := { s.part with grovePhase := .building } }) := by
  have hexec : exec .groveWaitEnd s = execGroveWaitEnd s := rfl
  rw [hexec, execGroveWaitEnd, hcollects]
  exact congrArg Host.Outcome.next (if_pos (by simp [hup, hphase, hdue]))

/-! ## Counter advances and the trial timer (R259, R260) -/

theorem exec_ctrPendingRetry (hup : ctrlUp s = true) (hseq : engInReset s .seq = false)
    (hpending : s.boot.ctrPending = true) (hidle : confirmOnPath s = false)
    (hdue : s.boot.ctrRetryBeat.toNat ≤ lbeat s) :
    exec .ctrPendingRetry s = .next (pumpOtp (confirmNext
      { s with boot := { s.boot with ctrRetryBeat := s.beat.lbeat + 0x100000 } })) :=
  congrArg Host.Outcome.next (if_pos (by simp [hup, hseq, hpending, hidle, hdue]))

section

variable {t : Nat} (htimer : s.boot.trialEnd = some t) (hsapling : s.boot.sapling = true)

include htimer hsapling

/-- In Watch the expiry is latched for the wake. -/
theorem trialExpiry_watch (hwatch : inWatch s = true) : trialExpiry s =
    { s with now := max s.now t, boot := { s.boot with trialEnd := none, expiredWake := true } } := by
  rw [trialExpiry, htimer]
  dsimp only
  rw [hsapling, hwatch, if_neg (by decide), if_pos rfl]

theorem trialExpiry_awake (hawake : inWatch s = false) (hup : ctrlUp s = true) (hseq : engInReset s .seq = false) :
    trialExpiry s = trialReturn { s with now := max s.now t } := by
  rw [trialExpiry, htimer]
  dsimp only
  rw [hsapling, hawake, hup, hseq, if_neg (by decide), if_neg (by decide), if_pos (by decide)]

end

/-! ## Roles and nonces (R199) -/

theorem exec_roleLapse {n : Seat} (hup : ctrlUp s = true) (hdue : (authOf s n).held.lapse.toNat ≤ lbeat s) :
    exec (.roleLapse n) s = .next (endRole n 2 s) :=
  congrArg Host.Outcome.next (if_pos (by simp [hup, hdue]))

/-- What a change of a seat's authorisation record does depends on the record that stands there alone. -/
theorem modAuth_congr {n : Seat} {f g : Auth → Auth} (h : f (authOf s n) = g (authOf s n)) :
    modAuth n f s = modAuth n g s := by
  unfold modAuth
  split
  case isTrue hseat =>
    rw [authOf, if_pos hseat] at h
    rw [vmod, vmod, h]
  case isFalse => rfl

/-- A nonce of 2^24 beats is dropped. -/
theorem filter_nonceOld {o : Option Nonce} {x : Nonce} (hnonce : o = some x) (hold : x.beat.toNat + 2 ^ 24 ≤ lbeat s) :
    o.filter (fun v => !nonceOld s v) = none := by
  rw [hnonce, Option.filter_some, nonceOld, decide_eq_true hold]
  rfl

section

variable {n : Seat} {x : Nonce} (hup : ctrlUp s = true) (hseat : isHmb n = true)
  (hold : x.beat.toNat + 2 ^ 24 ≤ lbeat s)

include hup hseat hold

theorem exec_nonceExpiry_role (hnonce : (authOf s n).roleNonce = some x) :
    exec (.nonceExpiry n false) s = .next (modAuth n (fun a => { a with roleNonce := none }) s) := by
  refine congrArg Host.Outcome.next ((if_pos (by rw [hup, hseat]; rfl)).trans (modAuth_congr ?_))
  dsimp only
  rw [if_neg Bool.false_ne_true, filter_nonceOld hnonce hold]

theorem exec_nonceExpiry_consent (hnonce : (authOf s n).consentNonce = some x) :
    exec (.nonceExpiry n true) s = .next (modAuth n (fun a => { a with consentNonce := none }) s) := by
  refine congrArg Host.Outcome.next ((if_pos (by rw [hup, hseat]; rfl)).trans (modAuth_congr ?_))
  dsimp only
  rw [if_pos rfl, filter_nonceOld hnonce hold]

end

/-! ## The PLDM session (R268) -/

theorem exec_pldmSessionTimeout {x : PldmSession} {b : Word} (hsession : s.boot.pldm = some x) (hasked : x.asked = some b)
    (hdue : b.toNat + 2 ^ 27 ≤ lbeat s) : exec .pldmSessionTimeout s = .next (setPldm none (dropStage s)) := by
  have hexpired : pldmExpired s = true := by
    rw [pldmExpired, hsession]
    dsimp only
    rw [hasked]
    exact decide_eq_true hdue
  exact congrArg Host.Outcome.next (if_pos hexpired)

end

/-- Settles O56: each event by its row once it is due; a nonce by what the filter leaves of it. -/
theorem dueEvents : Obligations.DueEvents := by
  intro s
  refine ⟨fun a harmed hopen hup hdue => exec_groveCollectionBeat harmed hopen hup hdue,
    fun c hcollects hup hphase hdue => exec_groveWaitEnd hcollects hup hphase hdue,
    fun hup hseq hpending hidle hdue => exec_ctrPendingRetry hup hseq hpending hidle hdue,
    fun n hup hdue => exec_roleLapse hup hdue,
    fun n hup hseat => ⟨fun x hnonce hold => exec_nonceExpiry_role hup hseat hold hnonce,
      fun x hnonce hold => exec_nonceExpiry_consent hup hseat hold hnonce⟩,
    fun x b hsession hasked hdue => exec_pldmSessionTimeout hsession hasked hdue,
    fun t htimer hsapling => ⟨fun hwatch => ?_, fun hawake hup hseq => ?_⟩⟩
  · exact congrArg Host.Outcome.next (trialExpiry_watch htimer hsapling hwatch)
  · exact congrArg Host.Outcome.next (trialExpiry_awake htimer hsapling hawake hup hseq)

end Sys2Proof.Machine
end

section
/-! The key commands (R218, R224, R226, R229 to R234): what each row does at its turn, and the check orders of
Table 7-8. -/

namespace Sys2Proof.Machine

section

variable {s u : State} {j : Job}

theorem exec_keysGenerate (h : Turn .keysGenerate s j u) : exec .keysGenerate s = .next (startGenerate j u) :=
  congrArg Host.Outcome.next (turn_run h _)

theorem exec_keysImport (h : Turn .keysImport s j u) : exec .keysImport s = .next (startImport j u) :=
  congrArg Host.Outcome.next (turn_run h _)

theorem exec_keysExport (h : Turn .keysExport s j u) : exec .keysExport s = .next (startExport j u) :=
  congrArg Host.Outcome.next (turn_run h _)

theorem exec_keysDerive (h : Turn .keysDerive s j u) : exec .keysDerive s = .next (startDerive j u) :=
  congrArg Host.Outcome.next (turn_run h _)

theorem exec_keysSealDerive (h : Turn .keysSealDerive s j u) : exec .keysSealDerive s = .next (startSealDerive j u) :=
  congrArg Host.Outcome.next (turn_run h _)

theorem exec_keysInstallerDerive (h : Turn .keysInstallerDerive s j u) :
    exec .keysInstallerDerive s = .next (startInstallerDerive j u) :=
  congrArg Host.Outcome.next (turn_run h _)

theorem exec_keysFree (h : Turn .keysFree s j u) : exec .keysFree s = .next (startFree j u) :=
  congrArg Host.Outcome.next (turn_run h _)

theorem exec_keysInfo (h : Turn .keysInfo s j u) : exec .keysInfo s = .next (startInfo j u) :=
  congrArg Host.Outcome.next (turn_run h _)

theorem exec_keysCertRead (h : Turn .keysCertRead s j u) : exec .keysCertRead s = .next (startCertRead j u) :=
  congrArg Host.Outcome.next (turn_run h _)

theorem exec_keysRootProvision (h : Turn .keysRootProvision s j u) :
    exec .keysRootProvision s = .next (pumpOtp (startRootProvision j u)) :=
  congrArg (fun t => Host.Outcome.next (pumpOtp t)) (turn_run h _)

end

/-- Settles O39: at its turn each row runs its check order; bytes are drawn with every check passed. -/
theorem keysCommands : Obligations.KeysCommands := by
  intro s u j
  refine ⟨fun h x v hdraw => ?_,
    fun h => admits_of (exec_keysImport h),
    fun h => admits_of (exec_keysExport h),
    fun h => admits_of (exec_keysDerive h),
    fun h => admits_of (exec_keysSealDerive h),
    fun h => admits_of (exec_keysInstallerDerive h),
    fun h => admits_of (exec_keysFree h),
    fun h => admits_of (exec_keysInfo h),
    fun h => admits_of (exec_keysCertRead h),
    fun h x v hdraw => ?_⟩
  · obtain ⟨rfl, rfl⟩ := Prod.mk.inj hdraw
    exact admits_of (exec_keysGenerate h)
  · obtain ⟨rfl, rfl⟩ := Prod.mk.inj hdraw
    exact admits_of ((exec_keysRootProvision h).trans (congrArg _ (pump_ff _ _ _)))

end Sys2Proof.Machine
end

section
/-! Link exchanges (R235 to R238): frames, timers, key installs and key switches, and KEYS_LINK_RESTART. -/

namespace Sys2Proof.Machine

section

variable {k : Port} {s : State}

/-! ## Frames (R235, R237) -/

/-- A frame of the row's type is taken off its port, and goes to the row's handler unless the port is STOPPED or
DISABLED. -/
theorem onFrame_taken {type : Nat} {f : Bytes} (go : Port → Bytes → State → State) (hframe : (s.link k).frame = some f)
    (hready : exchangeReady s = true) (hok : frameOk type f = true) :
    onFrame type k go s =
      if (s.link k).mode = .stopped ∨ (s.link k).mode = .disabled then
        s.modLink k (fun l => { l with frame := none, reading := false })
      else go k f (s.modLink k (fun l => { l with frame := none, reading := false })) := by
  rw [onFrame, hframe]
  dsimp only
  rw [hok, hready, if_neg (by decide), link_modLink]

/-! ## Timers (R237) -/

theorem exec_linkHelloTimer (hdue : helloDue s k = true) : exec (.linkHelloTimer k) s = .next (sendHello k s) :=
  congrArg Host.Outcome.next (if_pos hdue)

theorem exec_linkExchangeTimeout {x : Exchange} (hexch : (s.link k).exch = some x) (hup : keysUp s = true)
    (hdue : x.start.toNat + 0x4000 ≤ lbeat s) : exec (.linkExchangeTimeout k) s = .next (failExchange k s) := by
  have hexec : exec (.linkExchangeTimeout k) s = execLinkExchangeTimeout k s := rfl
  rw [hexec, execLinkExchangeTimeout, hexch]
  exact congrArg Host.Outcome.next (if_pos (by rw [hup, decide_eq_true hdue]; rfl))

/-! ## Rotation (R238) -/

/-- An install that is due moves the rotation on, and is passed over unless LOCKED holds and time is left. -/
theorem linkKeyInstall_due (hup : keysUp s = true) (hsecret : hasSecret s k = true) (hpke : pkeOut s = false)
    (hdue : (s.link k).rot * 2 ^ 24 ≤ lbeat s + 0x10000) :
    linkKeyInstall k s =
      let u := s.modLink k (fun l => { l with rot := l.rot + 1 })
      if s.beat.mode ≠ .locked ∨ (s.link k).rot * 2 ^ 24 < lbeat s + 4096 then u
      else if (s.link k).uses = 255 then clearPort k u
      else installKeys k (word ((s.link k).rot * 2 ^ 24)) (s.link k).rot u :=
  if_pos (by rw [hup, hsecret, hpke, decide_eq_true hdue]; rfl)

/-- A port whose next key x becomes the current one. -/
def Link.switchedTo (x : NextKey) (l : Link) : Link :=
  { l with next := none, epoch := BitVec.ofNat 16 x.e, uses := if x.e = initialE then 0 else satInc l.uses,
           mode := if l.mode = .stopped ∨ l.mode = .disabled then l.mode else .keyed }

/-- When a switch begins a new exchange, as a proposition. -/
theorem renewalDue_iff (k : Port) (u : State) :
    (decide ((u.link k).uses = 240) && u.beat.mode == .locked && exchangeReady u && (u.link k).exch.isNone) = true ↔
      (u.link k).uses = 240 ∧ u.beat.mode = .locked ∧ exchangeReady u = true ∧ (u.link k).exch = none := by
  simp [and_assoc]

/-- At its beat the next key becomes the current one; at 240 uses a new exchange begins. -/
theorem linkKeySwitch_due {x : NextKey} (hnext : (s.link k).next = some x) (hup : keysUp s = true)
    (hdue : x.beat.toNat ≤ lbeat s) :
    linkKeySwitch k s =
      let u := s.modLink k (Link.switchedTo x)
      if (u.link k).uses = 240 ∧ u.beat.mode = .locked ∧ exchangeReady u = true ∧ (u.link k).exch = none then
        sendHello k u
      else u := by
  rw [linkKeySwitch, hnext]
  dsimp only
  rw [hup, decide_eq_true hdue, if_pos (by decide)]
  exact if_congr (renewalDue_iff k _) rfl rfl

/-- With PKE out of service a rotation without a next key clears the port (Table 1-15). -/
theorem linkKeySwitch_pkeOut (hnext : (s.link k).next = none) (hup : keysUp s = true) (hsecret : hasSecret s k = true)
    (hpke : pkeOut s = true) (hdue : (s.link k).rot * 2 ^ 24 ≤ lbeat s) : linkKeySwitch k s = clearPort k s := by
  rw [linkKeySwitch, hnext]
  exact if_pos (by rw [hup, hsecret, hpke, decide_eq_true hdue]; rfl)

/-! ## KEYS_LINK_RESTART (R233, R237) -/

theorem exec_keysLinkRestart {u : State} {j : Job} (h : Turn .keysLinkRestart s j u) :
    exec .keysLinkRestart s = .next (startLinkRestart j u) :=
  congrArg Host.Outcome.next (turn_run h _)

end

/-- Settles O52: a frame by onFrame_taken, each timer and rotation by its row once it is due, the restart by its check
order. -/
theorem linkExchanges : Obligations.LinkExchanges := by
  intro k s
  exact ⟨fun f hframe hready =>
      ⟨fun hok => congrArg Host.Outcome.next (onFrame_taken onHello hframe hready hok),
        fun hok => congrArg Host.Outcome.next (onFrame_taken onReply hframe hready hok),
        fun hok => congrArg Host.Outcome.next (onFrame_taken onFinish hframe hready hok),
        fun hok => congrArg Host.Outcome.next (onFrame_taken onReject hframe hready hok)⟩,
    fun hdue => exec_linkHelloTimer hdue,
    fun x hexch hup hdue => exec_linkExchangeTimeout hexch hup hdue,
    fun hup hsecret hpke hdue => congrArg Host.Outcome.next (linkKeyInstall_due hup hsecret hpke hdue),
    fun x hnext hup hdue => congrArg Host.Outcome.next (linkKeySwitch_due hnext hup hdue),
    fun hnext hup hsecret hpke hdue => congrArg Host.Outcome.next (linkKeySwitch_pkeOut hnext hup hsecret hpke hdue),
    fun u j h => admits_of (exec_keysLinkRestart h)⟩

end Sys2Proof.Machine
end

section
/-! The staging, activation and handover commands (R245, R261 to R267): what each row does at its turn, and the check
orders of Table 8-13. -/

namespace Sys2Proof.Machine

section

variable {s u : State} {j : Job}

theorem exec_bootStageBegin (h : Turn .bootStageBegin s j u) : exec .bootStageBegin s = .next (startStageBegin j u) :=
  congrArg Host.Outcome.next (turn_run h _)

theorem exec_bootStageData (h : Turn .bootStageData s j u) : exec .bootStageData s = .next (startStageData j u) :=
  congrArg Host.Outcome.next (turn_run h _)

theorem exec_bootStageFinish (h : Turn .bootStageFinish s j u) : exec .bootStageFinish s = .next (startStageFinish j u) :=
  congrArg Host.Outcome.next (turn_run h _)

theorem exec_bootStageCancel (h : Turn .bootStageCancel s j u) : exec .bootStageCancel s = .next (startStageCancel j u) :=
  congrArg Host.Outcome.next (turn_run h _)

theorem exec_bootActivate (h : Turn .bootActivate s j u) : exec .bootActivate s = .next (startActivate j u) :=
  congrArg Host.Outcome.next (turn_run h _)

theorem exec_bootHandoverPut (h : Turn .bootHandoverPut s j u) : exec .bootHandoverPut s = .next (startHandoverPut j u) :=
  congrArg Host.Outcome.next (turn_run h _)

theorem exec_bootHandoverGet (h : Turn .bootHandoverGet s j u) : exec .bootHandoverGet s = .next (startHandoverGet j u) :=
  congrArg Host.Outcome.next (turn_run h _)

theorem exec_bootConfigCommit (h : Turn .bootConfigCommit s j u) :
    exec .bootConfigCommit s = .next (pumpOtp (startConfigCommit j u)) :=
  congrArg (fun t => Host.Outcome.next (pumpOtp t)) (turn_run h _)

theorem exec_bootSecretAccess (h : Turn .bootSecretAccess s j u) : exec .bootSecretAccess s = .next (startSecret j u) :=
  congrArg Host.Outcome.next (turn_run h _)

end

/-! ## The signature, the last check of BOOT_ACTIVATE (Table 8-13) -/

/-- A check order in two parts: the second part decides once the first has passed. -/
theorem firstFail_append (cs ds : List (Bool × Status)) : firstFail (cs ++ ds) = (firstFail cs).or (firstFail ds) := by
  induction cs with
  | nil => rfl
  | cons c cs ih =>
    obtain ⟨ok, st⟩ := c
    cases ok with
    | false => rfl
    | true => exact ih

/-- The checks of BOOT_ACTIVATE before the signature. -/
def activateChecks (j : Job) (s : State) : List (Bool × Status) :=
  let b := j.f 0 0 1 == 1
  let h := slotHeader s b
  [(isHmb j.seat, .denied), (zeroFrom (j.w 0) 1 && zeroFrom (j.w 1) 32, .badArgument), (operatorRight s j.seat, .denied),
   (activateAdmitted s b (j.f 1 0 32), .state), (headerOk h && svnAdmitted s h && bodyFits s h, .badArgument)]

theorem startActivate_eq (j : Job) (s : State) :
    startActivate j s =
      match firstFail (activateChecks j s) with
      | some st => refuseJob j st s
      | none =>
        if imageSigned s (slotHeader s (j.f 0 0 1 == 1)) then activateJob j (j.f 0 0 1 == 1) s
        else refuseJob j .pkeVerifyFail s := by
  have hstart : startActivate j s =
      match firstFail (activateChecks j s ++ [(imageSigned s (slotHeader s (j.f 0 0 1 == 1)), .pkeVerifyFail)]) with
      | some st => refuseJob j st s
      | none => activateJob j (j.f 0 0 1 == 1) s := rfl
  rw [hstart, firstFail_append]
  cases firstFail (activateChecks j s) with
  | some st => rfl
  | none =>
    by_cases hsigned : imageSigned s (slotHeader s (j.f 0 0 1 == 1)) = true
    · simp only [Option.none_or, firstFail, if_pos hsigned]
    · simp only [Option.none_or, firstFail, if_neg hsigned]

/-- Settles O40: at its turn each row runs its check order; BOOT_ACTIVATE checks the signature last. -/
theorem bootCommands : Obligations.BootCommands := by
  intro s u j
  exact ⟨fun h => admits_of (exec_bootStageBegin h),
    fun h => admits_of (exec_bootStageData h),
    fun h => admits_of (exec_bootStageFinish h),
    fun h => admits_of (exec_bootStageCancel h),
    fun h => admits_of ((exec_bootActivate h).trans (congrArg _ (startActivate_eq j u))),
    fun h => admits_of (exec_bootHandoverPut h),
    fun h => admits_of (exec_bootHandoverGet h),
    fun h => admits_of ((exec_bootConfigCommit h).trans (congrArg _ (pump_ff _ _ _))),
    fun h => admits_of (exec_bootSecretAccess h)⟩

end Sys2Proof.Machine
end

section
/-! BOOT_CONFIRM (R259) and KEYS_LINK_RX (R241): what a seat's write of each register does. -/

namespace Sys2Proof.Machine

/-! ## BOOT_CONFIRM -/

section

variable {n : Seat} {data : Word} {s : State}

theorem exec_bootConfirm (rq : Req) : exec (.bootConfirm rq) s = .next (serve (reqAccess true 0x4020 rq) s) := rfl

theorem writeWide_bootConfirm (hup : ctrlUp s = true) :
    writeWide n 0x4020 data s = pumpOtp (confirmWrite n data s) := by
  rw [writeWide, pageOf_low (by decide)]
  simp only [writeBlock, if_pos hup]

/-- What makes a write of BOOT_CONFIRM valid: the seat, the key, the generation and a sapling on trial. -/
theorem confirmValid_of {b : Bool} (hseat : n = mgmt) (hruns : s.boot.running = some b) (hsapling : s.boot.sapling = true)
    (hidle : s.boot.confirming = false) (htrial : ∀ t, s.boot.trialEnd = some t → s.now < t)
    (hkey : fld data 0 16 = 0x5A91) (hgen : fld data 32 32 = slotGen s b) : confirmValid n data s = true := by
  rw [confirmValid, hruns]
  simp only [hseat, hkey, hgen, hsapling, hidle, beq_self_eq_true, Bool.not_false, Bool.true_and]
  split
  · next t hends => exact decide_eq_true (htrial t hends)
  · rfl

theorem confirmWrite_valid {b : Bool} (hruns : s.boot.running = some b) (hvalid : confirmValid n data s = true) :
    confirmWrite n data s = confirmNext (programSlot b .confirmed
      { s with boot := { s.boot with trialEnd := none, confirming := true } }) := by
  rw [confirmWrite, hruns]
  exact if_pos hvalid

theorem confirmWrite_invalid (hinvalid : confirmValid n data s = false) : confirmWrite n data s = confirmIgnored n s := by
  unfold confirmWrite
  split
  · rfl
  · exact if_neg (by rw [hinvalid]; decide)

end

/-! ## KEYS_LINK_RX -/

section

variable {n : Seat} {data : Word} {s : State}

theorem exec_keysLinkRx (rq : Req) : exec (.keysLinkRx rq) s = .next (serve (reqAccess true 0x5040 rq) s) := rfl

theorem writeWide_keysLinkRx (hup : ctrlUp s = true) :
    writeWide n 0x5040 data s = if n = peer then linkDoorbellWrite data s else s := by
  rw [writeWide, pageOf_low (by decide)]
  simp only [writeBlock, hup, Bool.and_true, decide_eq_true_eq]

/-- The doorbell of a configured port that neither reads nor holds a frame starts the read. -/
theorem linkDoorbellWrite_starts {k : Port} (hport : fld data 16 3 = k.val) (hmin : 24 ≤ fld data 0 16)
    (hmax : fld data 0 16 ≤ 32768) (hconf : linkConfigured s k = true) (hidle : (s.link k).reading = false)
    (hempty : (s.link k).frame = none) :
    linkDoorbellWrite data s = issue { addr := frameBase s k false, len := fld data 0 16, owner := .linkFrame k }
      (s.modLink k (fun l => { l with reading := true })) := by
  have hk := k.isLt
  have hin : ¬(fld data 16 3 ≥ 6 ∨ fld data 0 16 < 24 ∨ fld data 0 16 > 32768) := by omega
  have hix : Fin.ofNat 6 (fld data 16 3) = k := by rw [hport]; exact Fin.ofNat_val_eq_self k
  rw [linkDoorbellWrite, if_neg hin]
  dsimp only
  rw [hix, hconf, hidle, hempty]
  rfl

end

/-- Settles O21: each command is a served write of its register, below every seat's page; the write by its conditions. -/
theorem confirmAndLinkDoorbell : Obligations.ConfirmAndLinkDoorbell := by
  refine ⟨fun n rq s h hup => ?_, fun n rq s h hup => ?_⟩
  · rw [exec_bootConfirm, serve_wr h _ (by decide) (by decide) (.inl rfl), writeWide_bootConfirm hup]
    refine ⟨fun b hseat hruns hsapling hidle htrial hkey hgen => ?_, fun hinvalid => ?_⟩
    · rw [confirmWrite_valid hruns (confirmValid_of hseat hruns hsapling hidle htrial hkey hgen)]
    · rw [confirmWrite_invalid hinvalid]
      rfl
  · rw [exec_keysLinkRx, serve_wr h _ (by decide) (by decide) (.inl rfl), writeWide_keysLinkRx hup]
    refine ⟨fun hother => ?_, fun k hseat hport hmin hmax hconf hidle hempty => ?_⟩
    · rw [if_neg hother]
    · rw [if_pos hseat, linkDoorbellWrite_starts hport hmin hmax hconf hidle hempty]

end Sys2Proof.Machine
end

section
/-! The PLDM firmware device (R268, Table 8-14): the commands that need no session, those that are told so without it,
and what each does in its own session. -/

namespace Sys2Proof.Machine

section

variable {p : MctpPath} {s : State}

theorem pldmRun_heard (hheard : pldmHeard p s = true) (go : State → State) : pldmRun p go s = .next (go s) :=
  congrArg Host.Outcome.next (if_pos hheard)

/-! ## The session of a path -/

theorem inUpdate_none (hnone : pldmOf p s = none) (go : PldmSession → State → State) :
    inUpdate p go s = tell p (.completion "NOT_IN_UPDATE_MODE") s := by
  rw [inUpdate, hnone]
  rfl

theorem inUpdate_some {x : PldmSession} (hsession : pldmOf p s = some x) (go : PldmSession → State → State) :
    inUpdate p go s = go x s := by
  rw [inUpdate, hsession]

/-- A command that needs a session, on a path without one. -/
theorem pldmRun_inUpdate_none (hheard : pldmHeard p s = true) (hnone : pldmOf p s = none)
    (go : PldmSession → State → State) :
    pldmRun p (inUpdate p go) s = .next (tell p (.completion "NOT_IN_UPDATE_MODE") s) :=
  (pldmRun_heard hheard _).trans (congrArg _ (inUpdate_none hnone go))

/-- A command that needs a session, on the path whose session it is. -/
theorem pldmRun_inUpdate_some {x : PldmSession} (hheard : pldmHeard p s = true) (hsession : pldmOf p s = some x)
    (go : PldmSession → State → State) : pldmRun p (inUpdate p go) s = .next (go x s) :=
  (pldmRun_heard hheard _).trans (congrArg _ (inUpdate_some hsession go))

/-! ## What each command does -/

/-- Limcy's components are 1 to 3. -/
theorem knownComponent_eq (i : BitVec 16) : knownComponent i = decide (1 ≤ i.toNat ∧ i.toNat ≤ 3) :=
  (Bool.decide_and _ _).symm

theorem onRequestUpdate_eq (p : MctpPath) (m : Nat) (s : State) : onRequestUpdate p m s =
    if s.boot.pldm ≠ none then tell p (.completion "ALREADY_IN_UPDATE_MODE") s
    else if agentRole s (pathSeat p) = false ∨ s.boot.stage ≠ none ∨ bootLc s = false then
      tell p (.completion "UNABLE_TO_INITIATE_UPDATE") s
    else if m < 32 then tell p (.completion "ERROR_INVALID_DATA") s
    else tell p .ok { s with boot := { s.boot with pldm := some { seat := pathSeat p, maxTransfer := m } } } := by
  have hbarred : (!agentRole s (pathSeat p) || s.boot.stage.isSome || !bootLc s) = true ↔
      agentRole s (pathSeat p) = false ∨ s.boot.stage ≠ none ∨ bootLc s = false := by
    simp [Option.isSome_iff_ne_none, or_assoc]
  exact if_congr Option.isSome_iff_ne_none rfl (if_congr hbarred rfl rfl)

theorem onUpdateComponent_eq (p : MctpPath) (i : BitVec 16) (len : Nat) (x : PldmSession) (s : State) :
    onUpdateComponent p i len x s =
      if x.comp ≠ none then tell p (.completion "INVALID_STATE_FOR_COMMAND") s
      else if updateAdmitted p i len s = true then askPiece p { x with comp := some i }
        (tell p (.componentAccepted i true) (stageBegin (pathSeat p) true i.toNat len s))
      else tell p (.componentAccepted i false) s :=
  if_congr Option.isSome_iff_ne_none rfl rfl

section

variable {x : PldmSession}

/-- A piece that was asked for, while its staging session stands. -/
theorem onPiece_asked {b : Word} {g : StageSession} (d : Bytes) (hasked : x.asked = some b) (hstage : pldmStage s = some g) :
    onPiece p d x s =
      if d.length ≠ pieceLength x g then askPiece p x s
      else if g.bytes + d.length < g.length then askPiece p x (stageWrite g d s)
      else finishComponent p x { g with bytes := g.bytes + d.length } (stageWrite g d s) := by
  rw [onPiece, hasked, hstage]

theorem onActivate_begun (hcomp : x.comp ≠ none) :
    onActivate p x s = tell p (.completion "INVALID_STATE_FOR_COMMAND") s :=
  if_pos (Option.isSome_iff_ne_none.mpr hcomp)

section

variable (hcomp : x.comp = none)

include hcomp

theorem onActivate_idle : onActivate p x s =
    if x.finished.isEmpty then tell p (.completion "INCOMPLETE_UPDATE") s
    else if x.finished.contains 1 then
      tell p (.completion (activateStaged p s).2) (setPldm none (activateStaged p s).1)
    else tell p (.completion "SUCCESS") (setPldm none s) := by
  rw [onActivate, hcomp]
  rfl

theorem onActivate_unfinished (hempty : x.finished = []) :
    onActivate p x s = tell p (.completion "INCOMPLETE_UPDATE") s := by
  rw [onActivate_idle hcomp, hempty]
  rfl

/-- Components 2 and 3 take effect at the next start, so only the session ends. -/
theorem onActivate_nextStart (hdone : x.finished ≠ []) (himage : x.finished.contains 1 = false) :
    onActivate p x s = tell p (.completion "SUCCESS") (setPldm none s) := by
  rw [onActivate_idle hcomp, if_neg (mt List.isEmpty_iff.mp hdone), himage]
  rfl

/-- Component 1 is activated as under BOOT_ACTIVATE. -/
theorem onActivate_image (himage : x.finished.contains 1 = true) :
    onActivate p x s = tell p (.completion (activateStaged p s).2) (setPldm none (activateStaged p s).1) := by
  have hdone : x.finished ≠ [] := fun hempty => by rw [hempty] at himage; exact absurd himage (by decide)
  rw [onActivate_idle hcomp, if_neg (mt List.isEmpty_iff.mp hdone), if_pos himage]

theorem onCancelComponent_idle :
    onCancelComponent p x s = tell p (.completion "INVALID_STATE_FOR_COMMAND") s :=
  if_pos (Option.isNone_iff_eq_none.mpr hcomp)

end

theorem onCancelComponent_begun (hcomp : x.comp ≠ none) : onCancelComponent p x s =
    tell p .ok (setPldm (some { x with comp := none, asked := none }) (dropStage s)) :=
  if_neg (mt Option.isNone_iff_eq_none.mp hcomp)

end

/-! ## The answer to RequestFirmwareData -/

theorem exec_requestFirmwareData_none (d : Bytes) (hheard : pldmHeard p s = true) (hnone : pldmOf p s = none) :
    exec (.requestFirmwareData p d) s = .next s := by
  have hexec : exec (.requestFirmwareData p d) s = execRequestFirmwareData p d s := rfl
  rw [hexec, execRequestFirmwareData, pldmRun_heard hheard, hnone]

theorem exec_requestFirmwareData_some {x : PldmSession} (d : Bytes) (hheard : pldmHeard p s = true)
    (hsession : pldmOf p s = some x) : exec (.requestFirmwareData p d) s = .next (onPiece p d x s) := by
  have hexec : exec (.requestFirmwareData p d) s = execRequestFirmwareData p d s := rfl
  rw [hexec, execRequestFirmwareData, pldmRun_heard hheard, hsession]

theorem exec_pldmUnsupportedCmd {code : BitVec 8} (hheard : pldmHeard p s = true)
    (hcode : pldmCodes.contains code = false) :
    exec (.pldmUnsupportedCmd p code) s = .next (tell p (.completion "ERROR_UNSUPPORTED_PLDM_CMD") s) := by
  have hexec : exec (.pldmUnsupportedCmd p code) s = execPldmUnsupportedCmd p code s := rfl
  rw [hexec, execPldmUnsupportedCmd, pldmRun_heard hheard, hcode]
  rfl

end

/-- Settles O59: heard, each command is its meaning, run in the path's own session or told that there is none. -/
theorem pldmDevice : Obligations.PldmDevice := by
  intro p s hheard
  refine ⟨pldmRun_heard hheard _, pldmRun_heard hheard _, pldmRun_heard hheard _,
    fun m => (pldmRun_heard hheard _).trans (congrArg _ (onRequestUpdate_eq p m s)),
    fun code hcode => exec_pldmUnsupportedCmd hheard hcode, fun hnone i l d => ?_, fun x hsession => ?_⟩
  · have told := pldmRun_inUpdate_none hheard hnone
    exact ⟨told _, told _, told _, told _, told _, exec_requestFirmwareData_none d hheard hnone⟩
  · have runs := pldmRun_inUpdate_some hheard hsession
    have runs_eq {go : PldmSession → State → State} {t : State} (h : go x s = t) :
        pldmRun p (inUpdate p go) s = .next t := (runs go).trans (congrArg _ h)
    exact ⟨fun i => runs_eq (congrArg (fun known => tell p (.componentAccepted i known) s) (knownComponent_eq i)),
      fun i l => runs_eq (onUpdateComponent_eq p i l.toNat x s),
      fun d g b hasked hstage => (exec_requestFirmwareData_some d hheard hsession).trans
        (congrArg _ (onPiece_asked d hasked hstage)),
      fun hcomp hempty => runs_eq (onActivate_unfinished hcomp hempty),
      fun hcomp hdone himage => runs_eq (onActivate_nextStart hcomp hdone himage),
      fun hcomp himage => runs_eq (onActivate_image hcomp himage),
      fun hcomp => runs_eq (onActivate_begun hcomp),
      fun hcomp => runs_eq (onCancelComponent_idle hcomp),
      fun hcomp => runs_eq (onCancelComponent_begun hcomp),
      runs _⟩

end Sys2Proof.Machine
end

section
/-! The PKE commands (R275, R276, R285, R286, R290, R292, R295, R296): what starting a job does offline and by the
check order of Table 9-6, the marks of the curve commands, and the second part of a hybrid job. -/

namespace Sys2Proof.Machine

/-! ## Starting a job -/

/-- Checks 1 to 4 of Table 9-6. -/
def pkeChecks (j : Job) (u : State) : List (Bool × Status) :=
  [(!(j.op == .pkeCurveLoad || j.op == .pkeCurveClear) || isHmb j.seat, .denied), (pkeArgsOk u j, .badArgument),
   (pkeRightsOk u j, .denied), (pkeStateOk u j, .state)]

/-- What a job does past its checks: ST_RETIRED when a kind it needs is gone, and otherwise its blocks, then its input
or, without one, its computation. -/
def pkeBegun (j : Job) (u : State) : State :=
  let k := kindsOf j.op j.alg
  if k.1 && kindGone u false || k.2 && kindGone u true then failJob j .retired u
  else
    match (giveBlocks j u).job? j.id with
    | none => giveBlocks j u
    | some x =>
      if x.inLen = 0 || x.op == .pkePublic then compute x.id (giveBlocks j u)
      else fetchJob x (x.w 1) x.inLen (giveBlocks j u)

/-- The slot of PKE_CURVE_LOAD, empty in u, is CHECKING once the job reads its input (R295). -/
def curveMarked (u : State) (j : Job) (t : State) : State :=
  match t.job? j.id with
  | some x => if u.pke.curves[j.curveIx].st == .empty && x.stage == .fetch then
      modCurve j.curveIx (fun c => { c with st := .checking }) t else t
  | none => t

section

variable {u : State} (j : Job)

theorem startPke_offline (hoff : u.core.pkeOffline = true) : startPke j u = failJob j .fault u := if_pos hoff

theorem startPke_online (hon : u.core.pkeOffline = false) :
    startPke j u = match firstFail (pkeChecks j u) with
      | some st => refuseJob j st u
      | none => pkeBegun j u :=
  if_neg (by rw [hon]; decide)

theorem startCurveLoad_eq (u : State) : startCurveLoad j u = curveMarked u j (startPke j u) := rfl

theorem startCurveClear_offline (hoff : u.core.pkeOffline = true) : startCurveClear j u = failJob j .fault u :=
  if_pos hoff

theorem startCurveClear_online (hon : u.core.pkeOffline = false) :
    startCurveClear j u =
      match firstFail [(isHmb j.seat, .denied), (pkeArgsOk u j, .badArgument), (pkeRightsOk u j, .denied),
        (pkeStateOk u j, .state)] with
      | some st => refuseJob j st u
      | none => settle (modCurve j.curveIx (fun c => { c with st := .clearing, clearJob := some j.id }) u) :=
  if_neg (by rw [hon]; decide)

end

/-! ## A row at its turn -/

theorem exec_pkeCurveLoad (s : State) :
    exec .pkeCurveLoad s = .next (runPke .pkeCurveLoad startCurveLoad s) := rfl

theorem exec_pkeCurveClear (s : State) :
    exec .pkeCurveClear s = .next (runPke .pkeCurveClear startCurveClear s) := rfl

/-- A function of the outcome of a check order acts on either outcome. -/
theorem apply_firstFail (f : State → State) (cs : List (Bool × Status)) (r : Status → State) (e : State) :
    f (match firstFail cs with | some st => r st | none => e)
      = match firstFail cs with | some st => f (r st) | none => f e := by
  cases firstFail cs <;> rfl

section

variable {o : Op} {c : Instr} {s u : State} {j : Job} {go : Job → State → State}
  (hexec : exec c s = .next (runPke o go s)) (hturn : PkeTurn o s j u)

include hexec hturn

/-- A PKE row at its turn starts its job, and the freed choice is made again. -/
theorem exec_pke_start : exec c s = .next (choosePke (go j u)) := hexec.trans (congrArg _ (pke_run hturn go))

/-- A PKE row at its turn meets the check order that starts its job. -/
theorem admits_pke {cs : List (Bool × Status)} {r : Status → State} {e : State}
    (hgo : go j u = match firstFail cs with | some st => r st | none => e) :
    Admits c s cs (choosePke e) (fun st => choosePke (r st)) :=
  admits_of ((exec_pke_start hexec hturn).trans
    (congrArg _ ((congrArg choosePke hgo).trans (apply_firstFail choosePke cs r e))))

/-- A row whose job starts as startPke says, up to a last step f. -/
theorem pke_plain {f : State → State} (hgo : go j u = f (startPke j u)) :
    (u.core.pkeOffline = true → exec c s = .next (choosePke (f (failJob j .fault u))))
    ∧ (u.core.pkeOffline = false →
        Admits c s (pkeChecks j u) (choosePke (f (pkeBegun j u))) (fun st => choosePke (f (refuseJob j st u)))) := by
  refine ⟨fun hoff => ?_, fun hon => admits_pke hexec hturn ?_⟩
  · rw [exec_pke_start hexec hturn, hgo, startPke_offline j hoff]
  · rw [hgo, startPke_online j hon]
    exact apply_firstFail f _ _ _

end

/-! ## The second part of a hybrid job (R286) -/

/-- The job's lattice part waits and a block of its kind is free. -/
def latticePartFits (s : State) (x : Job) : Bool := x.lt == .waiting && (freeBlock s true).isSome

/-- A part of the job waits and a block of its kind is free. -/
def partFits (s : State) (x : Job) : Bool := latticePartFits s x || x.bn == .waiting && (freeBlock s false).isSome

section

variable {s : State}

theorem exec_hybridSecondPart (hup : ctrlUp s = true) (hruns : engInReset s .pke = false) :
    exec .hybridSecondPart s = .next (secondPart s) :=
  congrArg Host.Outcome.next (if_pos (by rw [hup, hruns]; rfl))

/-- The first job with a part that fits puts that part on a free block, and a job that has its input submits the
part's first unit. -/
theorem secondPart_eq (s : State) : secondPart s =
    match s.jobs.find? (partFits s) with
    | none => s
    | some x =>
      match freeBlock s (latticePartFits s x) with
      | none => s
      | some b =>
        if x.stage = .engine then submitUnit { owner := .pke x.id b } (takeBlock x.id (latticePartFits s x) b s)
        else takeBlock x.id (latticePartFits s x) b s := rfl

theorem secondPart_none (hnone : s.jobs.find? (partFits s) = none) : secondPart s = s := by
  rw [secondPart_eq, hnone]

theorem secondPart_some {x : Job} {b : Fin 6} (hfind : s.jobs.find? (partFits s) = some x)
    (hfree : freeBlock s (latticePartFits s x) = some b) :
    secondPart s =
      if x.stage = .engine then submitUnit { owner := .pke x.id b } (takeBlock x.id (latticePartFits s x) b s)
      else takeBlock x.id (latticePartFits s x) b s := by
  rw [secondPart_eq, hfind]
  dsimp only
  rw [hfree]

end

/-- Settles O41: at its turn each row runs the start of its job, offline or by its check order; the second part is
that of the first job with a part that fits. -/
theorem pkeWork : Obligations.PkeWork := by
  refine ⟨fun s u j => ?_, fun s hup hruns => ?_⟩
  · intro k v curve checks under begun mark plain
    have row {o : Op} {c : Instr} (hexec : exec c s = .next (runPke o startPke s)) : plain o c id :=
      fun hturn => pke_plain hexec hturn rfl
    have hmark (t : State) : curveMarked u j t = mark t := rfl
    exact ⟨row rfl, row rfl, row rfl, row rfl, row rfl, row rfl, row rfl, row rfl, row rfl, row rfl,
      fun hturn => pke_plain (f := mark) (exec_pkeCurveLoad s) hturn ((startCurveLoad_eq j u).trans (hmark _)),
      fun hturn => ⟨fun hoff => by rw [exec_pke_start (exec_pkeCurveClear s) hturn, startCurveClear_offline j hoff],
        fun hon => admits_pke (exec_pkeCurveClear s) hturn (startCurveClear_online j hon)⟩⟩
  · rw [exec_hybridSecondPart hup hruns]
    exact ⟨fun x b hfind hfree => congrArg _ (secondPart_some hfind hfree),
      fun hnone => congrArg _ (secondPart_none hnone)⟩

end Sys2Proof.Machine
end

section
/-! Word input of DIG (R311, R312): what one write of DIG_WORD or DIG_LAST_WORD does, in either size. -/

namespace Sys2Proof.Machine

/-! ## A word of a seat -/

/-- A write that no open mode 0 message takes is recorded (R311). -/
def recordUntakenWord (n : Seat) (s : State) : State :=
  recordLimited (.digWrite n)
    { code := 0x0605, seat := stampOf n, part := partByte n, object := (s.seat n).digSel.zeroExtend 64 } s

/-- The bytes of one write are the last entry of the seat's FIFO, under the handle of DIG_SEL. -/
def putWord (n : Seat) (bytes : Bytes) (s : State) : State :=
  s.modSeat n (fun p => { p with fifo := p.fifo ++ [{ handle := p.digSel, bytes := bytes }], fifoIn := p.fifoIn + 1 })

section

variable {n : Seat} {s : State} {i : Fin 272}

theorem writeWord_unselected (wide : Bool) (bytes : Bytes) (hnone : selected s n = none) :
    writeWord n wide bytes s = recordUntakenWord n s := by
  rw [writeWord, hnone]
  rfl

variable (hsel : selected s n = some i)

include hsel

theorem writeWord_selected (wide : Bool) (bytes : Bytes) : writeWord n wide bytes s =
    if wide = false ∨ 64 ≤ (s.seat n).fifo.length then overrunMsg i s else putWord n bytes s := by
  rw [writeWord, hsel]
  exact if_congr (by simp) rfl rfl

theorem writeWord_room (bytes : Bytes) (hroom : (s.seat n).fifo.length < 64) :
    writeWord n true bytes s = putWord n bytes s := by
  rw [writeWord_selected hsel, if_neg (by simpa using hroom)]

theorem writeWord_full (bytes : Bytes) (hfull : 64 ≤ (s.seat n).fifo.length) :
    writeWord n true bytes s = overrunMsg i s := by
  rw [writeWord_selected hsel, if_pos (.inr hfull)]

theorem writeWord_narrow (bytes : Bytes) : writeWord n false bytes s = overrunMsg i s := by
  rw [writeWord_selected hsel, if_pos (.inl rfl)]

end

/-! ## The writes of the registers -/

theorem writeWide_digWord (n : Seat) (data : Word) (s : State) :
    writeWide n 0xC010 data s = writeWord n true (wordBytes data) s := by
  rw [writeWide, pageOf_low (by decide)]
  simp only [writeBlock]

/-- DIG_LAST_WORD k is the register that appends k + 1 bytes. -/
theorem writeWide_digLastWord (n : Seat) (k : Fin 8) (data : Word) (s : State) :
    writeWide n (0xC040 + 8 * k.val) data s = writeWord n true ((wordBytes data).take (k.val + 1)) s := by
  have hk := k.isLt
  have hix : (0xC040 + 8 * k.val - 0xC040) / 8 = k.val := by omega
  rw [writeWide, pageOf_low (by omega)]
  dsimp only
  unfold writeBlock
  split
  case h_7 => rw [if_pos (by omega), hix]
  all_goals omega

/-- A 32-bit write of a register below the seat pages is answered, whatever it does. -/
theorem serve_narrow_low {n : Seat} {rq : Req} {s : State} (up : s.core.ctrlReset = false) (awake : inWatch s = false)
    (src : rq.src = stampOf n) (narrow : rq.wide = false) (low : rq.low = 0) {a : Nat} (ha : a < 0x40000) (h4 : a % 4 = 0) :
    serve (reqAccess true a rq) s = answered rq 0 (writeNarrow n a s) := by
  have haddr : a % 2097152 = a := Nat.mod_eq_of_lt (by omega)
  have hwindow : ¬ 0x100000 ≤ a := by omega
  have hforeign : noteForeign n a s = s := by rw [noteForeign, pageOf_low ha]
  rw [serve_awake _ _ up awake]
  simp [answer, perform, reqAccess, Access.xfer, Xfer.aligned, src, narrow, low, stamp_seat, haddr, h4, awake,
    hwindow, writeAccess, hforeign, respond, answered]

/-! ## The commands -/

section

variable {n : Seat} {rq : Req} {s : State}

theorem exec_digWord (rq : Req) (s : State) : exec (.digWord rq) s = .next (serve (reqAccess true 0xC010 rq) s) := rfl

theorem exec_digLastWord (k : Fin 8) (rq : Req) (s : State) :
    exec (.digLastWord k rq) s = .next (serve (reqAccess true (0xC040 + 8 * k.val) rq) s) := rfl

theorem exec_digWord_served (h : Served n rq s) :
    exec (.digWord rq) s = .next (answered rq 0 (writeWord n true (wordBytes rq.data) s)) := by
  rw [exec_digWord, serve_wr h _ (by decide) (by decide) (.inl rfl), writeWide_digWord]

theorem exec_digLastWord_served (h : Served n rq s) (k : Fin 8) : exec (.digLastWord k rq) s =
    .next (answered rq 0 (writeWord n true ((wordBytes rq.data).take (k.val + 1)) s)) := by
  have hk := k.isLt
  rw [exec_digLastWord, serve_wr h _ (by omega) (by omega) (.inl (pageOf_low (by omega))), writeWide_digLastWord]

theorem exec_digWord_narrow (up : s.core.ctrlReset = false) (awake : inWatch s = false) (src : rq.src = stampOf n)
    (narrow : rq.wide = false) (low : rq.low = 0) :
    exec (.digWord rq) s = .next (answered rq 0 (writeWord n false [] s)) := by
  rw [exec_digWord, serve_narrow_low up awake src narrow low (by decide) (by decide)]
  rfl

end

/-- Settles O19: each command is a write of a word by its seat, and the word goes by the selected message, the FIFO's
room and the size of the access. -/
theorem wordInput : Obligations.WordInput := by
  intro n rq s h put told
  have word {t : State} (ht : writeWord n true (wordBytes rq.data) s = t) :
      exec (.digWord rq) s = .next (answered rq 0 t) := ht ▸ exec_digWord_served h
  have lastWord (k : Fin 8) {t : State} (ht : writeWord n true ((wordBytes rq.data).take (k.val + 1)) s = t) :
      exec (.digLastWord k rq) s = .next (answered rq 0 t) := ht ▸ exec_digLastWord_served h k
  refine ⟨fun hnone => ?_, fun i hsel => ⟨fun hroom => ?_, fun hfull => ?_, fun narrow src size low => ?_⟩⟩
  · exact ⟨word (writeWord_unselected _ _ hnone), fun k => lastWord k (writeWord_unselected _ _ hnone)⟩
  · exact ⟨word (writeWord_room hsel _ hroom), fun k => lastWord k (writeWord_room hsel _ hroom)⟩
  · exact ⟨word (writeWord_full hsel _ hfull), fun k => lastWord k (writeWord_full hsel _ hfull)⟩
  · rw [exec_digWord_narrow h.up h.awake (src.trans h.src) size low, writeWord_narrow hsel]
    rfl

end Sys2Proof.Machine
end

section
/-! The DIG commands (R305, R306, R313, R315 to R325): what starting a job does offline and by the check order of
Table 10-4, a yielded job's turn, and the start of a drain. -/

namespace Sys2Proof.Machine

/-! ## The check orders of Table 10-4 -/

/-- The checks of DIG_OPEN. -/
def openChecks (u : State) (j : Job) : List (Bool × Status) :=
  [(openArgsOk u j, .badArgument), (openRightsOk u j, .denied),
   (digStateOk u && decide ((seatMsgs u j.seat).length < 4) && (j.f 0 24 2 != 2 || quotaFree u j.seat), .state)]

/-- The checks of DIG_RESTORE before it reads the image. -/
def restoreChecks (u : State) (j : Job) : List (Bool × Status) :=
  [((j.w 0).toNat % 1024 == 0, .badArgument), (digStateOk u && decide ((seatMsgs u j.seat).length < 4), .state)]

/-- The checks of the commands that name a message. -/
def namedChecks (u : State) (j : Job) : List (Bool × Status) :=
  let m := u.msg ((jobMsg u j).getD 0)
  [(msgArgsOk u j, .badArgument), (msgRightsOk u j, .denied), (digStateOk u, .state),
   (msgState u m != .failed || j.op == .digAbort, msgFailStatus m), (stateAdmits m (msgState u m) j.op, .state),
   (!(j.op == .digFinal && m.dest == 2) || quotaFree u j.seat, .state)]

/-- The checks of a job, by its operation. -/
def digCheckList (u : State) (j : Job) : Op → List (Bool × Status)
  | .digOpen => openChecks u j
  | .digRestore => restoreChecks u j
  | _ => namedChecks u j

theorem digChecks_eq (u : State) (j : Job) : digChecks u j = firstFail (digCheckList u j j.op) := by
  unfold digChecks
  split
  · next hop => rw [hop]; rfl
  · next hop => rw [hop]; rfl
  · next hopen hrestore => rw [digCheckList]; exacts [rfl, hopen, hrestore]

/-! ## Past the checks -/

/-- What a job does on a healthy pipeline, or without one where it needs none, by its operation. -/
def digEffect (j : Job) (u : State) : Op → State
  | .digOpen => if j.f 5 0 9 = 0 then digContext j u else fetchJob { j with holds := true } (j.w 4) (j.f 5 0 9) u
  | .digRestore => fetchJob { j with holds := true } (j.w 0) 620 u
  | .digFinal =>
    let m := u.msg ((jobMsg u j).getD 0)
    if m.data.length < m.length then failJob j .digShort { u with dig := { u.dig with short := satInc u.dig.short } }
    else digContext j u
  | .digCompare =>
    if j.f 1 0 1 = 1 then endCompare j (u.slot ((ownSlot u j.seat (j.f 2 0 16)).getD 0)).content u
    else fetchJob j (j.w 2) (u.msg ((jobMsg u j).getD 0)).outLen u
  | .digAbort => decideJob j .ok noWords (freeMsg ((jobMsg u j).getD 0) u)
  | _ => digContext j u

/-- DIG_ABORT and DIG_COMPARE need no pipeline. -/
def needsPipe (o : Op) : Bool := o != .digAbort && o != .digCompare

/-- What a job does past its checks. -/
def digBegun (j : Job) (u : State) (o : Op) : State :=
  if pipesOk u = 0 ∧ needsPipe o = true then failJob j .retired u else digEffect j u o

section

variable {j : Job} {u : State} {o : Op}

theorem digBegun_piped (hneeds : needsPipe o = true) :
    digBegun j u o = if pipesOk u = 0 then failJob j .retired u else digEffect j u o :=
  if_congr (and_iff_left hneeds) rfl rfl

theorem digBegun_unpiped (hneeds : needsPipe o = false) : digBegun j u o = digEffect j u o :=
  if_neg (by simp [hneeds])

end

/-! ## Starting a job -/

section

variable {u : State} (j : Job)

theorem startDig_offline (hoff : u.core.digOffline = true) : startDig j u = failJob j .fault u := if_pos hoff

theorem startDig_online (hon : u.core.digOffline = false) :
    startDig j u = match firstFail (digCheckList u j j.op) with
      | some st => refuseJob j st (settleKey j u)
      | none => digBegun j u j.op := by
  rw [startDig, if_neg (by rw [hon]; decide), digChecks_eq]
  cases firstFail (digCheckList u j j.op) with
  | some st => rfl
  | none => exact if_congr (by simp [needsPipe, and_assoc]) rfl rfl

end

/-! ## A row at its turn -/

section

variable {o : Op} {c : Instr} {s u : State} {j : Job} (hexec : exec c s = .next (runDig o s))

include hexec

/-- A DIG row at its turn starts its job: offline it fails, and otherwise it meets its check order. -/
theorem admits_dig (hturn : DigTurn o s j u) :
    (u.core.digOffline = true → exec c s = .next (failJob j .fault u))
    ∧ (u.core.digOffline = false →
        Admits c s (digCheckList u j o) (digBegun j u o) (fun st => refuseJob j st (settleKey j u))) := by
  have hstart : exec c s = .next (startDig j u) := hexec.trans (congrArg _ (dig_run hturn))
  refine ⟨fun hoff => hstart.trans (congrArg _ (startDig_offline j hoff)), fun hon => admits_of ?_⟩
  have hgo := startDig_online j hon
  rw [dig_op hturn] at hgo
  exact hstart.trans (congrArg _ hgo)

/-- At the turn of a seat with a yielded job, the row of its operation gives it its context back (R321). -/
theorem exec_dig_resumes {n : Seat} {a : Arb} {x : Job} (hstart : mayStart s .dig = true) (hpipe : pipeFree s = true)
    (hturn : arbTurn s .dig (digWork s) = some (n, a)) (hyield : yielded s n = some x) (hop : x.op = o) :
    exec c s = .next (digContext x { s with arbs := vset s.arbs (engineIx .dig) a }) := by
  rw [hexec, runDig, if_neg (by rw [hstart, hpipe]; decide), hturn]
  dsimp only
  rw [hyield]
  exact congrArg _ (if_pos hop)

end

/-- At the turn of a seat whose FIFO can be drained, a drain starts (R313). -/
theorem exec_digDrain {n : Seat} {a : Arb} {s : State} (hstart : mayStart s .dig = true) (hpipe : pipeFree s = true)
    (hturn : arbTurn s .dig (digWork s) = some (n, a)) (hdrain : drainable s n = true) :
    exec .digDrain s = .next (startDrain n { s with arbs := vset s.arbs (engineIx .dig) a }) := by
  have hexec : exec .digDrain s = execDigDrain s := rfl
  rw [hexec, execDigDrain, if_neg (by rw [hstart, hpipe]; decide), hturn]
  exact congrArg _ (if_pos hdrain)

/-- Settles O42: at its turn each row runs the start of its job, offline or by its check order, past which a row that
needs a pipeline ends retired without one; a yielded job resumes, and a drain starts. -/
theorem digCommands : Obligations.DigCommands := by
  intro s u j i m slots key named piped job again
  have row {o : Op} {c : Instr} {t : State} (hexec : exec c s = .next (runDig o s)) (hbegun : digBegun j u o = t) :
      job o c (digCheckList u j o) t := hbegun ▸ admits_dig hexec
  have rowPiped {o : Op} {c : Instr} (hexec : exec c s = .next (runDig o s)) (hneeds : needsPipe o = true) :
      job o c (digCheckList u j o) (piped (digEffect j u o)) := row hexec (digBegun_piped hneeds)
  have rowUnpiped {o : Op} {c : Instr} (hexec : exec c s = .next (runDig o s)) (hneeds : needsPipe o = false) :
      job o c (digCheckList u j o) (digEffect j u o) := row hexec (digBegun_unpiped hneeds)
  have resumes {o : Op} {c : Instr} (hexec : exec c s = .next (runDig o s)) : again o c :=
    fun n a x => exec_dig_resumes hexec
  exact ⟨rowPiped rfl rfl, rowPiped rfl rfl, rowPiped rfl rfl, rowPiped rfl rfl, rowPiped rfl rfl, rowUnpiped rfl rfl,
    rowUnpiped rfl rfl, resumes rfl, resumes rfl, resumes rfl, fun n a => exec_digDrain⟩

end Sys2Proof.Machine
end

section
/-! The operation order of the block (chapter 00): a step is the front command run on the rest of the queue, or a CTRL
cycle, and no command touches the queue. -/

namespace Sys2Proof.Machine

section

variable {s : State}

theorem step_nil (hempty : s.pending = []) : Machine.step s = .next (tick s) := by
  rw [Machine.step, hempty]

theorem step_cons {c : Instr} {cs : List Instr} (hfront : s.pending = c :: cs) :
    Machine.step s = exec c { s with pending := cs } := by
  rw [Machine.step, hfront]

end

/-- Settles O1: the queue has a front command, which the step takes. -/
theorem stepRunsFrontCommand : Obligations.StepRunsFrontCommand := fun _ _ _ hfront => step_cons hfront

/-- Settles O2: the cycle of an empty queue moves the time alone. -/
theorem emptyQueueLetsOneCyclePass : Obligations.EmptyQueueLetsOneCyclePass := fun _ hempty => step_nil hempty

/-- Settles O3: every command keeps the queue it runs on, and the step runs it on the rest. -/
theorem commandsLeaveTheQueue : Obligations.CommandsLeaveTheQueue := by
  refine ⟨fun c s t e => (exec_keeps e).pending, fun c cs s t hfront e => ?_⟩
  rw [step_cons hfront] at e
  exact (exec_keeps e).pending

end Sys2Proof.Machine
end

section
/-! The commands that take their turn at PART or REC (R360, R366 to R368, R371, R373, R378, R392, R401, R406, R412,
R413, R419) and at ING (R331, R333, R339, R346 to R349, R352, R355): the check orders of Tables 12-7, 13-10 and
11-7. -/

namespace Sys2Proof.Machine

/-! ## A row at its turn -/

section

variable {o : Op} {c : Instr} {s u : State} {j : Job} {go : Job → State → State} {cs : List (Bool × Status)}
  {effect : State} {refuse : Status → State}

/-- A row at its turn meets the check order that starts its job. -/
theorem admits_turn (hexec : exec c s = .next (runJob o true go s)) (hturn : Turn o s j u)
    (hgo : go j u = match firstFail cs with | some st => refuse st | none => effect) : Admits c s cs effect refuse :=
  admits_of (hexec.trans (congrArg _ ((turn_run hturn go).trans hgo)))

/-- An ING row at its turn meets the check order that starts its job. -/
theorem admits_ing (hexec : exec c s = .next (runIng o go s)) (hturn : IngTurn o s j u)
    (hgo : go j u = match firstFail cs with | some st => refuse st | none => effect) : Admits c s cs effect refuse :=
  admits_of (hexec.trans (congrArg _ ((ing_run hturn go).trans hgo)))

end

/-! ## ING_LOAD past its checks (R349) -/

/-- A load on stream lane k, before its envelope is read. -/
def newLoad (j : Job) (u : State) (k : Lane) : Load :=
  { job := j.id, plan := j.plan, part := u.ing.plans[j.plan].part, lane := k, doorbell := j.w 2 }

/-- The plan is LOADING and the load holds its lane; then the envelope is read, unless no AES or KECCAK cell is
healthy. -/
def loadBegun (j : Job) (k : Lane) (u : State) : State :=
  let v := u.modPlan j.plan (fun p => { p with st := .loading })
  let w := { v with ing := { v.ing with loads := v.ing.loads ++ [newLoad j u k] } }
  if healthyCount v aesCells = 0 || healthyCount v keccakCells = 0 then failLoad (newLoad j u k) 0x0C .retired w
  else fetchJob j (j.w 1) 10097 w

theorem startLoad_onLane {j : Job} {u : State} {k : Lane} (hfree : freeLane u = some k) : startLoad j u =
    match ingChecks u (partOrMgmt j.seat) (zeroFrom (j.w 0) 8 && fld (j.w 2) 0 6 == 0 && planMine u j) true
      ((u.ing.plans[j.plan].st == .ready || u.ing.plans[j.plan].st == .failed)
        && partExists u u.ing.plans[j.plan].part && !quarantined u u.ing.plans[j.plan].part) with
    | some st => refuseJob j st u
    | none => loadBegun j k u := by
  rw [startLoad, hfree]
  rfl

/-- Settles O43: at its turn each row runs its check order, and a load takes the free lane. -/
theorem ingCommands : Obligations.IngCommands := by
  intro s u j
  exact ⟨fun hturn => admits_ing (go := startPlan) rfl hturn rfl,
    fun hturn => admits_ing (go := startPlanFree) rfl hturn rfl,
    fun hturn => admits_ing (go := startShardInfo) rfl hturn rfl,
    fun hturn => admits_ing (go := startSweepSet) rfl hturn rfl,
    fun hturn => admits_ing (go := startKeyDrop) rfl hturn rfl,
    fun k hfree hturn => admits_ing (go := startLoad) rfl hturn (startLoad_onLane hfree)⟩

/-- Settles O44: at its turn each row runs its check order. -/
theorem partCommands : Obligations.PartCommands := by
  intro s u j
  exact ⟨fun hturn => admits_turn (go := startCreate) rfl hturn rfl,
    fun hturn => admits_turn (go := startDestroy) rfl hturn rfl,
    fun hturn => admits_turn (go := startShadowBegin) rfl hturn rfl,
    fun hturn => admits_turn (go := startShadowWrite) rfl hturn rfl,
    fun hturn => admits_turn (go := startShadowCancel) rfl hturn rfl,
    fun hturn => admits_turn (go := startSwap) rfl hturn rfl,
    fun hturn => admits_turn (go := startClearRetry) rfl hturn rfl,
    fun hturn => admits_turn (go := startEvidence) rfl hturn rfl,
    fun hturn => admits_turn (go := startCollect) rfl hturn rfl⟩

/-! ## REC_DUMP_READ past its checks (R406) -/

/-- A dump of a readable range records itself and reads its first 4 KiB. -/
def dumpBegun (j : Job) (u : State) : State :=
  if dumpSource u j.part (j.w 1).toNat (j.f 3 0 27) = false then failJob j .badArgument u
  else
    dumpRead j (record { code := 0x1001, seat := stampOf j.seat, part := BitVec.ofNat 8 j.part.val,
                         opcode := opcodeOf .recDumpRead, object := j.w 1, detail := leBytes 4 (j.f 3 0 27) } u)

/-- The checks of REC_DUMP_READ. -/
def dumpChecks (j : Job) (u : State) : List (Bool × Status) :=
  [(isHmb j.seat, .denied),
   (zeroFrom (j.w 0) 6 && zeroFrom (j.w 3) 27 && decide (4096 ≤ j.f 3 0 27) && decide (j.f 3 0 27 ≤ 0x4000000)
      && j.f 3 0 27 % 4096 == 0 && (j.w 1).toNat % 4096 == 0 && aligned64 (j.w 2), .badArgument),
   (operatorRight u j.seat && !(partExists u j.part && u.part.recs[j.part].conf), .denied),
   (partPower u && u.lc.state != lcScrapped && partExists u j.part, .state)]

theorem startDump_eq (j : Job) (u : State) : startDump j u =
    match firstFail (dumpChecks j u) with
    | some st => refuseJob j st u
    | none => dumpBegun j u := by
  rw [startDump, ← dumpChecks]
  cases firstFail (dumpChecks j u) with
  | some st => rfl
  | none => exact if_congr (by rw [Bool.not_eq_true']) rfl rfl

/-- Settles O45: at its turn each row runs its check order, and a dump begins by its source. -/
theorem recCommands : Obligations.RecCommands := by
  intro s u j
  exact ⟨fun hturn => admits_turn (go := startRecRead) rfl hturn rfl,
    fun hturn => admits_turn (go := startRecClear) rfl hturn rfl,
    fun hturn => admits_turn (go := startRecHwRead) rfl hturn rfl,
    fun hturn => admits_turn (go := startRetest) rfl hturn rfl,
    fun hturn => admits_turn (go := startDump) rfl hturn (startDump_eq j u)⟩

end Sys2Proof.Machine
end

section
/-! PART_GROVE_IN0 to 7 (R389): what a seat's write of each register does, and which notices arm. -/

namespace Sys2Proof.Machine

/-! ## The notice -/

/-- What bars a notice (R389): one is armed, its beat is near, the life cycle, or KEYS without its identity. -/
def noticeBarred (a : GroveArmed) (s : State) : Bool :=
  s.part.armed.isSome || decide (a.beat.toNat < lbeat s + 16) || s.lc.state == lcBlank || s.lc.state == lcReturned
    || s.lc.state == lcScrapped || s.keys.held || !s.keys.l0Done

theorem noticeBarred_iff (a : GroveArmed) (s : State) : noticeBarred a s = true ↔
    s.part.armed.isSome = true ∨ a.beat.toNat < lbeat s + 16
      ∨ (s.lc.state = lcBlank ∨ s.lc.state = lcReturned ∨ s.lc.state = lcScrapped)
      ∨ (s.keys.held = true ∨ s.keys.l0Done = false) := by
  simp only [noticeBarred, Bool.or_eq_true, decide_eq_true_eq, beq_iff_eq, Bool.not_eq_true', or_assoc]

theorem armNotice_eq (a : GroveArmed) (s : State) : armNotice a s =
    if noticeBarred a s = true then ignoreNotice a.number s
    else { s with part := { s.part with armed := some a } } := rfl

/-! ## The writes of the registers -/

/-- PART_GROVE_INk holds a word. -/
def putGroveIn (k : Fin 8) (data : Word) (s : State) : State :=
  { s with part := { s.part with groveIn := vset s.part.groveIn k data } }

section

variable {n : Seat} {k : Fin 8} {data : Word} {s : State}

theorem writeGroveIn_other (hother : n ≠ peer) : writeGroveIn n k data s = s := if_pos hother

theorem writeGroveIn_part (hk : k ≠ 7) : writeGroveIn peer k data s = putGroveIn k data s := by
  rw [writeGroveIn, if_neg (by decide)]
  exact if_neg hk

theorem writeGroveIn_last : writeGroveIn peer 7 data s =
    armNotice (noticeOfWords (vset s.part.groveIn 7 data)) (putGroveIn 7 data s) := by
  rw [writeGroveIn, if_neg (by decide)]
  exact if_pos rfl

end

theorem writeWide_partGroveIn (n : Seat) (k : Fin 8) (data : Word) (s : State) :
    writeWide n (0x10040 + 8 * k.val) data s = writeGroveIn n k data s := by
  have hk := k.isLt
  have hix : (0x10040 + 8 * k.val - 0x10040) / 8 = k.val := by omega
  rw [writeWide, pageOf_low (by omega)]
  dsimp only
  unfold writeBlock
  split
  case h_7 => rw [if_neg (by omega), if_pos (by omega), hix, Fin.ofNat_val_eq_self]
  all_goals omega

/-! ## The commands -/

section

variable {n : Seat} {rq : Req} {s : State} (h : Served n rq s)

include h

theorem exec_registerWrite_groveIn (k : Fin 8) :
    exec (.registerWrite (reqAccess true (0x10040 + 8 * k.val) rq)) s
      = .next (answered rq 0 (writeGroveIn n k rq.data s)) := by
  have hk := k.isLt
  rw [exec_registerWrite, serve_wr h _ (by omega) (by omega) (.inl (pageOf_low (by omega))), writeWide_partGroveIn]

theorem exec_partGroveIn7 :
    exec (.partGroveIn7 rq) s = .next (answered rq 0 (writeGroveIn n 7 rq.data s)) :=
  exec_registerWrite_groveIn h 7

end

/-- Settles O20: each command is seat 67's write of its word; the eighth arms its notice unless that is barred. -/
theorem groveNoticeArms : Obligations.GroveNoticeArms := by
  intro n rq s h put a barred
  refine ⟨fun hother => ⟨?_, fun k => ?_⟩, ?_⟩
  · rw [exec_partGroveIn7 h, writeGroveIn_other hother]
  · rw [exec_registerWrite_groveIn h, writeGroveIn_other hother]
  · rintro rfl
    refine ⟨fun k hk => ?_, fun hfree => ?_, fun hbarred => ?_⟩
    · rw [exec_registerWrite_groveIn h, writeGroveIn_part hk]
      rfl
    · have hopen : ¬ noticeBarred a (put 7) = true := fun hb => hfree ((noticeBarred_iff a (put 7)).1 hb)
      rw [exec_partGroveIn7 h, writeGroveIn_last, armNotice_eq]
      exact congrArg (fun t => Host.Outcome.next (answered rq 0 t)) (if_neg hopen)
    · have hstop : noticeBarred a (put 7) = true := (noticeBarred_iff a (put 7)).2 hbarred
      rw [exec_partGroveIn7 h, writeGroveIn_last, armNotice_eq]
      exact congrArg (fun t => Host.Outcome.next (answered rq 0 t)) (if_pos hstop)

end Sys2Proof.Machine
end

section
/-! Clearing runs and blocked writes (R371, R373, R375): what a memory controller's answer leaves of its run, and the
polls. -/

namespace Sys2Proof.Machine

/-! ## A memory controller's answer (R371 steps 5 and 6) -/

/-- A run after one more answer of unit i. -/
def ClearRun.heard (r : ClearRun) (i : Unit7) (ok : Bool) : ClearRun :=
  { r with waitingOn := r.waitingOn.filter (· != i), drewFailed := r.drewFailed || !ok }

/-- The unsettled run that unit i answers under a number. -/
def runAnswered (i : Unit7) (number : BitVec 32) (s : State) : Option ClearRun :=
  s.part.runs.find? (fun r => r.sent && !r.settled && r.number == number && r.waitingOn.contains i)

/-- A run that failed for the third time is recorded. -/
def recordClearFailed (r : ClearRun) (s : State) : State :=
  record { code := 0x0E03, part := BitVec.ofNat 8 r.part.val, object := word (r.startMiB * 2 ^ 20),
           detail := leBytes 4 r.lenMiB } s

section

variable {i : Unit7} {number : BitVec 32} {s : State} {r : ClearRun} {ok : Bool}
  (hrun : runAnswered i number s = some r)

include hrun

/-- The outcome of an answer by what is left of its run. -/
theorem scrubAnswer_run : scrubAnswer i number ok s =
    if ¬ (r.heard i ok).waitingOn = [] then setRun (r.heard i ok) s
    else if (r.heard i ok).drewFailed = false then
      pumpClearing (setRun { r.heard i ok with settled := true, cleared := true } s)
    else if r.fails < 2 then pumpClearing (setRun { r.heard i ok with fails := r.fails + 1, sent := false } s)
    else pumpClearing (setRun { r.heard i ok with fails := r.fails + 1, settled := true } (recordClearFailed r s)) := by
  unfold runAnswered at hrun
  rw [scrubAnswer, hrun]
  exact if_congr (by simp [ClearRun.heard]) rfl (if_congr (by simp [ClearRun.heard]) rfl rfl)

theorem scrubAnswer_waits (hleft : (r.heard i ok).waitingOn ≠ []) :
    scrubAnswer i number ok s = setRun (r.heard i ok) s := by
  rw [scrubAnswer_run hrun, if_pos hleft]

variable (hlast : (r.heard i ok).waitingOn = [])

include hlast

theorem scrubAnswer_clears (hdone : (r.heard i ok).drewFailed = false) : scrubAnswer i number ok s =
    pumpClearing (setRun { r.heard i ok with settled := true, cleared := true } s) := by
  rw [scrubAnswer_run hrun, if_neg (not_not_intro hlast), if_pos hdone]

variable (hfailed : (r.heard i ok).drewFailed = true)

include hfailed

theorem scrubAnswer_retries (hfew : r.fails < 2) : scrubAnswer i number ok s =
    pumpClearing (setRun { r.heard i ok with fails := r.fails + 1, sent := false } s) := by
  rw [scrubAnswer_run hrun, if_neg (not_not_intro hlast), if_neg (by rw [hfailed]; decide), if_pos hfew]

theorem scrubAnswer_fails (hmany : 2 ≤ r.fails) : scrubAnswer i number ok s =
    pumpClearing (setRun { r.heard i ok with fails := r.fails + 1, settled := true } (recordClearFailed r s)) := by
  rw [scrubAnswer_run hrun, if_neg (not_not_intro hlast), if_neg (by rw [hfailed]; decide),
    if_neg (Nat.not_lt.2 hmany)]

end

theorem ClearRun.heard_done (r : ClearRun) (i : Unit7) :
    r.heard i true = { r with waitingOn := r.waitingOn.filter (· != i) } := by
  rw [heard, Bool.not_true, Bool.or_false]

theorem ClearRun.heard_failed (r : ClearRun) (i : Unit7) :
    r.heard i false = { r with waitingOn := r.waitingOn.filter (· != i), drewFailed := true } := by
  rw [heard, Bool.not_false, Bool.or_true]

/-! ## Blocked writes (R375) -/

/-- An answer adds to the count of the oldest question of its unit. -/
theorem blockedAnswer_oldest {i : Unit7} {s : State} {p : Unit7 × Part} (k : Nat)
    (hpoll : s.part.polls.find? (fun p => p.1 == i) = some p) :
    blockedAnswer i k s = { s with part := { s.part with
      polls := s.part.polls.erase p, blocked := vmod s.part.blocked p.2 (fun b => satAdd b k) } } := by
  rw [blockedAnswer, hpoll]

theorem exec_blockedPoll {s : State} (hup : ctrlUp s = true) (hdue : s.beat.lastPoll < lbeat s / 65536) :
    exec .blockedPoll s = .next ((departedOwners s.part.active).foldl (fun s n => readBlocked n s)
      { s with beat := { s.beat with lastPoll := lbeat s / 65536 } }) :=
  congrArg Host.Outcome.next (if_pos (by rw [hup, decide_eq_true hdue]; rfl))

/-- Settles O55: in Watch the bus is idle; awake, an answer goes by what is left of its run, and a poll by its beat. -/
theorem scrubsAndBlockedWrites : Obligations.ScrubsAndBlockedWrites := by
  intro i s
  refine ⟨fun hwatch number k => ⟨fbAnswer_watch _ hwatch, fbAnswer_watch _ hwatch, fbAnswer_watch _ hwatch⟩,
    fun hup hawake => ⟨fun number r hrun => ?_, fun p k hpoll => ?_, fun hdue => exec_blockedPoll hup hdue⟩⟩
  · have hanswer : runAnswered i number s = some r := hrun
    intro left x y
    have hdone : r.heard i true = x := r.heard_done i
    have hfailed : r.heard i false = y := r.heard_failed i
    rw [exec_fbScrubDone, exec_fbScrubFailed, fbAnswer_awake _ hup hawake, fbAnswer_awake _ hup hawake]
    refine ⟨fun hleft => ⟨?_, ?_⟩, fun hlast hclean => ?_, fun hlast hfew => ?_, fun hlast hmany => ?_⟩
    · rw [scrubAnswer_waits hanswer (by rw [hdone]; exact hleft), hdone]
    · rw [scrubAnswer_waits hanswer (by rw [hfailed]; exact hleft), hfailed]
    · rw [scrubAnswer_clears hanswer (by rw [hdone]; exact hlast) (by rw [hdone]; exact hclean), hdone]
    · rw [scrubAnswer_retries hanswer (by rw [hfailed]; exact hlast) (by rw [hfailed]) hfew, hfailed]
    · rw [scrubAnswer_fails hanswer (by rw [hfailed]; exact hlast) (by rw [hfailed]) hmany, hfailed]
      rfl
  · rw [exec_fbBlockedCount, fbAnswer_awake _ hup hawake, blockedAnswer_oldest _ hpoll]

end Sys2Proof.Machine
end

section
/-! The SPDM responder (R378, R382 to R385, Tables 12-11 and 12-12): a heard request, a request that needs the
algorithms settled, the chain of slot 0, chunks, measurements and sessions. -/

namespace Sys2Proof.Machine

section

variable {p : MctpPath} {s : State}

/-! ## A heard request -/

theorem spdmRun_heard (hheard : spdmHeard p s = true) (go : State → State) : spdmRun p go s = .next (go s) :=
  congrArg Host.Outcome.next (if_pos hheard)

theorem settled_algs (halgs : (spdmConn p s).algs = true) (go : State → State) : settled p go s = go s := if_pos halgs

/-- A heard request that needs the algorithms settled. -/
theorem spdmRun_settled (hheard : spdmHeard p s = true) (go : State → State) : spdmRun p (settled p go) s =
    if (spdmConn p s).algs = true then .next (go s) else .next (sayError p "UnexpectedRequest" s) :=
  (spdmRun_heard hheard _).trans (apply_ite Host.Outcome.next _ _ _)

/-! ## Version, capabilities, algorithms (R382) -/

/-- A request that follows another one and carries version 1.3. -/
theorem spdmRun_versioned (hheard : spdmHeard p s = true) (asked : SpdmConn → Bool) (v : BitVec 8)
    (go : State → State) :
    spdmRun p (fun s => if !asked (spdmConn p s) then sayError p "UnexpectedRequest" s else versioned p v go s) s =
      if asked (spdmConn p s) = false then .next (sayError p "UnexpectedRequest" s)
      else if v = 0x13 then .next (go s)
      else .next (sayError p "VersionMismatch" s) := by
  rw [spdmRun_heard hheard, versioned]
  cases asked (spdmConn p s) with
  | false => rfl
  | true => exact apply_ite Host.Outcome.next (v = 0x13) _ _

/-! ## The chain of slot 0 (R384) -/

/-- The answer to a request for the chain of a slot. -/
theorem next_withChain (slot : BitVec 8) (go : Bytes → State → State) :
    (Host.Outcome.next (withChain p slot go s) : Host.Outcome State Fault Refusal) =
      if slot ≠ 0 then .next (sayError p "InvalidRequest" s)
      else match slotZero s with
        | none => .next (sayError p "Unspecified" s)
        | some x => .next (go x s) := by
  rw [withChain, apply_ite Host.Outcome.next]
  cases slotZero s <;> rfl

theorem withChain_zero {chain : Bytes} (hchain : slotZero s = some chain) (go : Bytes → State → State) :
    withChain p 0 go s = go chain s := by
  rw [withChain, if_neg (by decide), hchain]

/-- A heard request for the chain of a slot. -/
theorem spdmRun_withChain (hheard : spdmHeard p s = true) (slot : BitVec 8) (go : Bytes → State → State) :
    spdmRun p (settled p (withChain p slot go)) s =
      if (spdmConn p s).algs = true then
        if slot ≠ 0 then .next (sayError p "InvalidRequest" s)
        else match slotZero s with
          | none => .next (sayError p "Unspecified" s)
          | some x => .next (go x s)
      else .next (sayError p "UnexpectedRequest" s) := by
  rw [spdmRun_settled hheard, next_withChain]

/-- The answer to CHALLENGE for a chain. -/
def challengeAnswer (p : MctpPath) (chain : Bytes) (s : State) : State :=
  if !canSign s then sayError p "Unspecified" s
  else
    let (sig, v) := spdmSign s
    say p (.challengeAuth (chainHash chain) sig) v

theorem challengeAnswer_eq {sig : Bytes} {v : State} (hsign : spdmSign s = (sig, v)) (chain : Bytes) :
    challengeAnswer p chain s =
      if canSign s = true then say p (.challengeAuth (Config.sha384 chain) sig) v else sayError p "Unspecified" s := by
  rw [challengeAnswer, hsign]
  cases canSign s <;> rfl

theorem exec_challenge (slot : BitVec 8) (nonce : Bytes) (s : State) :
    exec (.challenge p slot nonce) s = spdmRun p (settled p (withChain p slot (challengeAnswer p))) s := rfl

/-! ## Chunks (R383) -/

/-- The next chunk of a request in progress, or the first of one. -/
def chunkOrdered (handle : BitVec 8) (q : BitVec 16) (c : SpdmConn) : Bool :=
  if q = 0 then true else handle == c.inHandle && q == c.inNext

theorem chunkOrdered_iff (handle : BitVec 8) (q : BitVec 16) (c : SpdmConn) :
    chunkOrdered handle q c = true ↔ q = 0 ∨ (handle = c.inHandle ∧ q = c.inNext) := by
  by_cases hfirst : q = 0
  · exact iff_of_true (if_pos hfirst) (.inl hfirst)
  · rw [chunkOrdered, if_neg hfirst, Bool.and_eq_true, beq_iff_eq, beq_iff_eq, or_iff_right hfirst]

/-- What CHUNK_SEND is turned away for: its order, or more bytes than a message holds. -/
theorem chunkRefused_iff (handle : BitVec 8) (q : BitVec 16) (c : SpdmConn) (n : Nat) :
    (!chunkOrdered handle q c || decide (65536 < n)) = true ↔
      ¬(q = 0 ∨ (handle = c.inHandle ∧ q = c.inNext)) ∨ 65536 < n := by
  rw [Bool.or_eq_true, Bool.not_eq_true', ← Bool.not_eq_true, chunkOrdered_iff, decide_eq_true_eq]

/-- What CHUNK_GET is turned away for: nothing to give, another handle or another number. -/
theorem chunkAbsent_iff (handle : BitVec 8) (q : BitVec 16) (c : SpdmConn) :
    (c.outBytes.isEmpty || c.outHandle != handle || c.outNext != q) = true ↔
      c.outBytes = [] ∨ c.outHandle ≠ handle ∨ c.outNext ≠ q := by
  simp only [Bool.or_eq_true, List.isEmpty_iff, bne_iff_ne, or_assoc]

/-! ## Other codes -/

theorem exec_spdmUnsupportedRequest {code : BitVec 8} (hheard : spdmHeard p s = true)
    (hcode : supportedCodes.contains code = false) :
    exec (.spdmUnsupportedRequest p code) s = .next (sayError p "UnsupportedRequest" s) := by
  have hexec : exec (.spdmUnsupportedRequest p code) s = execSpdmUnsupportedRequest p code s := rfl
  rw [hexec, execSpdmUnsupportedRequest, spdmRun_heard hheard, if_neg (by rw [hcode]; decide)]

end

/-- Settles O57: a heard request by what it needs: the request before it, its version, the algorithms or the chain. -/
theorem spdmConnection : Obligations.SpdmConnection := by
  intro p s hheard c err ready chain
  refine ⟨fun v => (spdmRun_heard hheard _).trans (apply_ite Host.Outcome.next _ _ _),
    fun v => spdmRun_versioned hheard (·.version) v _,
    fun v => spdmRun_versioned hheard (·.caps) v _,
    spdmRun_withChain hheard 0 _,
    fun slot off len => spdmRun_withChain hheard slot _,
    fun slot nonce sig v hsign => ?_,
    fun handle q last data => (spdmRun_settled hheard _).trans ?_,
    fun handle q => (spdmRun_settled hheard _).trans ?_,
    fun code hcode => exec_spdmUnsupportedRequest hheard hcode⟩
  · rw [exec_challenge, spdmRun_withChain hheard]
    simp only [challengeAnswer_eq hsign]
    rfl
  · exact if_congr Iff.rfl (congrArg _ (if_congr (chunkRefused_iff handle q c _) rfl rfl)) rfl
  · exact if_congr Iff.rfl (congrArg _ (if_congr (chunkAbsent_iff handle q c) rfl rfl)) rfl

section

variable {p : MctpPath} {s : State}

/-! ## Measurements (R378, R383) -/

/-- The answer to GET_MEASUREMENTS with the blocks of its index, or the reason there are none. -/
def answerBlocks (p : MctpPath) (signed : Bool) : Except NoBlocks (List (BitVec 8 × Bytes)) × State → State
  | (.error .noSuch, u) => sayError p "InvalidRequest" u
  | (.error .notNow, u) => sayError p "Unspecified" u
  | (.ok bs, u) =>
    let (x, v) := drawBytes 32 u
    let (sig, w) := if signed then spdmSign v else ([], v)
    sendMeasurements p bs x sig w

theorem answerBlocks_unsigned {bs : List (BitVec 8 × Bytes)} {u v : State} {x : Bytes}
    (hdraw : drawBytes 32 u = (x, v)) :
    answerBlocks p false (.ok bs, u) = sendMeasurements p bs x [] v := by
  simp only [answerBlocks, hdraw, Bool.false_eq_true, if_false]

theorem answerBlocks_signed {bs : List (BitVec 8 × Bytes)} {u v w : State} {x sig : Bytes}
    (hdraw : drawBytes 32 u = (x, v)) (hsign : spdmSign v = (sig, w)) :
    answerBlocks p true (.ok bs, u) = sendMeasurements p bs x sig w := by
  simp only [answerBlocks, hdraw, hsign, if_true]

section

variable (hheard : spdmHeard p s = true) (halgs : (spdmConn p s).algs = true) {index : BitVec 8} {signed : Bool}
  {nonce : Bytes}

include hheard halgs

/-- A signature is asked for and PKE cannot give one. -/
theorem exec_getMeasurements_unsignable (hsigned : signed = true) (hcannot : canSign s = false) :
    exec (.getMeasurements p index signed nonce) s = .next (sayError p "Unspecified" s) :=
  (spdmRun_heard hheard _).trans (congrArg _ ((settled_algs halgs _).trans
    (if_pos (by rw [hsigned, hcannot]; rfl))))

theorem exec_getMeasurements_answered (hcan : signed = true → canSign s = true) :
    exec (.getMeasurements p index signed nonce) s = .next
      (answerBlocks p signed (blocksOf index.toNat (if signed = true then padTo 32 nonce else []) s)) := by
  have hgo : ¬((signed && !canSign s) = true) := by
    cases signed with
    | false => exact Bool.false_ne_true
    | true => rw [hcan rfl]; decide
  exact (spdmRun_heard hheard _).trans (congrArg _ ((settled_algs halgs _).trans (if_neg hgo)))

end

/-! ## Sessions (R383, R385) -/

/-- The session that KEY_EXCHANGE opens. -/
def exchangedSession (p : MctpPath) (req : BitVec 16) (key d h : Bytes) (w : Word) (s : State) : SpdmSession :=
  { id := sessionId req w s, path := p,
    secret := Config.spdmSecrets (ecdhX p384 (p384Scalar d) (0x04#8 :: padTo 96 key)) h }

/-- The open sessions with one more. -/
def addSession (x : SpdmSession) (s : State) : State :=
  { s with part := { s.part with sessions := s.part.sessions ++ [x], sessionCount := s.part.sessionCount + 1 } }

section

variable (hheard : spdmHeard p s = true) (halgs : (spdmConn p s).algs = true) {chain : Bytes}
  (hchain : slotZero s = some chain) {req : BitVec 16} {key : Bytes}

include hheard halgs hchain

theorem exec_keyExchange_full (hfull : 4 ≤ s.part.sessions.length) :
    exec (.keyExchange p 0 req key) s = .next (sayError p "SessionLimitExceeded" s) :=
  (spdmRun_heard hheard _).trans (congrArg _ ((settled_algs halgs _).trans
    ((withChain_zero hchain _).trans (if_pos hfull))))

/-- KEY_EXCHANGE opens its session, and the responder signs. -/
theorem exec_keyExchange_opens (hroom : s.part.sessions.length < 4)
    (hpoint : pointOk p384 (0x04#8 :: padTo 96 key) = true) (hcan : canSign s = true) {d h sig : Bytes}
    {u v x y : State} {w : Word} (hd : drawBytes 64 s = (d, u)) (hh : drawBytes 48 u = (h, v))
    (hw : drawWord v = (w, x))
    (hsign : spdmSign (addSession (exchangedSession p req key d h w x) x) = (sig, y)) :
    exec (.keyExchange p 0 req key) s = .next (say p (.keyExchangeRsp (sessionId req w x) sig) y) := by
  have hexec : exec (.keyExchange p 0 req key) s = spdmRun p (onKeyExchange p 0 req key) s := rfl
  rw [hexec, spdmRun_heard hheard, onKeyExchange, settled_algs halgs, withChain_zero hchain,
    if_neg (Nat.not_le.2 hroom), if_neg (by rw [hpoint]; decide), if_neg (by rw [hcan]; decide)]
  unfold addSession exchangedSession at hsign
  simp only [hd, hh, hw, hsign]

end

/-- A session becomes live. -/
def goLive (id : BitVec 32) (s : State) : State :=
  { s with part := { s.part with
    sessions := s.part.sessions.map (fun y => if y.id = id then { y with live := true } else y) } }

section

variable {id : BitVec 32} {x : SpdmSession}

theorem onSpdmFinish_none (verify : BitVec 384) (hnone : sessionOf s p id = none) :
    onSpdmFinish p id verify s = sayError p "InvalidSession" s := by
  rw [onSpdmFinish, hnone]

theorem onEndSession_none (hnone : sessionOf s p id = none) :
    onEndSession p id s = sayError p "InvalidSession" s := by
  rw [onEndSession, hnone]

variable (hsession : sessionOf s p id = some x)

include hsession

theorem onSpdmFinish_some (verify : BitVec 384) : onSpdmFinish p id verify s =
    if x.live = true then sayError p "UnexpectedRequest" s
    else if Config.spdmFinishMac x.secret = verify then say p .finishRsp (goLive id s)
    else sayError p "DecryptError" (closeSession id s) := by
  rw [onSpdmFinish, hsession]
  rfl

theorem onEndSession_some : onEndSession p id s =
    if x.live = true then say p .endSessionAck (closeSession id s) else sayError p "UnexpectedRequest" s := by
  rw [onEndSession, hsession]

end

end

/-- Settles O58: a heard request by its blocks, its signature, the sessions open, and the session it names. -/
theorem spdmMeasurementsAndSessions : Obligations.SpdmMeasurementsAndSessions := by
  intro p s hheard
  have finish (id : BitVec 32) (verify : BitVec 384) :
      exec (.spdmFinish p id verify) s = .next (onSpdmFinish p id verify s) := spdmRun_heard hheard _
  have ends (id : BitVec 32) : exec (.endSession p id) s = .next (onEndSession p id s) := spdmRun_heard hheard _
  refine ⟨fun halgs index signed nonce => ⟨exec_getMeasurements_unsignable hheard halgs, ?_, ?_,
      fun hcan u hnone => ?_⟩,
    fun halgs chain hchain req key => ?_, fun id verify hnone => ?_,
    fun id x hsession => ⟨fun hopen => ?_, fun hlive => ?_⟩⟩
  · rintro rfl hcan bs u x v sig w hblocks hdraw hsign
    rw [exec_getMeasurements_answered hheard halgs (fun _ => hcan), hblocks, answerBlocks_signed hdraw hsign]
  · rintro rfl bs u x v hblocks hdraw
    rw [exec_getMeasurements_answered hheard halgs (absurd · Bool.false_ne_true), hblocks, answerBlocks_unsigned hdraw]
  · rw [exec_getMeasurements_answered hheard halgs hcan, hnone, answerBlocks]
  · exact ⟨exec_keyExchange_full hheard halgs hchain, fun hroom hpoint hcan d u h v w x sig y =>
      exec_keyExchange_opens hheard halgs hchain hroom hpoint hcan⟩
  · rw [ends, onEndSession_none hnone]
    exact ⟨by rw [finish, onSpdmFinish_none verify hnone], rfl⟩
  · have hwait : ¬x.live = true := by rw [hopen]; decide
    rw [ends, onEndSession_some hsession, if_neg hwait]
    refine ⟨?_, fun verify hwrong => ?_, rfl⟩
    · rw [finish, onSpdmFinish_some hsession, if_neg hwait, if_pos rfl]
      rfl
    · rw [finish, onSpdmFinish_some hsession, if_neg hwait, if_neg hwrong]
      rfl
  · rw [ends, onEndSession_some hsession, if_pos hlive]
    refine ⟨rfl, fun verify => ?_⟩
    rw [finish, onSpdmFinish_some hsession, if_pos hlive]

end Sys2Proof.Machine
end
